-- ==== Sys2Proof/Word.lean ====
section
/-! DEFINITION. The words of the DN-8: bytes, 32-bit register words and 64-bit pairs (spec 04 R62), and the plainest arithmetic on them. -/

namespace Sys2Proof

/-- The smallest addressable unit of storage (R83). -/
abbrev Byte := BitVec 8

/-- One register word, one instruction word (R61, R260). -/
abbrev Word := BitVec 32

/-- A 64-bit value: an even/odd register pair (R62), an address (R14). -/
abbrev Dword := BitVec 64

/-- Bits [31:0] of a 64-bit value: what the even register of a pair holds (R62). -/
def loWord (x : Dword) : Word := x.setWidth 32

/-- Bits [63:32] of a 64-bit value: what the odd register of a pair holds (R62). -/
def hiWord (x : Dword) : Word := (x >>> 32).setWidth 32

/-- The 64-bit value of an even/odd pair (R62). -/
def joinWords (lo hi : Word) : Dword := hi ++ lo

end Sys2Proof
end

