-- ==== Sys2Proof/Machine/Sparse.lean ====
section
/-! DEFINITION. Sparse tables: a list of (key, value) pairs in one canonical form (keys strictly rising, no entry equal to
what an unlisted key reads as). Memory is such a table of bytes; register files, masks and device tables are others. -/

namespace Sys2Proof.Machine

/-- A table keyed by Nat. With Byte entries it is a list of Host.Cell. -/
abbrev Sparse (α : Type) := List (Nat × α)

/-- What key n reads as; an unlisted key reads as d. -/
def Sparse.get {α : Type} (d : α) : Sparse α → Nat → α
  | [], _ => d
  | (k, v) :: r, n => if k = n then v else Sparse.get d r n

/-- The table without key n. -/
def Sparse.del {α : Type} (m : Sparse α) (n : Nat) : Sparse α := m.filter (fun e => e.1 != n)

/-- Insert (n, x) before the first larger key. -/
def Sparse.ins {α : Type} : Sparse α → Nat → α → Sparse α
  | [], n, x => [(n, x)]
  | (k, v) :: r, n, x => if n < k then (n, x) :: (k, v) :: r else (k, v) :: Sparse.ins r n x

/-- Store x at key n; storing d removes the entry. -/
def Sparse.put {α : Type} [DecidableEq α] (d : α) (m : Sparse α) (n : Nat) (x : α) : Sparse α :=
  if x = d then m.del n else (m.del n).ins n x

/-- Change the value at key n by f. -/
def Sparse.upd {α : Type} [DecidableEq α] (d : α) (m : Sparse α) (n : Nat) (f : α → α) : Sparse α :=
  m.put d n (f (m.get d n))

/-- The canonical form: keys strictly rising and no entry equal to d. -/
def Sparse.wf {α : Type} [DecidableEq α] (d : α) : Sparse α → Bool
  | [] => true
  | [(_, v)] => decide (v ≠ d)
  | (k, v) :: (k', v') :: r => decide (v ≠ d) && decide (k < k') && Sparse.wf d ((k', v') :: r)

/-- The canonical form of a memory: addresses strictly rising, no byte listed that reads as an unlisted one does (0, log 3). -/
abbrev Memory.wf (m : Sparse Byte) : Bool := Sparse.wf 0 m

/-- Store xs at n, n+1, … -/
def Sparse.putList {α : Type} [DecidableEq α] (d : α) (m : Sparse α) (n : Nat) : List α → Sparse α
  | [] => m
  | x :: xs => Sparse.putList d (m.put d n x) (n + 1) xs

/-- The values at n, n+1, … n+len-1. -/
def Sparse.getList {α : Type} (d : α) (m : Sparse α) (n len : Nat) : List α :=
  (List.range len).map (fun i => m.get d (n + i))

/-- The listed entries whose key lies in [lo, hi). -/
def Sparse.slice {α : Type} (m : Sparse α) (lo hi : Nat) : Sparse α := m.filter (fun e => decide (lo ≤ e.1 ∧ e.1 < hi))

/-- The table without the keys in [lo, hi). -/
def Sparse.cut {α : Type} (m : Sparse α) (lo hi : Nat) : Sparse α := m.filter (fun e => !decide (lo ≤ e.1 ∧ e.1 < hi))

/-- Insert before the first element that le x holds of. -/
def insertBy {α : Type} (le : α → α → Bool) (x : α) : List α → List α
  | [] => [x]
  | y :: r => if le x y then x :: y :: r else y :: insertBy le x r

/-- A list in the order of le. -/
def sortBy {α : Type} (le : α → α → Bool) (l : List α) : List α := l.foldr (insertBy le) []

/-- A set of Nat: the keys that read true. Poison maps (R58, R73) are such sets. -/
abbrev NatSet := Sparse Bool

def NatSet.has (m : NatSet) (n : Nat) : Bool := Sparse.get false m n
def NatSet.set (m : NatSet) (n : Nat) (b : Bool) : NatSet := Sparse.put false m n b

/-- The little-endian value of a byte list (R189: all fields are little-endian). -/
def leNat : List Byte → Nat
  | [] => 0
  | b :: r => b.toNat + 256 * leNat r

/-- The len low bytes of n, least significant first. -/
def leBytes (len : Nat) (n : Nat) : List Byte := (List.range len).map (fun i => BitVec.ofNat 8 (n / 2 ^ (8 * i)))

def leWord (bs : List Byte) : Word := BitVec.ofNat 32 (leNat bs)
def leDword (bs : List Byte) : Dword := BitVec.ofNat 64 (leNat bs)

/-- Bits [hi:lo] of n. -/
def bitsOf (n hi lo : Nat) : Nat := n / 2 ^ lo % 2 ^ (hi + 1 - lo)

/-- n with bits [hi:lo] replaced by x. -/
def setBits (n hi lo x : Nat) : Nat :=
  n / 2 ^ (hi + 1) * 2 ^ (hi + 1) + x % 2 ^ (hi + 1 - lo) * 2 ^ lo + n % 2 ^ lo

/-- n rounded up to a multiple of m. -/
def roundUp (n m : Nat) : Nat := (n + (m - 1)) / m * m

def Bool.bit (b : Bool) : Nat := if b then 1 else 0

end Sys2Proof.Machine
end

