-- ==== Sys2Proof/Machine/Flags.lean ====
section
/-! DEFINITION. The status flags of R244 and the rounding modes of R242. -/

namespace Sys2Proof.Machine

/-- FLAGS (R244): an instruction only sets flags. -/
abbrev Flags := BitVec 8

def fNV : Flags := 0x01#8
def fDZ : Flags := 0x02#8
def fOF : Flags := 0x04#8
def fUF : Flags := 0x08#8
def fNX : Flags := 0x10#8
def fIDZ : Flags := 0x20#8
def fSAT : Flags := 0x40#8
def fTSAT : Flags := 0x80#8

/-- f when b holds, else none. -/
def flagIf (b : Bool) (f : Flags) : Flags := if b then f else 0

/-- Rounding modes, by the codes of RM (R242). -/
inductive Round where
  | rne | rtz | rup | rdn
  deriving DecidableEq, Repr

def Round.ofCode (n : Nat) : Round :=
  match n with
  | 0 => .rne
  | 1 => .rtz
  | 2 => .rup
  | _ => .rdn

/-- The mode a vector word rounds in (R243): codes 0 to 3 of the round field, else the thread's RM. -/
def roundOf (field : Option (BitVec 3)) (mode : BitVec 32) : Round :=
  match field with
  | none => .ofCode (mode.toNat % 4)
  | some c => if c.toNat < 4 then .ofCode c.toNat else .ofCode (mode.toNat % 4)

/-- FTZ of the mode register (R242). -/
def ftzOf (mode : BitVec 32) : Bool := mode.getLsbD 2

end Sys2Proof.Machine
end

