-- ==== Sys2Proof/Machine/Float.lean ====
section
/-! DEFINITION. IEEE arithmetic, exactly (R245 to R248): values are decoded to dyadic numbers m·2^e, combined without rounding,
and rounded once. Division, roots and the elementary functions carry a sticky mark for what lies below the kept digits. Bit
patterns are Nat. -/

namespace Sys2Proof.Machine

/-- A binary format: exponent bits and fraction bits (R245). -/
structure Fmt where
  ebits : Nat
  fbits : Nat
  deriving DecidableEq, Repr

def fmtF16 : Fmt := ⟨5, 10⟩
def fmtBf16 : Fmt := ⟨8, 7⟩
def fmtF32 : Fmt := ⟨8, 23⟩
def fmtF64 : Fmt := ⟨11, 52⟩

def Fmt.bias (f : Fmt) : Nat := 2 ^ (f.ebits - 1) - 1
def Fmt.width (f : Fmt) : Nat := 1 + f.ebits + f.fbits
/-- All ones of the exponent field. -/
def Fmt.emask (f : Fmt) : Nat := 2 ^ f.ebits - 1
/-- The smallest exponent of a normal number. -/
def Fmt.emin (f : Fmt) : Int := 1 - f.bias
/-- The exponent of the least significant bit of a subnormal. -/
def Fmt.qmin (f : Fmt) : Int := f.emin - f.fbits
def Fmt.signBit (f : Fmt) (s : Bool) : Nat := if s then 2 ^ (f.ebits + f.fbits) else 0
def Fmt.infBits (f : Fmt) (s : Bool) : Nat := f.signBit s + f.emask * 2 ^ f.fbits
def Fmt.maxBits (f : Fmt) (s : Bool) : Nat := f.signBit s + (f.emask * 2 ^ f.fbits - 1)
/-- The canonical NaN (R245). -/
def Fmt.canonNan (f : Fmt) : Nat := f.emask * 2 ^ f.fbits + 2 ^ (f.fbits - 1)

/-- A decoded number. -/
inductive FVal where
  | nan (s : Bool) (frac : Nat)
  | inf (s : Bool)
  | zero (s : Bool)
  | num (s : Bool) (m : Nat) (e : Int)     -- m·2^e, m ≠ 0
  deriving DecidableEq, Repr

/-- Decode a bit pattern (R245); under FTZ a subnormal reads as zero of its sign (R246). -/
def Fmt.decode (f : Fmt) (ftz : Bool) (x : Nat) : FVal :=
  let s := x / 2 ^ (f.ebits + f.fbits) % 2 == 1
  let ex := x / 2 ^ f.fbits % 2 ^ f.ebits
  let fr := x % 2 ^ f.fbits
  if ex = f.emask then (if fr = 0 then .inf s else .nan s fr)
  else if ex = 0 then
    if fr = 0 || ftz then .zero s else .num s fr f.qmin
  else .num s (2 ^ f.fbits + fr) (ex - 1 + f.qmin)

def Fmt.isNan (f : Fmt) (x : Nat) : Bool := x / 2 ^ f.fbits % 2 ^ f.ebits == f.emask && x % 2 ^ f.fbits != 0
def Fmt.isSnan (f : Fmt) (x : Nat) : Bool := f.isNan x && x / 2 ^ (f.fbits - 1) % 2 == 0
/-- A NaN with the fraction's most significant bit set (R247). -/
def Fmt.quiet (f : Fmt) (x : Nat) : Nat := if x / 2 ^ (f.fbits - 1) % 2 = 1 then x else x + 2 ^ (f.fbits - 1)

/-- The number of bits of n; 0 for 0. -/
def bitLen (n : Nat) : Nat := if n = 0 then 0 else Nat.log2 n + 1

/-- m·2^k for a positive or negative k, rounded down. -/
def shiftInt (m : Nat) (k : Int) : Nat := if 0 ≤ k then m * 2 ^ k.toNat else m / 2 ^ (-k).toNat

/-- Does the mode round up, given sign, parity of the kept part, and the comparison of the rest with one half: rest2 is
twice the rest, unit the weight of one. -/
def roundsUp (rm : Round) (s odd : Bool) (rest2 unit : Nat) (sticky : Bool) : Bool :=
  match rm with
  | .rne => decide (unit < rest2) || (decide (rest2 = unit) && (sticky || odd))
  | .rtz => false
  | .rup => !s && (decide (rest2 ≠ 0) || sticky)
  | .rdn => s && (decide (rest2 ≠ 0) || sticky)

/-- m·2^e (plus sticky) rounded to a multiple of 2^q: the multiplier and whether it is inexact. -/
def roundAt (rm : Round) (s : Bool) (m : Nat) (e q : Int) (sticky : Bool) : Nat × Bool :=
  if q ≤ e then (m * 2 ^ (e - q).toNat + Bool.bit (roundsUp rm s (m * 2 ^ (e - q).toNat % 2 == 1) 0 2 sticky), sticky)
  else
    let u := 2 ^ (q - e).toNat
    let k := m / u
    let r := m % u
    (k + Bool.bit (roundsUp rm s (k % 2 == 1) (2 * r) u sticky), decide (r ≠ 0) || sticky)

/-- Round(x, fmt, rm) of R259: the number (−1)^s · m · 2^e, with sticky when the exact value lies strictly between m and
m + 1 units (then m has at least two bits more than the format keeps), rounded once; flags OF, UF, NX as R246 sets out. -/
def Fmt.round (f : Fmt) (rm : Round) (ftz s : Bool) (m : Nat) (e : Int) (sticky : Bool) : Nat × Flags :=
  if m = 0 then (f.signBit s, 0)
  else
    let lead : Int := bitLen m - 1 + e
    let q := max (lead - f.fbits) f.qmin
    let (k, inexact) := roundAt rm s m e q sticky
    let (ku, _) := roundAt rm s m e (lead - f.fbits) sticky
    let tiny := decide (lead < f.emin) && !(decide (lead = f.emin - 1) && decide (ku = 2 ^ (f.fbits + 1)))
    if ftz && decide (k < 2 ^ f.fbits) && decide (q = f.qmin) then (f.signBit s, fUF ||| fNX)
    else
      let (k, q) := if k = 2 ^ (f.fbits + 1) then (2 ^ f.fbits, q + 1) else (k, q)
      let field : Int := if k < 2 ^ f.fbits then 0 else q - f.qmin + 1
      if (f.emask : Int) ≤ field then
        let inf := match rm with
          | .rne => true
          | .rtz => false
          | .rup => !s
          | .rdn => s
        (if inf then f.infBits s else f.maxBits s, fOF ||| fNX)
      else
        (f.signBit s + field.toNat * 2 ^ f.fbits + k % 2 ^ f.fbits, flagIf inexact fNX ||| flagIf (tiny && inexact) fUF)

/-- The first NaN operand, quieted, with NV if any is signalling (R247); none if no operand is a NaN. -/
def Fmt.nanOf (f : Fmt) (xs : List Nat) : Option (Nat × Flags) :=
  match xs.find? f.isNan with
  | none => none
  | some x => some (f.quiet x, flagIf (xs.any f.isSnan) fNV)

/-- The canonical NaN with NV (R247). -/
def Fmt.invalid (f : Fmt) : Nat × Flags := (f.canonNan, fNV)

/-- A signed dyadic number: (mantissa, exponent). -/
abbrev Dy := Int × Int

def FVal.dy : FVal → Dy
  | .num s m e => (if s then -(m : Int) else m, e)
  | _ => (0, 0)

def FVal.isZero : FVal → Bool
  | .zero _ => true
  | _ => false

def FVal.isInf : FVal → Bool
  | .inf _ => true
  | _ => false

def FVal.sign : FVal → Bool
  | .nan s _ => s
  | .inf s => s
  | .zero s => s
  | .num s _ _ => s

def Dy.add (a b : Dy) : Dy :=
  if a.2 ≤ b.2 then (a.1 + b.1 * 2 ^ (b.2 - a.2).toNat, a.2) else (a.1 * 2 ^ (a.2 - b.2).toNat + b.1, b.2)
def Dy.neg (a : Dy) : Dy := (-a.1, a.2)
def Dy.mul (a b : Dy) : Dy := (a.1 * b.1, a.2 + b.2)
/-- −1, 0 or 1. -/
def Dy.sgn (a : Dy) : Int := a.1.sign
def Dy.cmp (a b : Dy) : Int := (Dy.add a (Dy.neg b)).1.sign

/-- An exact number rounded; an exact zero has the sign given. -/
def Fmt.roundDy (f : Fmt) (rm : Round) (ftz zs : Bool) (x : Dy) : Nat × Flags :=
  if x.1 = 0 then (f.signBit zs, 0) else f.round rm ftz (decide (x.1 < 0)) x.1.natAbs x.2 false

/-- The sign of an exact zero sum of numbers of signs s and t (R319). -/
def zeroSign (rm : Round) (s t : Bool) : Bool := if s = t then s else rm == .rdn

/-- a + b of two numbers that are no NaN. -/
def Fmt.addVal (f : Fmt) (rm : Round) (ftz : Bool) (a b : FVal) : Nat × Flags :=
  match a, b with
  | .inf s, .inf t => if s = t then (f.infBits s, 0) else f.invalid
  | .inf s, _ => (f.infBits s, 0)
  | _, .inf t => (f.infBits t, 0)
  | _, _ => f.roundDy rm ftz (zeroSign rm a.sign b.sign) (Dy.add a.dy b.dy)

def FVal.negate : FVal → FVal
  | .nan s x => .nan s x
  | .inf s => .inf !s
  | .zero s => .zero !s
  | .num s m e => .num (!s) m e

/-- FADD (R319). -/
def Fmt.fadd (f : Fmt) (rm : Round) (ftz : Bool) (a b : Nat) : Nat × Flags :=
  match f.nanOf [a, b] with
  | some r => r
  | none => f.addVal rm ftz (f.decode ftz a) (f.decode ftz b)

/-- FSUB (R319). -/
def Fmt.fsub (f : Fmt) (rm : Round) (ftz : Bool) (a b : Nat) : Nat × Flags :=
  match f.nanOf [a, b] with
  | some r => r
  | none => f.addVal rm ftz (f.decode ftz a) (f.decode ftz b).negate

/-- The product of two numbers that are no NaN, exact; none for 0 × ∞. -/
def FVal.times (a b : FVal) : Option FVal :=
  let s := a.sign != b.sign
  match a, b with
  | .inf _, .zero _ => none
  | .zero _, .inf _ => none
  | .inf _, _ => some (.inf s)
  | _, .inf _ => some (.inf s)
  | .num _ m e, .num _ n g => some (.num s (m * n) (e + g))
  | _, _ => some (.zero s)

/-- An exact value rounded. -/
def Fmt.ofVal (f : Fmt) (rm : Round) (ftz : Bool) : FVal → Nat × Flags
  | .nan _ _ => f.invalid
  | .inf s => (f.infBits s, 0)
  | .zero s => (f.signBit s, 0)
  | .num s m e => f.round rm ftz s m e false

/-- FMUL (R319). -/
def Fmt.fmul (f : Fmt) (rm : Round) (ftz : Bool) (a b : Nat) : Nat × Flags :=
  match f.nanOf [a, b] with
  | some r => r
  | none =>
    match FVal.times (f.decode ftz a) (f.decode ftz b) with
    | none => f.invalid
    | some p => f.ofVal rm ftz p

/-- FFMA (R319): a × b + c, formed exactly and rounded once. A product of 0 and ∞ sets NV even when c is a quiet NaN. -/
def Fmt.ffma (f : Fmt) (rm : Round) (ftz : Bool) (a b c : Nat) : Nat × Flags :=
  let p := if f.isNan a || f.isNan b then none else FVal.times (f.decode ftz a) (f.decode ftz b)
  match f.nanOf [a, b, c] with
  | some (x, fl) => (x, fl ||| flagIf (!(f.isNan a || f.isNan b) && p.isNone) fNV)
  | none =>
    match p with
    | none => f.invalid
    | some v => f.addVal rm ftz v (f.decode ftz c)

/-- The order of two numbers that are no NaN, −0 below +0 (R248). -/
def FVal.le (a b : FVal) : Bool :=
  match a, b with
  | .inf true, _ => true
  | _, .inf false => true
  | .inf false, _ => false
  | _, .inf true => false
  | _, _ =>
    let c := Dy.cmp a.dy b.dy
    if a.isZero && b.isZero then a.sign || !b.sign else decide (c ≤ 0)

/-- A number that is no NaN, back to its pattern, without rounding. -/
def Fmt.flushed (f : Fmt) (ftz : Bool) (x : Nat) : Nat :=
  match f.decode ftz x with
  | .zero s => f.signBit s
  | _ => x

/-- FMIN and FMAX (R248, R319). -/
def Fmt.minMax (f : Fmt) (ftz isMax : Bool) (a b : Nat) : Nat × Flags :=
  let fl := flagIf (f.isSnan a || f.isSnan b) fNV
  if f.isNan a && f.isNan b then (f.quiet a, fl)
  else if f.isNan a then (f.flushed ftz b, fl)
  else if f.isNan b then (f.flushed ftz a, fl)
  else
    let ab := FVal.le (f.decode ftz a) (f.decode ftz b)
    (f.flushed ftz (if ab != isMax then a else b), 0)

/-- FABS and FNEG change the sign bit only (R247). -/
def Fmt.fabs (f : Fmt) (a : Nat) : Nat := a % 2 ^ (f.ebits + f.fbits)
def Fmt.fneg (f : Fmt) (a : Nat) : Nat :=
  if a / 2 ^ (f.ebits + f.fbits) % 2 = 1 then a - 2 ^ (f.ebits + f.fbits) else a + 2 ^ (f.ebits + f.fbits)

/-- FCLASS (R320). -/
def Fmt.fclass (f : Fmt) (a : Nat) : Nat :=
  let s := a / 2 ^ (f.ebits + f.fbits) % 2 == 1
  match f.decode false a with
  | .nan _ _ => if f.isSnan a then 1 else 2
  | .inf s => if s then 4 else 512
  | .zero s => if s then 32 else 64
  | .num _ m _ => if m < 2 ^ f.fbits then (if s then 16 else 128) else (if s then 8 else 256)

/-- A number rounded to an integer: its magnitude and whether it changed. -/
def toIntegral (rm : Round) (s : Bool) (m : Nat) (e : Int) : Nat × Bool :=
  if 0 ≤ e then (m * 2 ^ e.toNat, false) else roundAt rm s m e 0 false

/-- FRND (R320). -/
def Fmt.frnd (f : Fmt) (rm : Round) (ftz : Bool) (a : Nat) : Nat × Flags :=
  match f.nanOf [a] with
  | some r => r
  | none =>
    match f.decode ftz a with
    | .num s m e => let (k, _) := toIntegral rm s m e; ((f.round .rne false s k 0 false).1, 0)
    | .zero s => (f.signBit s, 0)
    | _ => (a, 0)

/-- floor(√n) by binary digits, from bit k down. -/
def isqrtGo : Nat → Nat → Nat → Nat
  | 0, _, r => r
  | k + 1, n, r => if (r + 2 ^ k) * (r + 2 ^ k) ≤ n then isqrtGo k n (r + 2 ^ k) else isqrtGo k n r

def isqrt (n : Nat) : Nat := isqrtGo (bitLen n / 2 + 1) n 0

/-- FRCP (R320). -/
def Fmt.frcp (f : Fmt) (rm : Round) (ftz : Bool) (a : Nat) : Nat × Flags :=
  match f.nanOf [a] with
  | some r => r
  | none =>
    match f.decode ftz a with
    | .inf s => (f.signBit s, 0)
    | .num s m e =>
      let k := bitLen m + f.fbits + 4
      f.round rm ftz s (2 ^ k / m) (-e - k) (decide (2 ^ k % m ≠ 0))
    | v => (f.infBits v.sign, fDZ)

/-- m·2^e with an even exponent and enough digits for a root of p bits. -/
def evenScaled (m : Nat) (e : Int) (p : Nat) : Nat × Int :=
  let k := 2 * p + (if e % 2 = 0 then 0 else 1)
  (m * 2 ^ k, e - k)

/-- FSQRT (R320). -/
def Fmt.fsqrt (f : Fmt) (rm : Round) (ftz : Bool) (a : Nat) : Nat × Flags :=
  match f.nanOf [a] with
  | some r => r
  | none =>
    match f.decode ftz a with
    | .zero s => (f.signBit s, 0)
    | .inf false => (f.infBits false, 0)
    | .num false m e =>
      let (n, g) := evenScaled m e (f.fbits + 4)
      let r := isqrt n
      f.round rm ftz false r (g / 2) (decide (r * r ≠ n))
    | _ => f.invalid

/-- FRSQ (R320): 1/√a. -/
def Fmt.frsq (f : Fmt) (rm : Round) (ftz : Bool) (a : Nat) : Nat × Flags :=
  match f.nanOf [a] with
  | some r => r
  | none =>
    match f.decode ftz a with
    | .zero s => (f.infBits s, fDZ)
    | .inf false => (f.signBit false, 0)
    | .num false m e =>
      let (n, g) := evenScaled m e 0
      let k := bitLen n + f.fbits + 4
      let r := isqrt (2 ^ (2 * k) / n)
      f.round rm ftz false r (-(g / 2) - k) (decide (r * r * n ≠ 2 ^ (2 * k)))
    | _ => f.invalid

/-- FSCALE (R322). -/
def Fmt.fscale (f : Fmt) (rm : Round) (ftz : Bool) (a : Nat) (b : Int) : Nat × Flags :=
  match f.nanOf [a] with
  | some r => r
  | none =>
    match f.decode ftz a with
    -- beyond ±3000 every format has over- or underflowed, and the bound keeps the numbers small
    | .num s m e => f.round rm ftz s m (e + max (-3000) (min b 3000)) false
    | v => f.ofVal rm ftz v

/-- The conditions of FCMP (R282, R321) and whether NV is set. -/
def Fmt.fcmp (f : Fmt) (ftz : Bool) (cond : Nat) (a b : Nat) : Bool × Flags :=
  let un := f.isNan a || f.isNan b
  let snan := f.isSnan a || f.isSnan b
  let x := f.decode ftz a
  let y := f.decode ftz b
  let eq := if x.isZero && y.isZero then true else FVal.le x y && FVal.le y x
  let lt := !eq && FVal.le x y
  let ordered := decide (2 ≤ cond ∧ cond ≤ 5)
  let r := match cond with
    | 0 => !un && eq
    | 1 => un || !eq
    | 2 => !un && lt
    | 3 => !un && (lt || eq)
    | 4 => !un && !lt && !eq
    | 5 => !un && !lt
    | 6 => un
    | _ => !un
  (r, flagIf (snan || (ordered && un)) fNV)

/-! ### Elementary functions of R320 and R323, in fixed point with fixP binary digits (log 13) -/

def fixP : Nat := 900
def fixOne : Nat := 2 ^ fixP

/-- Σ z^(2i+1)/(2i+1) for i below n, z in fixed point. -/
def artanhSum : Nat → Nat → Nat → Nat → Nat
  | 0, _, _, _ => 0
  | n + 1, i, z2, term => term / (2 * i + 1) + artanhSum n (i + 1) z2 (term * z2 / fixOne)

def artanh (z : Nat) : Nat := artanhSum 300 0 (z * z / fixOne) z

/-- ln 2 = 2 artanh(1/3). -/
def fixLn2 : Nat := 2 * artanh (fixOne / 3)

/-- Σ (−1)^i / ((2i+1) d^(2i+1)): arctan(1/d). -/
def arctanSum : Nat → Nat → Nat → Nat → Int
  | 0, _, _, _ => 0
  | n + 1, i, d2, term => (if i % 2 = 0 then 1 else -1) * ((term / (2 * i + 1) : Nat) : Int) + arctanSum n (i + 1) d2 (term / d2)

def arctanInv (d : Nat) : Int := arctanSum 220 0 (d * d) (fixOne / d)

/-- π by Machin's formula. -/
def fixPi : Nat := (16 * arctanInv 5 - 4 * arctanInv 239).toNat

/-- Σ x^i/i! from term i on. -/
def expSum : Nat → Nat → Nat → Nat → Nat
  | 0, _, _, _ => 0
  | n + 1, i, x, term => term + expSum n (i + 1) x (term * x / fixOne / (i + 1))

/-- e^x for 0 ≤ x < 1. -/
def fixExp (x : Nat) : Nat := expSum 200 0 x fixOne

/-- Alternating series with terms term, term·x2/((i+1)(i+2)), …: sine from i = 1, cosine from i = 0. -/
def trigSum : Nat → Nat → Nat → Nat → Int
  | 0, _, _, _ => 0
  | n + 1, i, x2, term => (term : Int) - trigSum n (i + 2) x2 (term * x2 / fixOne / ((i + 1) * (i + 2)))

def fixSin (x : Nat) : Nat := (trigSum 120 1 (x * x / fixOne) x).toNat
def fixCos (x : Nat) : Nat := (trigSum 120 0 (x * x / fixOne) fixOne).toNat

/-- FLOG2 (R320). -/
def Fmt.flog2 (f : Fmt) (rm : Round) (ftz : Bool) (a : Nat) : Nat × Flags :=
  match f.nanOf [a] with
  | some r => r
  | none =>
    match f.decode ftz a with
    | .zero _ => (f.infBits true, fDZ)
    | .inf false => (f.infBits false, 0)
    | .num false m e =>
      let n := bitLen m - 1
      let k : Int := n + e
      if m = 2 ^ n then f.roundDy rm ftz false (k, 0)
      else
        let s := m * fixOne / 2 ^ n
        let l := artanh ((s - fixOne) * fixOne / (s + fixOne)) * 2 * fixOne / fixLn2
        let t : Int := k * fixOne + l
        f.round rm ftz (decide (t < 0)) t.natAbs (-fixP) true
    | _ => f.invalid

/-- sin or cos of a number that is not zero (R320): reduction by quarter turns, then the series. -/
def Fmt.trig (f : Fmt) (rm : Round) (ftz cosine s : Bool) (m : Nat) (e : Int) : Nat × Flags :=
  let x := shiftInt m (e + fixP)
  let half := fixPi / 2
  let k := x / half
  let r := x % half
  let quad := (k + Bool.bit cosine) % 4
  let v := if quad % 2 = 0 then fixSin r else fixCos r
  let neg := decide (2 ≤ quad) != (s && !cosine)
  f.round rm ftz neg v (-fixP) true

/-- FSIN (R320). -/
def Fmt.fsin (f : Fmt) (rm : Round) (ftz : Bool) (a : Nat) : Nat × Flags :=
  match f.nanOf [a] with
  | some r => r
  | none =>
    match f.decode ftz a with
    | .zero s => (f.signBit s, 0)
    | .num s m e => f.trig rm ftz false s m e
    | _ => f.invalid

/-- FCOS (R320). -/
def Fmt.fcos (f : Fmt) (rm : Round) (ftz : Bool) (a : Nat) : Nat × Flags :=
  match f.nanOf [a] with
  | some r => r
  | none =>
    match f.decode ftz a with
    | .zero _ => (f.bias * 2 ^ f.fbits, 0)
    | .num s m e => f.trig rm ftz true s m e
    | _ => f.invalid

/-- 2^x for an exact dyadic x, rounded once (R323). -/
def Fmt.exp2 (f : Fmt) (rm : Round) (ftz : Bool) (x : Dy) : Nat × Flags :=
  if x.1 = 0 then (f.bias * 2 ^ f.fbits, 0)
  else
    let n : Int := if 0 ≤ x.2 then x.1 * 2 ^ (min x.2 20).toNat else x.1 / 2 ^ (-x.2).toNat
    if 2000 < n then f.round rm ftz false 1 2000 false
    else if n < -2000 then f.round rm ftz false (2 ^ 40) (-2000) true
    else
      let frac : Int := if 0 ≤ x.2 then 0 else x.1 % 2 ^ (-x.2).toNat
      if frac = 0 then f.round rm ftz false 1 n false
      else
        let v := fixExp (shiftInt frac.toNat (x.2 + fixP) * fixLn2 / fixOne)
        f.round rm ftz false v (n - fixP) true

/-- FEXP2S (R323): 2^(b × (a − c)). -/
def Fmt.fexp2s (f : Fmt) (rm : Round) (ftz : Bool) (a b c : Nat) : Nat × Flags :=
  match f.nanOf [a, b, c] with
  | some r => r
  | none =>
    let x := f.decode ftz a
    let y := f.decode ftz b
    let z := f.decode ftz c
    let diff : Option FVal := match x, z with
      | .inf s, .inf t => if s = t then none else some (.inf s)
      | .inf s, _ => some (.inf s)
      | _, .inf t => some (.inf !t)
      | _, _ =>
        let d := Dy.add x.dy (Dy.neg z.dy)
        some (if d.1 = 0 then .zero false else .num (decide (d.1 < 0)) d.1.natAbs d.2)
    match diff with
    | none => f.invalid
    | some d =>
      match FVal.times y d with
      | none => f.invalid
      | some (.inf s) => (if s then 0 else f.infBits false, 0)
      | some v => f.exp2 rm ftz v.dy

end Sys2Proof.Machine
end

