-- ==== Sys2Proof/Syntax.lean ====
section
/-! DEFINITION. The syntax of the DN-8: one constructor of Instr per row of spec/opcode_table.json. Rows 80 to 260 are
instruction words with their fields (spec 14, R269 to R280); the other rows are the part's whole, indivisible operations and
events (spec 95), whose operands name the unit the event happens to and the value it carries; a message that arrives from outside
the module waits in the state's inbox, and its constructor has no operand. -/

namespace Sys2Proof

/-- The type codes of R241. -/
inductive ElemTy where
  | z32 | s32 | z16 | s16 | z8 | s8 | z64 | s64 | f32 | f64 | f16 | bf16 | t8 | t6 | f16x2 | bf16x2
  deriving DecidableEq, Repr

/-- V extension word: sc[31:24] type[23:20] round[19:17] sat[16] imm16[15:0] (R269, R272). -/
structure VExt where
  sc : BitVec 8
  ty : ElemTy
  rnd : BitVec 3
  sat : Bool
  imm : BitVec 16
  deriving DecidableEq, Repr

/-- S extension word: [31:28] 0, sc[27:19] atype[18:16] func[15:12] cond[11:9] sb[8:0] (R269). -/
structure SExt where
  sc : BitVec 9
  atype : BitVec 3
  func : BitVec 4
  cond : BitVec 3
  sb : BitVec 9
  deriving DecidableEq, Repr

/-- The third operand of an S word: sb7 itself, or, when sb7 = 0x7F, an S extension (R270). -/
inductive STail where
  | short (sb7 : BitVec 7)
  | ext (e : SExt)
  deriving DecidableEq, Repr

/-- Plain M extension: sx[31] sz[30:29] hint[28:27] scope[26:24] off24[23:0] (R269, R279). -/
structure MExt where
  sx : Bool
  sz : BitVec 2
  hint : BitVec 2
  scope : BitVec 3
  off : BitVec 24
  deriving DecidableEq, Repr

/-- M atomic extension: off15[31:17] scope[16:14] atype[13:11] aop[10:7] vb[6:0] (R269, R347). -/
structure AExt where
  off : BitVec 15
  scope : BitVec 3
  atype : BitVec 3
  aop : BitVec 4
  vb : BitVec 7
  deriving DecidableEq, Repr

/-- X extension: dims[31:23] 0 mask[19:12] 0 bsb[10] asb[9] zi[8] 0 fmt[3:0] (R269). -/
structure XExt where
  dims : BitVec 9
  mask : BitVec 8
  bsb : Bool
  asb : Bool
  zi : Bool
  fmt : BitVec 4
  deriving DecidableEq, Repr

/-- What an uncorrectable error strikes (R57, R58, R73, R81): a unit of memory or a register word. -/
inductive PoisonUnit where
  | hbmLine (line : Nat)                              -- 64-byte HBM line number
  | fabricWord (word : Nat)                           -- 64-bit fabric word, numbered over all slices
  | saddlebagWord (team id word : Nat)                -- 64-bit word of a live reservation
  | vectorWord (team group lane reg : Nat)
  | uniformWord (team group reg : Nat)
  | latchWord (team group lane reg : Nat)
  | tileWord (team group tile word : Nat)             -- 64-bit tile word
  | stagingByte (op byte : Nat)                       -- byte of an unfinished copy, in its copy-engine's staging buffer
  deriving DecidableEq, Repr

/-- The alarms of R430. -/
inductive Alarm where
  | ocDie (die : Nat) | supply | hbmRail | ioRail
  deriving DecidableEq, Repr

/-- One instruction word or one operation or event of the part. -/
inductive Instr where
  -- host and system software registers (rows 0 to 6)
  | registerWrite (fn off width : Nat) (value : Dword)
  | partownWrite (partition : Nat) (value : Word)
  | tninvTenant (tenant : Nat) (value : Dword)
  | tninvPage (tenant : Nat) (value : Dword)
  | tninvDone (tenant : Nat)
  | queueEnable (tenant queue : Nat) (value : Word)
  | qtailWrite (tenant queue : Nat) (value : Word)
  -- distributor, picker, register write-back, translation (rows 7 to 14)
  | lpbAccept (tenant : Nat)
  | teamPlace (tenant : Nat)
  | clauseStart (core : Nat)
  | pickerPriority (core : Nat)
  | pendingWriteback (flight : Nat)
  | imageCompletion (team : Nat)
  | translationWalk (cluster tenant page : Nat)
  | counterCompletion (op : Nat)
  -- Awl groups, remote agents, matrix slices, reins, Cinch (rows 15 to 24)
  | awlGrant (owner : Nat)
  | awlPerform (owner index : Nat)
  | remoteAck (op : Nat) (ok : Bool)
  | peerCheckReply (core : Nat) (accept : Bool) (va : Dword)
  | matrixResult (team group tile : Nat)
  | tileLoadComplete (team group tile : Nat)
  | sweepResult (flight : Nat)
  | reinAllowanceGrant (core : Nat)
  | reinRemoteWrite (op : Nat)
  | cinchRelease (launch : Nat)
  -- retirement, seams, islands (rows 25 to 34)
  | teamRetire (team : Nat)
  | launchComplete (launch : Nat)
  | seamFire (launch : Nat)
  | seamLinkReread (launch face : Nat)
  | islSetEnable (tenant slot : Nat) (value : Word)
  | islSetDisable (tenant slot : Nat) (value : Word)
  | pm1Write (tenant slot : Nat) (value : Word)
  | islReportReceive (tenant slot kind a b : Nat)
  | stepBoundary (tenant slot : Nat)
  | islSetPoison (tenant slot : Nat)
  -- system software's control of contexts (rows 35 to 47)
  | eventRingEnable (tenant : Nat) (value : Word)
  | dbgRead (tenant : Nat) (force : Bool)
  | dbgWrite (tenant : Nat) (force : Bool)
  | dbgTileWriteDone (tenant : Nat)
  | contextSuspend (tenant : Nat)
  | suspendComplete (tenant : Nat)
  | contextResume (tenant : Nat)
  | contextKill (tenant : Nat)
  | checkpointTake (tenant : Nat)
  | rollback (tenant : Nat)
  | checkpointEnable (tenant : Nat)
  | checkpointDisable (tenant : Nat)
  | undoLogMark (partition : Nat)
  -- faults and errors (rows 48 to 52)
  | teamFault (team : Nat)
  | tenantFault (tenant : Nat)
  | linkFlitFailure (recurring : Bool)
  | uncorrectableError (unit : PoisonUnit)
  | correctedError (partition : Nat)
  -- Skive, clocks, power (rows 53 to 64)
  | skvctlWrite (core : Nat) (value : Word)
  | marginStepSettle (core : Nat)
  | skiveWindowExpire (core : Nat)
  | timingReplay (core : Nat)
  | nrLateTransition (core : Nat)
  | quarClear (core : Nat)
  | clkratWrite (core : Nat) (value : Word)
  | clockRatioChange (core : Nat)
  | powerCapAdjust (core cap : Nat)
  | overcurrent (alarm : Alarm)
  | pcapRecovery (core cap : Nat)
  | girthFiller (die core : Nat) (running : Bool) (microjoules : Nat)
  -- reset, boot, management, SPDM, links (rows 65 to 79)
  | vfFlr (partition : Nat)
  | renazPortDown (port : Nat)
  -- class S, slots 0x00 and 0x01 (R306, R307)
  | trap (n : BitVec 8)
  | joinEnrol (n : BitVec 8)
  | joinPark (n : BitVec 8)
  | joinStrike (n : BitVec 8)
  | joinTest (d : BitVec 9) (n : BitVec 8)
  -- class S, uniform arithmetic (R295 to R299)
  | smovi (d : BitVec 9) (imm : BitVec 16)
  | smovh (d : BitVec 9) (imm : BitVec 16)
  | saddi (d : BitVec 9) (imm : BitVec 16)
  | sldc (d : BitVec 9) (lit : Word)
  | smov (d a : BitVec 9)
  | sclz (d a : BitVec 9)
  | spopc (d a : BitVec 9)
  | sadd (d a : BitVec 9) (b : STail)
  | ssub (d a : BitVec 9) (b : STail)
  | smul (d a : BitVec 9) (b : STail)
  | smulh (d a : BitVec 9) (b : STail)
  | smulhS32 (d a : BitVec 9) (b : STail)
  | sand (d a : BitVec 9) (b : STail)
  | sor (d a : BitVec 9) (b : STail)
  | sxor (d a : BitVec 9) (b : STail)
  | sandn (d a : BitVec 9) (b : STail)
  | sshl (d a : BitVec 9) (b : STail)
  | sshr (d a : BitVec 9) (b : STail)
  | ssar (d a : BitVec 9) (b : STail)
  | smin (d a : BitVec 9) (b : STail)
  | smax (d a : BitVec 9) (b : STail)
  | sminz (d a : BitVec 9) (b : STail)
  | smaxz (d a : BitVec 9) (b : STail)
  | scmp (d a : BitVec 9) (e : SExt)
  | ssel (d a : BitVec 9) (e : SExt)
  | sadd64 (d a : BitVec 9) (b : STail)
  | ssub64 (d a : BitVec 9) (b : STail)
  -- branches and special registers (R300 to R305, R309)
  | bra (off : BitVec 14)
  | braLong (lit : Word)
  | bru (src : BitVec 8) (cond : BitVec 3) (off : BitVec 14)
  | bruLong (src : BitVec 8) (cond : BitVec 3) (lit : Word)
  | sget (func : BitVec 8) (d : BitVec 9)
  | sset (func : BitVec 8) (a : BitVec 9)
  | brt (src : BitVec 8) (cond : BitVec 3) (off : BitVec 14)
  | brtLong (src : BitVec 8) (cond : BitVec 3) (lit : Word)
  | modeset (src : BitVec 8)
  | modeget (d : BitVec 7)
  | modegetFlags (d : BitVec 7)
  | clk (d : BitVec 9)
  | call (off : BitVec 14)
  | callLong (lit : Word)
  | brx (src : BitVec 8)
  | callx (src : BitVec 8)
  -- class V, integer (R314 to R318)
  | vadd (nw : Bool) (d : BitVec 7) (a b : BitVec 8) (e : Option VExt)
  | vaddsat (nw : Bool) (d : BitVec 7) (a b : BitVec 8) (e : VExt)
  | vsub (nw : Bool) (d : BitVec 7) (a b : BitVec 8) (e : Option VExt)
  | vsubsat (nw : Bool) (d : BitVec 7) (a b : BitVec 8) (e : VExt)
  | vmul (nw : Bool) (d : BitVec 7) (a b : BitVec 8) (e : Option VExt)
  | vmulh (nw : Bool) (d : BitVec 7) (a b : BitVec 8) (e : Option VExt)
  | vmad (nw : Bool) (d : BitVec 7) (a b : BitVec 8) (e : VExt)
  | vand (nw : Bool) (d : BitVec 7) (a b : BitVec 8) (e : Option VExt)
  | vor (nw : Bool) (d : BitVec 7) (a b : BitVec 8) (e : Option VExt)
  | vxor (nw : Bool) (d : BitVec 7) (a b : BitVec 8) (e : Option VExt)
  | vshl (nw : Bool) (d : BitVec 7) (a b : BitVec 8) (e : Option VExt)
  | vshr (nw : Bool) (d : BitVec 7) (a b : BitVec 8) (e : Option VExt)
  | vsar (nw : Bool) (d : BitVec 7) (a b : BitVec 8) (e : Option VExt)
  | vmin (nw : Bool) (d : BitVec 7) (a b : BitVec 8) (e : Option VExt)
  | vmax (nw : Bool) (d : BitVec 7) (a b : BitVec 8) (e : Option VExt)
  | vnot (nw : Bool) (d : BitVec 7) (a : BitVec 8) (e : Option VExt)
  | vabs (nw : Bool) (d : BitVec 7) (a : BitVec 8) (e : Option VExt)
  | vneg (nw : Bool) (d : BitVec 7) (a : BitVec 8) (e : Option VExt)
  | vclz (nw : Bool) (d : BitVec 7) (a : BitVec 8) (e : Option VExt)
  | vpopc (nw : Bool) (d : BitVec 7) (a : BitVec 8) (e : Option VExt)
  | vbrev (nw : Bool) (d : BitVec 7) (a : BitVec 8) (e : Option VExt)
  | vcmp (nw : Bool) (d : BitVec 7) (a b : BitVec 8) (e : VExt)
  | vsel (nw : Bool) (d : BitVec 7) (a b : BitVec 8) (e : VExt)
  | vbfe (nw : Bool) (d : BitVec 7) (a b : BitVec 8) (e : VExt)
  | vbfi (nw : Bool) (d : BitVec 7) (a b : BitVec 8) (e : VExt)
  | vdiv (nw : Bool) (d : BitVec 7) (a b : BitVec 8) (e : Option VExt)
  | vrem (nw : Bool) (d : BitVec 7) (a b : BitVec 8) (e : Option VExt)
  -- class V, float (R319 to R326)
  | fadd (nw : Bool) (d : BitVec 7) (a b : BitVec 8) (e : Option VExt)
  | fsub (nw : Bool) (d : BitVec 7) (a b : BitVec 8) (e : Option VExt)
  | fmul (nw : Bool) (d : BitVec 7) (a b : BitVec 8) (e : Option VExt)
  | ffma (nw : Bool) (d : BitVec 7) (a b : BitVec 8) (e : VExt)
  | fmin (nw : Bool) (d : BitVec 7) (a b : BitVec 8) (e : Option VExt)
  | fmax (nw : Bool) (d : BitVec 7) (a b : BitVec 8) (e : Option VExt)
  | fabs (nw : Bool) (d : BitVec 7) (a : BitVec 8) (e : Option VExt)
  | fneg (nw : Bool) (d : BitVec 7) (a : BitVec 8) (e : Option VExt)
  | fclass (nw : Bool) (d : BitVec 7) (a : BitVec 8) (e : Option VExt)
  | frnd (nw : Bool) (d : BitVec 7) (a : BitVec 8) (e : Option VExt)
  | frcp (nw : Bool) (d : BitVec 7) (a : BitVec 8) (e : Option VExt)
  | frsq (nw : Bool) (d : BitVec 7) (a : BitVec 8) (e : Option VExt)
  | fsqrt (nw : Bool) (d : BitVec 7) (a : BitVec 8) (e : Option VExt)
  | flog2 (nw : Bool) (d : BitVec 7) (a : BitVec 8) (e : Option VExt)
  | fsin (nw : Bool) (d : BitVec 7) (a : BitVec 8) (e : Option VExt)
  | fcos (nw : Bool) (d : BitVec 7) (a : BitVec 8) (e : Option VExt)
  | fcmp (nw : Bool) (d : BitVec 7) (a b : BitVec 8) (e : VExt)
  | fscale (nw : Bool) (d : BitVec 7) (a b : BitVec 8) (e : Option VExt)
  | fexp2s (nw : Bool) (d : BitVec 7) (a b : BitVec 8) (e : VExt)
  | cvt (nw : Bool) (d : BitVec 7) (a : BitVec 8) (stype : ElemTy) (e : VExt)
  | vpack (nw : Bool) (d : BitVec 7) (a b : BitVec 8) (e : VExt)
  | vunpk (nw : Bool) (d : BitVec 7) (a b : BitVec 8) (e : VExt)
  -- class V, cross-lane (R327 to R334)
  | vshfl (nw : Bool) (d : BitVec 7) (a b : BitVec 8) (e : Option VExt)
  | vshfx (nw : Bool) (d : BitVec 7) (a b : BitVec 8) (e : Option VExt)
  | vshfup (nw : Bool) (d : BitVec 7) (a b : BitVec 8) (e : Option VExt)
  | vshfdn (nw : Bool) (d : BitVec 7) (a b : BitVec 8) (e : Option VExt)
  | vbcst (nw : Bool) (d : BitVec 7) (a b : BitVec 8) (e : Option VExt)
  | vred (nw : Bool) (d : BitVec 7) (a : BitVec 8) (op : BitVec 8) (e : Option VExt)
  | vscan (nw : Bool) (d : BitVec 7) (a : BitVec 8) (op : BitVec 8) (e : Option VExt)
  | vballot (nw : Bool) (d : BitVec 7) (a : BitVec 8)
  | vvote (nw : Bool) (d : BitVec 7) (a : BitVec 8) (mode : BitVec 8)
  | rand (nw : Bool) (d : BitVec 7) (a : BitVec 8) (e : Option VExt)
  | rebal (nw : Bool) (d : BitVec 7) (a b : BitVec 8) (e : Option VExt)
  | vtopk (nw : Bool) (d : BitVec 7) (a b : BitVec 8) (e : VExt)
  -- class M (R337 to R351)
  | ld32 (d : BitVec 7) (p i : BitVec 8) (e : Option MExt)
  | ld64 (d : BitVec 7) (p i : BitVec 8) (e : Option MExt)
  | st32 (d : BitVec 7) (p i : BitVec 8) (e : Option MExt)
  | st64 (d : BitVec 7) (p i : BitVec 8) (e : Option MExt)
  | ldf32 (d : BitVec 7) (p i : BitVec 8) (e : Option MExt)
  | ldf64 (d : BitVec 7) (p i : BitVec 8) (e : Option MExt)
  | stf32 (d : BitVec 7) (p i : BitVec 8) (e : Option MExt)
  | stf64 (d : BitVec 7) (p i : BitVec 8) (e : Option MExt)
  | ldu (d a : BitVec 9) (b : STail)
  | atom (nw : Bool) (d : BitVec 7) (p i : BitVec 8) (e : AExt)
  | red (p i : BitVec 8) (e : AExt)
  | atomCas (nw : Bool) (d : BitVec 7) (p i : BitVec 8) (e : AExt)
  | atomCas64 (nw : Bool) (d : BitVec 7) (p i : BitVec 8) (e : AExt)
  | fence (remote : Bool) (storage : BitVec 2) (scope : BitVec 3) (kind : BitVec 2)
  | waitc (ctr : BitVec 2) (n : BitVec 8)
  | push (a : BitVec 9) (b : STail)
  | pusht (d a : BitVec 9) (b : STail)
  | pop (d a : BitVec 9)
  | popt (d a : BitVec 9)
  | reinOpen (a : BitVec 9) (b : STail)
  | reinClose (a : BitVec 9)
  | pref (p i : BitVec 8) (e : Option MExt)
  | sweep (d : BitVec 7) (p i : BitVec 8) (budget : BitVec 9)
  -- class A (R339, R341 to R343, R352, R353)
  | cpy (d a : BitVec 9) (b : STail)
  | cpySb (d a : BitVec 9) (b : STail)
  | cpy2d (d a : BitVec 9) (b : STail)
  | cpy2dSb (d a : BitVec 9) (b : STail)
  | gath (d : BitVec 7) (p i : BitVec 8) (e : Option MExt)
  | scat (d : BitVec 7) (p i : BitVec 8) (e : Option MExt)
  | xcpy (d a : BitVec 9) (b : STail)
  | xred (d a : BitVec 9) (e : SExt)
  -- class X (R354 to R372)
  | mma (d c : BitVec 4) (a b : BitVec 8) (e : XExt)
  | mmab (d c : BitVec 4) (a b : BitVec 8) (e : XExt)
  | mmag (d c : BitVec 4) (a b : BitVec 8) (e : XExt)
  | smma (d c : BitVec 4) (a b : BitVec 8) (e : XExt)
  | tld (d : BitVec 4) (p b : BitVec 8) (e : Option XExt)
  | tst (d : BitVec 4) (p b : BitVec 8) (e : Option XExt)
  | tzero (d : BitVec 4)
  | tmov (d c : BitVec 4)
  | twait (d : BitVec 4)
  | tstat (a : BitVec 8)
  | tcvt (d c : BitVec 4) (e : XExt)
  | msearch (c : BitVec 4) (m : BitVec 8)
  | resv (p q : BitVec 8)
  | rels (p : BitVec 8)
  | rqry (p q : BitVec 8)
  | gang (p : BitVec 8)
  -- class Y (R373 to R395)
  | launch (d : BitVec 9) (p : BitVec 8)
  | lwait (d : BitVec 9) (h : BitVec 8)
  | lstat (d : BitVec 9) (h : BitVec 8)
  | seamPos (d : BitVec 9)
  | seamQry (d : BitVec 9) (sel : BitVec 8)
  | islLink (v : BitVec 7) (kind : BitVec 1) (slot : BitVec 4)
  | islUnlink (v : BitVec 7) (slot : BitVec 4)
  | islStep (d : BitVec 9)
  | islInfo (d : BitVec 9) (sel : BitVec 4) (slot : BitVec 4)
  | islWake (v : BitVec 7) (slot : BitVec 4)
  | stampMix (a : BitVec 8)
  | stampGet (v : BitVec 7)
  | evtpost (p : BitVec 9) (code : BitVec 8)
  | skvGet (d : BitVec 9) (sel : BitVec 8)
  | pctr (d : BitVec 9) (all : BitVec 1) (n : BitVec 7)
  | feat (d : BitVec 9)
  -- rows 261 to 265
  | illegalInstruction (word : Word)
  | accessPerformed (flight : Nat)
  | imageMove (team : Nat) (addr : Dword)
  -- the instructions without operands (R307, R305, R344, R380, R384, R395)
  | nop
  | exit
  | yield
  | tret
  | ret
  | drain
  | seamDone
  | islStill
  | halt
  -- resets, power and boot (rows 66, 67, 68, 265)
  | pfReset
  | powerOn
  | powerLoss
  | networkBoot                -- the oldest network-boot reply of the inbox
  -- management and SPDM requests (rows 69 to 76): the oldest message of that kind in the inbox
  | redfishRequest
  | getVersion
  | getCapabilities
  | negotiateAlgorithms
  | getDigests
  | getCertificate
  | challenge
  | getMeasurements
  -- inbound accesses (rows 78, 79, 264): the oldest message of that kind in the inbox
  | renazInboundAccess
  | xredContribution
  | inboundHostWrite
  deriving DecidableEq, Repr

end Sys2Proof
end

