-- ==== Sys2Proof/WellFormed.lean ====
section
/-! DEFINITION. Which instruction words are valid encodings: the checks of order 2 of R284 that the fields of Instr leave
open (extension present or absent, type accepted, unused fields 0, legal combinations). A word that fails one traps
ILLEGAL_INSTRUCTION. Checks of order 4 (operand codes, register fields) are not here: they belong to the meanings. -/

namespace Sys2Proof

/-- Why a word is no valid encoding (R284 order 2). -/
inductive Defect where
  | type          -- the operand type is not accepted (R241)
  | round         -- a round code the word does not accept (R243, R312)
  | condition     -- a condition code the word does not have (R281, R282)
  | saturate      -- sat on a word or type that has none, or absent on the saturating form (R314)
  | unused        -- an unused field is not 0 (R271)
  | size          -- sz or sx not allowed for the access (R279)
  | hint          -- hint code 3, or a hint on a fabric-only access (R279, R337)
  | operation     -- an operation and type combination that does not exist (R129, R330)
  | form          -- the form of another row (an alias, or a required form missing)
  deriving DecidableEq, Repr

/-- The code of a type (R241). -/
def ElemTy.code : ElemTy → BitVec 4
  | .z32 => 0 | .s32 => 1 | .z16 => 2 | .s16 => 3 | .z8 => 4 | .s8 => 5 | .z64 => 6 | .s64 => 7
  | .f32 => 8 | .f64 => 9 | .f16 => 10 | .bf16 => 11 | .t8 => 12 | .t6 => 13 | .f16x2 => 14 | .bf16x2 => 15

/-- The type of a code (R241). -/
def ElemTy.ofCode (c : BitVec 4) : ElemTy :=
  match c.toNat with
  | 0 => .z32 | 1 => .s32 | 2 => .z16 | 3 => .s16 | 4 => .z8 | 5 => .s8 | 6 => .z64 | 7 => .s64
  | 8 => .f32 | 9 => .f64 | 10 => .f16 | 11 => .bf16 | 12 => .t8 | 13 => .t6 | 14 => .f16x2 | _ => .bf16x2

/-- The integer types (R314). -/
def ElemTy.isInt : ElemTy → Bool
  | .z32 | .s32 | .z16 | .s16 | .z8 | .s8 | .z64 | .s64 => true
  | _ => false

/-- The signed integer types. -/
def ElemTy.isSigned : ElemTy → Bool
  | .s32 | .s16 | .s8 | .s64 => true
  | _ => false

/-- The float types of R319. -/
def ElemTy.isFloat : ElemTy → Bool
  | .f32 | .f64 | .f16 | .bf16 | .f16x2 | .bf16x2 => true
  | _ => false

/-- The unpacked float types. -/
def ElemTy.isScalarFloat : ElemTy → Bool
  | .f32 | .f64 | .f16 | .bf16 => true
  | _ => false

/-- The width at which a word of this type reads an operand (R241, R312). -/
def ElemTy.width : ElemTy → Nat
  | .z64 | .s64 | .f64 => 64
  | .z16 | .s16 | .f16 | .bf16 => 16
  | .z8 | .s8 | .t8 | .t6 => 8
  | _ => 32

/-- How a vector word reads its round field. -/
inductive RoundUse where
  | none | rounds | cond (last : Nat)
  deriving DecidableEq, Repr

def isImmCode (c : BitVec 8) : Bool := c == 0xDE#8 || c == 0xDF#8

/-- The checks of a V extension: type accepted, round field, sat, sc and imm16 unused unless named (R271, R272, R312). -/
def VExt.defect (e : VExt) (accepts : ElemTy → Bool) (r : RoundUse) (satUse usesSc : Bool) (codes : List (BitVec 8)) :
    Option Defect :=
  if !accepts e.ty then some .type
  else if !(match r with | .none => e.rnd == 0 | .rounds => e.rnd.toNat ≤ 4 | .cond n => e.rnd.toNat ≤ n) then
    some (match r with | .cond _ => .condition | _ => .round)
  else if e.sat && !satUse then some .saturate
  else if !usesSc && e.sc != 0 then some .unused
  else if e.imm != 0 && !((if usesSc then e.sc :: codes else codes).any isImmCode) then some .unused
  else none

/-- The same for an optional extension; without one the type is the default of R272. -/
def vOptDefect (e : Option VExt) (dflt : ElemTy) (accepts : ElemTy → Bool) (r : RoundUse) (codes : List (BitVec 8)) :
    Option Defect :=
  match e with
  | none => if accepts dflt then none else some .type
  | some x => x.defect accepts r false false codes

/-- An S extension that holds only a third register (R296, R341, R349). -/
def SExt.onlySb (e : SExt) : Bool := e.sc == 0 && e.atype == 0 && e.func == 0 && e.cond == 0

/-- sb7 names s0 to s126; 0x7F says that an extension follows (R270). -/
def STail.defect : STail → Option Defect
  | .short b => if b == 0x7F#7 then some .form else none
  | .ext e => if e.onlySb then none else some .unused

/-- Whether R129 has the combination of operation and type, for ATOM or for RED. -/
def aopLegal (red : Bool) (aop : BitVec 4) (atype : BitVec 3) : Bool :=
  match aop.toNat with
  | 0 | 1 | 2 => decide (atype.toNat ≤ 3)
  | 3 | 4 | 5 => atype == 0 || atype == 2
  | 6 => !red && (atype == 0 || atype == 2)
  | 7 => atype == 4 || atype == 5
  | _ => false

/-- The plain M extension (R279): wide is a 64-bit base opcode, signed a word that may sign-extend, fabric a word
whose hint must be 0. -/
def mDefect (e : Option MExt) (wide signed fabric : Bool) : Option Defect :=
  match e with
  | none => none
  | some x =>
    if x.hint == 3#2 || (fabric && x.hint != 0) then some .hint
    else if wide && x.sz != 0 then some .size
    else if x.sx && !(signed && (x.sz == 1#2 || x.sz == 2#2)) then some .size
    else none

/-- The X extension of an MMA-family word (R280, R362, R369). -/
def mmaDefect (c : BitVec 4) (e : XExt) (maskUsed : Bool) : Option Defect :=
  if e.zi && c != 0 then some .unused
  else if !maskUsed && e.mask != 0 then some .unused
  else none

/-- The X extension of a word that names only fmt (R354, R370, R371). -/
def XExt.onlyFmt (e : XExt) : Bool := e.dims == 0 && e.mask == 0 && !e.bsb && !e.asb && !e.zi

/-- Conditions of BRU and BRT (R281): 1 to 6. -/
def branchCond (c : BitVec 3) : Bool := decide (1 ≤ c.toNat ∧ c.toNat ≤ 6)

/-- off14 = 0x2000 says that a literal follows (R270). -/
def offLong (o : BitVec 14) : Bool := o == 0x2000#14

/-- The operator of VRED and VSCAN against the type (R330). -/
def redDefect (op : BitVec 8) (e : Option VExt) (a : BitVec 8) : Option Defect :=
  if 9 ≤ op.toNat then some .operation
  else if 6 ≤ op.toNat then
    vOptDefect e .z32 (fun t => t == .f32 || t == .f64) (if op.toNat = 6 then .rounds else .none) [a]
  else vOptDefect e .z32 (fun t => t == .z32 || t == .s32 || t == .z64 || t == .s64) .none [a]

def isZ (t : ElemTy) : Bool := t == .z32 || t == .z64

/-- The first failing check of order 2 of R284 that the fields of the instruction leave open; none for a valid word, and
for the operations and events, which have no encoding. -/
def Instr.defect : Instr → Option Defect
  | .sadd _ _ b | .ssub _ _ b | .smul _ _ b | .sand _ _ b | .sor _ _ b | .sxor _ _ b | .sandn _ _ b
  | .sshl _ _ b | .sshr _ _ b | .ssar _ _ b | .smin _ _ b | .smax _ _ b | .sminz _ _ b | .smaxz _ _ b
  | .sadd64 _ _ b | .ssub64 _ _ b | .smulh _ _ b => b.defect
  | .smulhS32 _ _ b =>
    match b with
    | .short _ => some .form
    | .ext e => if e.sc == 0 && e.func == 0 && e.cond == 0 && e.atype == 1#3 then none else some .form
  | .scmp _ _ e => if e.sc == 0 && e.atype == 0 && e.func == 0 then none else some .unused
  | .ssel _ _ e => if e.cond == 0 && e.atype == 0 && e.func == 0 then none else some .unused
  | .bra off => if offLong off then some .form else none
  | .bru src cond off => if offLong off || (cond == 0 && src == 0) then some .form
      else if cond == 7#3 then some .condition else none
  | .bruLong src cond _ => if cond == 0 && src == 0 then some .form else if cond == 7#3 then some .condition else none
  | .brt _ cond off => if offLong off then some .form else if branchCond cond then none else some .condition
  | .brtLong _ cond _ => if branchCond cond then none else some .condition
  | .call off => if offLong off then some .form else none
  | .vadd _ _ a b e | .vsub _ _ a b e => vOptDefect e .z32 ElemTy.isInt .none [a, b]
  | .vaddsat _ _ a b e | .vsubsat _ _ a b e =>
    if !e.sat then some .saturate else e.defect ElemTy.isInt .none true false [a, b]
  | .vmul _ _ a b e | .vshl _ _ a b e =>
    match e with
    | none => none
    | some x => x.defect ElemTy.isInt .none true false [a, b]
  | .vmad _ _ a b e => e.defect ElemTy.isInt .none true true [a, b]
  | .vmulh _ _ a b e | .vand _ _ a b e | .vor _ _ a b e | .vxor _ _ a b e | .vshr _ _ a b e | .vsar _ _ a b e
  | .vmin _ _ a b e | .vmax _ _ a b e | .vdiv _ _ a b e | .vrem _ _ a b e => vOptDefect e .z32 ElemTy.isInt .none [a, b]
  | .vnot _ _ a e | .vneg _ _ a e | .vclz _ _ a e | .vpopc _ _ a e | .vbrev _ _ a e =>
    vOptDefect e .z32 ElemTy.isInt .none [a]
  | .vabs _ _ a e => vOptDefect e .z32 ElemTy.isSigned .none [a]
  | .vcmp _ _ a b e => e.defect ElemTy.isInt (.cond 5) false false [a, b]
  | .vsel _ _ a b e => e.defect isZ .none false true [a, b]
  | .vbfe _ _ a b e => e.defect (fun t => t == .z32 || t == .s32) .none false true [a, b]
  | .vbfi _ _ a b e => e.defect (fun t => t == .z32) .none false true [a, b]
  | .fadd _ _ a b e | .fsub _ _ a b e | .fmul _ _ a b e | .fmin _ _ a b e | .fmax _ _ a b e =>
    vOptDefect e .f32 ElemTy.isFloat .rounds [a, b]
  | .ffma _ _ a b e => e.defect ElemTy.isFloat .rounds false true [a, b]
  | .fabs _ _ a e | .fneg _ _ a e => vOptDefect e .f32 ElemTy.isFloat .none [a]
  | .fclass _ _ a e => vOptDefect e .f32 ElemTy.isScalarFloat .none [a]
  | .frnd _ _ a e | .fsqrt _ _ a e => vOptDefect e .f32 ElemTy.isFloat .rounds [a]
  | .frcp _ _ a e | .frsq _ _ a e => vOptDefect e .f32 (fun t => t == .f32 || t == .f64) .rounds [a]
  | .flog2 _ _ a e | .fsin _ _ a e | .fcos _ _ a e => vOptDefect e .f32 (fun t => t == .f32) .rounds [a]
  | .fcmp _ _ a b e => e.defect ElemTy.isScalarFloat (.cond 7) false false [a, b]
  | .fscale _ _ a b e => vOptDefect e .f32 ElemTy.isScalarFloat .rounds [a, b]
  | .fexp2s _ _ a b e => e.defect (fun t => t == .f32) .rounds false true [a, b]
  | .cvt _ _ a st e =>
    if st == .f16x2 || st == .bf16x2 then some .type
    else e.defect (fun t => !(t == .f16x2 || t == .bf16x2)) .rounds false false [a]
  | .vpack _ _ a b e =>
    if e.ty == .f16x2 || e.ty == .bf16x2 then e.defect (fun _ => true) .rounds false false [a, b]
    else if e.ty == .z16 then e.defect (fun _ => true) .none false false [a, b]
    else e.defect (fun t => t == .z8 || t == .t8 || t == .t6) .none false true [a, b]
  | .vunpk _ _ a b e =>
    e.defect (fun t => t == .f16x2 || t == .bf16x2 || t == .t8 || t == .t6 || t == .z8 || t == .s8 || t == .z16 || t == .s16)
      .none false false [a, b]
  | .vshfl _ _ a b e | .vshfx _ _ a b e | .vshfup _ _ a b e | .vshfdn _ _ a b e | .vbcst _ _ a b e =>
    vOptDefect e .z32 isZ .none [a, b]
  | .vred _ _ a op e | .vscan _ _ a op e => redDefect op e a
  | .vvote _ _ _ m => if 3 ≤ m.toNat then some .operation else none
  | .rand _ _ a e => vOptDefect e .z32 (fun t => t == .z32 || t == .z64 || t == .f32) .none [a]
  | .rebal _ _ a b e => vOptDefect e .z32 (fun t => t == .z32) .none [a, b]
  | .vtopk _ _ a b e => e.defect (fun t => t == .f32) .none false true [a, b]
  | .ld32 _ _ _ e | .gath _ _ _ e => mDefect e false true false
  | .ld64 _ _ _ e => mDefect e true true false
  | .st32 _ _ _ e | .scat _ _ _ e => mDefect e false false false
  | .st64 _ _ _ e => mDefect e true false false
  | .ldf32 _ _ _ e => mDefect e false true true
  | .ldf64 _ _ _ e => mDefect e true true true
  | .stf32 _ _ _ e => mDefect e false false true
  | .stf64 _ _ _ e => mDefect e true false true
  | .ldu _ _ b =>
    match b with
    | .short c => if c == 0x7F#7 then some .form else none
    | .ext e => if e.sc == 0 && e.cond == 0 then (if decide (e.atype.toNat ≤ 5) then none else some .type) else some .unused
  | .atom _ _ _ _ e => if aopLegal false e.aop e.atype then none else some .operation
  | .red _ _ e => if aopLegal true e.aop e.atype then none else some .operation
  | .atomCas nw _ _ _ e | .atomCas64 nw _ _ _ e => if !nw && e.aop == 0 && e.atype == 0 then none else some .unused
  | .push _ b | .pusht _ _ b | .reinOpen _ b => b.defect
  | .pref _ _ e =>
    match e with
    | none => none
    | some x => if x.sx || x.sz != 0 || x.scope != 0 then some .unused else if x.hint == 3#2 then some .hint else none
  | .cpy _ _ b | .cpySb _ _ b | .cpy2d _ _ b | .cpy2dSb _ _ b | .xcpy _ _ b => b.defect
  | .xred _ _ e => if e.cond != 0 then some .unused
      else if aopLegal true e.func e.atype then none else some .operation
  | .mma _ c _ _ e => if e.asb || e.bsb then some .unused else mmaDefect c e false
  | .mmab _ c _ _ e => if !e.asb && !e.bsb then some .form else mmaDefect c e false
  | .mmag _ c _ _ e => mmaDefect c e false
  | .smma _ c _ _ e => mmaDefect c e true
  | .tld _ _ _ e | .tst _ _ _ e =>
    match e with
    | none => none
    | some x => if !x.onlyFmt then some .unused
        else if x.fmt == 8#4 || x.fmt == 10#4 || x.fmt == 11#4 then none else some .type
  | .tcvt _ _ x => if !x.onlyFmt then some .unused
      else if x.fmt == 10#4 || x.fmt == 11#4 || x.fmt == 12#4 || x.fmt == 13#4 then none else some .type
  | _ => none

/-- A valid encoding (R284 order 2). -/
def Instr.wf (i : Instr) : Bool := i.defect.isNone

end Sys2Proof
end

