-- ==== Sys2Proof/Machine/Convert.lean ====
section
/-! DEFINITION. Conversions between the formats of R241 (R250 to R252, R324), the tapered codes, and packing (R325, R326).
Values are patterns of the type's width, as Nat. -/

namespace Sys2Proof.Machine

/-- The two's-complement integer of the low w bits of x. -/
def toSigned (w x : Nat) : Int :=
  let y := x % 2 ^ w
  if y < 2 ^ (w - 1) then y else (y : Int) - 2 ^ w

/-- The integer value of a w-bit pattern. -/
def intOf (signed : Bool) (w x : Nat) : Int := if signed then toSigned w x else ((x % 2 ^ w : Nat) : Int)

/-- The w-bit pattern of an integer. -/
def patOf (w : Nat) (n : Int) : Nat := (n % (2 ^ w : Int)).toNat

def intMin (signed : Bool) (w : Nat) : Int := if signed then -(2 ^ (w - 1) : Int) else 0
def intMax (signed : Bool) (w : Nat) : Int := if signed then 2 ^ (w - 1) - 1 else 2 ^ w - 1

/-- n clamped to the range of the type, and whether it was (R249). -/
def saturate (signed : Bool) (w : Nat) (n : Int) : Int × Bool :=
  if n < intMin signed w then (intMin signed w, true)
  else if intMax signed w < n then (intMax signed w, true)
  else (n, false)

/-- The 32-bit word of a narrow result: sign-extended for s types, else zero-extended (R312). -/
def extendTo32 (t : ElemTy) (x : Nat) : Nat :=
  if t.isSigned && decide (t.width < 32) then patOf 32 (toSigned t.width x) else x % 2 ^ t.width

/-- The format of a float type. -/
def fmtOf : ElemTy → Fmt
  | .f64 => fmtF64
  | .f16 | .f16x2 => fmtF16
  | .bf16 | .bf16x2 => fmtBf16
  | _ => fmtF32

/-! ### Tapered codes (R251, R252) -/

/-- The number of equal bits of m from bit i down, for a leading bit lead. -/
def runLen (m : Nat) (lead : Bool) : Nat → Nat
  | 0 => 0
  | i + 1 => if m.testBit i = lead then 1 + runLen m lead i else 0

/-- DecodeT of a magnitude that is not 0: the exponent x and the significand sig (R251). -/
def decodeTMag (m nb : Nat) : Int × Nat :=
  let lead := m.testBit (nb - 1)
  let n := runLen m lead nb
  let k : Int := if lead then n - 1 else -n
  let i := nb - n - 1                -- bits left below the bit that ends the run
  let e : Nat := if i = 0 then 0 else Bool.bit (m.testBit (i - 1))
  let fm := i - 1
  let f := m % 2 ^ fm
  (2 * k + e, 16 + f * 2 ^ (4 - fm))

/-- The value of a tapered code: (−1)^S · 2^x · sig/16 (R251). -/
def decodeT (nb code : Nat) : FVal :=
  let s := code.testBit nb
  let m := code % 2 ^ nb
  if m = 0 then (if s then .nan true 0 else .zero false)
  else let (x, sig) := decodeTMag m nb; .num s sig (x - 4)

/-- The value of a magnitude code. -/
def tValue (nb m : Nat) : Dy := let (x, sig) := decodeTMag m nb; ((sig : Int), x - 4)

/-- EncodeT (R252): the code whose value is nearest, measured on the real values. -/
def encodeT (nb : Nat) (v : FVal) : Nat × Flags :=
  let maxM := 2 ^ nb - 1
  let sg (s : Bool) (m : Nat) : Nat := if s then 2 ^ nb + m else m
  match v with
  | .nan _ _ => (2 ^ nb, 0)
  | .zero _ => (0, 0)
  | .inf s => (sg s maxM, fTSAT)
  | .num s m e =>
    let d : Dy := ((m : Int), e)
    if 0 < Dy.cmp d (tValue nb maxM) then (sg s maxM, fTSAT ||| fNX)
    else if Dy.cmp d (tValue nb 1) < 0 then
      (if Dy.cmp (Dy.mul d (2, 0)) (tValue nb 1) < 0 then (0, fUF ||| fNX) else (sg s 1, fUF ||| fNX))
    else
      let lo := ((List.range maxM).filter (fun i => decide (Dy.cmp (tValue nb (i + 1)) d ≤ 0))).length
      if Dy.cmp (tValue nb lo) d = 0 then (sg s lo, 0)
      else
        let c := Dy.cmp (Dy.mul d (2, 0)) (Dy.add (tValue nb lo) (tValue nb (lo + 1)))
        (sg s (if c < 0 then lo else if 0 < c then lo + 1 else if lo % 2 = 0 then lo else lo + 1), fNX)

/-- The bits of a tapered magnitude. -/
def taperBits (t : ElemTy) : Nat := if t == .t6 then 5 else 7

/-! ### Floats and integers (R247, R250, R324) -/

/-- A NaN of one format in another, quieted (R247). -/
def nanConvert (src dst : Fmt) (x : Nat) : Nat :=
  let fr := x % 2 ^ src.fbits
  let fr := if src.fbits ≤ dst.fbits then fr * 2 ^ (dst.fbits - src.fbits) else fr / 2 ^ (src.fbits - dst.fbits)
  dst.quiet (dst.signBit (x / 2 ^ (src.ebits + src.fbits) % 2 == 1) + dst.emask * 2 ^ dst.fbits + fr)

/-- A float pattern of one format converted to another (R247, R324). -/
def floatToFloat (src dst : Fmt) (rm : Round) (ftz : Bool) (x : Nat) : Nat × Flags :=
  if src.isNan x then (nanConvert src dst x, flagIf (src.isSnan x) fNV)
  else dst.ofVal rm ftz (src.decode ftz x)

/-- A number rounded to an integer of the type, clamped (R250). -/
def valToInt (signed : Bool) (w : Nat) (rm : Round) (v : FVal) : Nat × Flags :=
  match v with
  | .nan _ _ => (0, fNV)
  | .zero _ => (0, 0)
  | .inf s => (patOf w (if s then intMin signed w else intMax signed w), fSAT ||| fNV)
  | .num s m e =>
    let (k, inexact) := toIntegral rm s m e
    let n : Int := if s then -(k : Int) else k
    let (c, sat) := saturate signed w n
    (patOf w c, if sat then fSAT ||| fNV else flagIf inexact fNX)

def intVal (n : Int) : FVal := if n = 0 then .zero false else .num (decide (n < 0)) n.natAbs 0

/-- CVT (R324), from a pattern of type st to one of type dt. -/
def convert (st dt : ElemTy) (rm : Round) (ftz : Bool) (x : Nat) : Nat × Flags :=
  if st = dt then (if dt == .t6 then x % 64 else x % 2 ^ dt.width, 0)
  else if st.isInt then
    let n := intOf st.isSigned st.width x
    if dt.isInt then
      let (c, sat) := saturate dt.isSigned dt.width n
      (patOf dt.width c, flagIf sat fSAT)
    else if dt.isScalarFloat then (fmtOf dt).ofVal rm ftz (intVal n)
    else encodeT (taperBits dt) (intVal n)
  else if st.isScalarFloat then
    if dt.isInt then valToInt dt.isSigned dt.width rm ((fmtOf st).decode false x)
    else if dt.isScalarFloat then floatToFloat (fmtOf st) (fmtOf dt) rm ftz x
    else
      let (c, f) := encodeT (taperBits dt) ((fmtOf st).decode false x)
      (c, f ||| flagIf ((fmtOf st).isSnan x) fNV)
  else
    let v := decodeT (taperBits st) x
    if dt.isInt then valToInt dt.isSigned dt.width rm v
    else if dt.isScalarFloat then
      match v with
      | .nan _ _ => ((fmtOf dt).canonNan, 0)
      | v => (fmtOf dt).ofVal rm false v
    else encodeT (taperBits dt) v

/-! ### Packing (R325, R326) -/

/-- x with byte k replaced by the low byte of b. -/
def setByte (x k b : Nat) : Nat := setBits x (8 * k + 7) (8 * k) (b % 256)

/-- VPACK (R325). -/
def vpackVal (t : ElemTy) (rm : Round) (a b c : Nat) : Nat × Flags :=
  let k := b % 4
  match t with
  | .f16x2 | .bf16x2 =>
    let (x, f) := floatToFloat fmtF32 (fmtOf t) rm false a
    let (y, g) := floatToFloat fmtF32 (fmtOf t) rm false b
    (x + 65536 * y, f ||| g)
  | .z16 => (a % 65536 + 65536 * (b % 65536), 0)
  | .z8 => (setByte c k a, 0)
  | t =>
    let (x, f) := convert .f32 t rm false a
    (setByte c k x, f)

/-- VUNPK (R326). -/
def vunpkVal (t : ElemTy) (a b : Nat) : Nat × Flags :=
  match t with
  | .f16x2 | .bf16x2 => floatToFloat (fmtOf t) fmtF32 .rne false (a / 65536 ^ (b % 2) % 65536)
  | .t8 | .t6 => convert t .f32 .rne false (a / 256 ^ (b % 4) % 256)
  | .z8 | .s8 => (extendTo32 t (a / 256 ^ (b % 4) % 256), 0)
  | t => (extendTo32 t (a / 65536 ^ (b % 2) % 65536), 0)

end Sys2Proof.Machine
end

