-- ==== Sys2Proof/Config.lean ====
section
/-! DEFINITION. What an implementation fixes and the values the spec leaves open. Every one is opaque: nothing in Lean can
evaluate it or prove a value of it, so a statement holds whatever it is. -/

namespace Sys2Proof.Config

/-- The n-th free choice of the machine, as a number: which of several allowed outcomes is taken (log 6, 7, 9). -/
opaque freeNat : Nat → Nat

/-- What byte off of a reservation's units reads as before it is written, for one grant (R360, log 5). -/
opaque saddlebagByte : Nat → Nat → Byte

/-- The words of a reservation-table entry that hold its place, by its first unit and word (R78, log 16). -/
opaque placeWord : Nat → Nat → Word

/-- TSAVE0 of a thread with one vector register, by the place and the time of its trap (R400, log 32). -/
opaque absentRegister : Dword → Nat → Nat → Word

/-- The digests of the two public keys in the fuses (R443, log 10). -/
opaque fusedEd25519 : List Byte

opaque fusedMlDsa65 : List Byte

/-- The fused minimum of the security version (R443, log 10). -/
opaque fusedSvn : Nat

/-- The boot ROM's bytes, for measurement 1 (R444, log 10). -/
opaque bootRom : List Byte

/-- The Kolell root's certificate, and those that chain the device key to it (R444, log 10). -/
opaque rootCert : List Byte

opaque deviceCerts : List (List Byte)

/-- The ECDSA P-384 signature of the device key over a SHA-384 digest (R444, log 10). -/
opaque deviceSign : List Byte → List Byte

/-- The module number the Wamir complex sets at bring-up (R437, log 4). -/
opaque moduleNumber : BitVec 12

/-- Whether a peer's module number is routed (R437, log 11). -/
opaque routed : Nat → Bool

/-- The ports that lead to a peer module (R437, log 11). -/
opaque portsTo : Nat → List Nat

/-- The inbound window of a peer module that holds a physical address there: module, address (R438, R440, log 75). -/
opaque peerWindow : Nat → Nat → Nat

/-- The FEAT register of a core after bring-up (R393, R445, log 12). -/
opaque featOf : Nat → Dword

/-- What the Wamir complex writes to SKVCTL and CLKRAT of a core at bring-up (R445, log 12). -/
opaque skvctlOf : Nat → Word

opaque clkratOf : Nat → Word

end Sys2Proof.Config
end

