-- ==== Sys2Proof/Machine/State.lean ====
section
/-! DEFINITION. The state of the DN-8, as plain data: threads, groups, teams and launches (spec 09, 10), their images,
tiles and reservations (04), the memories and translations (02, 03), the registers of tenants, partitions, cores and the module
(02, 10, 12, 20 to 24), the units that work on their own (Awl queues, copy engines, Cinch, Seam and Lacing units), and the
state after reset. Everything keyed by a number is a sparse table with a default record. -/

namespace Sys2Proof.Machine

/-! ### Why a step can stop -/

/-- The machine stops. -/
inductive Fault where
  /-- An inbound write names an HBM physical address at or above the top of R30, which no memory holds. Raised by
  inboundHostWrite. Safe: the model stops where the part has no stated answer. -/
  | noSuchAddress (addr : Nat)
  deriving DecidableEq, Repr

/-- No step is taken. -/
inductive Refusal where
  /-- An instruction without a meaning. Raised only by exec's arms. Safe. -/
  | notModelled (mnemonic : String)
  /-- An instruction word is executed while no bundle stands on the current core. Raised by every instruction word.
  Safe: a word issues only for a bundle (R170). -/
  | noBundle
  /-- The agenda holds an instruction word where only events stand. Raised by step. Safe. -/
  | wordInAgenda
  deriving DecidableEq, Repr

/-! ### Traps and threads -/

/-- Trap causes (R397). -/
inductive Cause where
  | illegalInstruction | illegalClause | illegalOperand | latchInvalid | align | addrNoncanon | pageFault | access
  | poisonRead | stackOverflow | reinClosed | gangBroken | featureAbsent | digestMismatch | software | breakpoint
  deriving DecidableEq, Repr

/-- The cause codes of R397. -/
def Cause.code : Cause → Nat
  | .illegalInstruction => 1 | .illegalClause => 2 | .illegalOperand => 3 | .latchInvalid => 4 | .align => 5
  | .addrNoncanon => 6 | .pageFault => 7 | .access => 8 | .poisonRead => 9 | .stackOverflow => 10 | .reinClosed => 11
  | .gangBroken => 12 | .featureAbsent => 13 | .digestMismatch => 14 | .software => 15 | .breakpoint => 16

/-- What a blocked thread waits for (R174). -/
inductive Wait where
  | push | pop | lwait | step | ticket | mmag
  /-- A wait that covers a copy paused for the ticket, with its threshold (R55). -/
  | copy (n : Nat)
  deriving DecidableEq, Repr

/-- STATE of R71. -/
inductive Status where
  | exited | ready | parked (mask : Nat) | blocked (w : Wait) | handler | stopped
  deriving DecidableEq, Repr

/-- The STATE code of R71, bits [2:0] and the mask index in [6:4]. -/
def Status.code : Status → Nat
  | .exited => 0 | .ready => 1 | .parked n => 2 + 16 * n | .blocked _ => 3 | .handler => 4 | .stopped => 5

/-- The 28 trap-state bytes of R398. -/
structure TrapState where
  cause : Nat := 0
  rpos : Nat := 0
  lval : BitVec 4 := 0
  code : Nat := 0
  nest : Bool := false
  dbg : Bool := false
  tva : Dword := 0
  trpc : Dword := 0
  tsave0 : Word := 0
  tsave1 : Word := 0
  deriving DecidableEq, Repr

/-- Four latches of one lane (R175): values, valid bits, poison. -/
structure Latches where
  val : Sparse Word := []
  valid : NatSet := []
  poison : NatSet := []
  deriving DecidableEq, Repr

/-- The rein a thread waits at (R138): the owner's member index, the block's offset, the port, and whether it pops. -/
structure ReinWait where
  pop : Bool
  member : Nat
  off : Nat
  port : Nat
  deriving DecidableEq, Repr

/-- One thread (R165, R71). An unlisted lane is an exited thread. -/
structure Thread where
  pc : Dword := 0
  pos : Nat := 0
  status : Status := .exited
  mode : Word := 0
  /-- The mode in effect until the clause ends, where a write of the image has changed the field inside it (R458). -/
  modeWas : Option Word := none
  flags : BitVec 8 := 0
  draws : Dword := 0
  depth : Nat := 0
  frames : Sparse Dword := []
  trap : TrapState := {}
  v : Sparse Word := []
  vPoison : NatSet := []
  /-- Latches live in the issue slice. -/
  y : Latches := {}
  /-- Latches in the image's latch area (R69, R72, R400). -/
  ySaved : Latches := {}
  /-- The core cycle at which the thread became ready at its clause: its age (R199). -/
  readyAt : Nat := 0
  /-- It was not ready when the last cycles passed, so the cycle at which it becomes ready is still to come. -/
  late : Bool := false
  /-- Its bundle has been ready for 1,024 core cycles (R199). -/
  prio : Bool := false
  /-- Order of arrival at the rein block a blocked PUSH or POP waits at (R138). -/
  arrived : Nat := 0
  rein : Option ReinWait := none
  /-- The running CRC register and record count of R147. -/
  crc : Dword := 0xFFFFFFFFFFFFFFFF
  records : Nat := 0
  deriving DecidableEq, Repr

/-! ### Groups -/

/-- The value of a tile: 1,024 FP32 words, poison per 64-bit word (R69, R73). -/
structure TileVal where
  elems : Sparse Word := []
  poison : NatSet := []
  deriving DecidableEq, Repr

/-- A tile register with its status bits (R74). -/
structure Tile where
  val : TileVal := {}
  v : Bool := false
  d : Bool := false
  f : Bool := false
  /-- The result on its way while F is set; none leaves the tile as it is (R364). -/
  next : Option TileVal := none
  /-- Reservation grants whose units the operation still holds (R79). -/
  held : List Nat := []
  /-- The operation on its way is a tile load, which no matrix slice works on (R371, R417). -/
  byLoad : Bool := false
  deriving DecidableEq, Repr

/-- A group waiting at the MMAG rendezvous (R366). -/
structure Rendezvous where
  g : Dword
  base : Word
  ext : Word
  /-- The header of the clause the word stands in. -/
  header : Word
  deriving DecidableEq, Repr

/-- One group (R165). -/
structure Group where
  live : Bool := false
  core : Nat := 0
  threads : Sparse Thread := []
  s : Sparse Word := []
  sPoison : NatSet := []
  tiles : Sparse Tile := []
  joins : Sparse (BitVec 64) := []
  /-- c.cpy, c.gth, c.ato, c.col (R52). -/
  counters : Sparse Nat := []
  g : Dword := 0
  rtick : Word := 0
  /-- GDONE (R213). -/
  done : Bool := false
  /-- ISL.STEP arrival of this step, and the island's result once given (R383). -/
  arrived : Bool := false
  result : Option Nat := none
  rendezvous : Option Rendezvous := none
  suspended : Bool := false
  deriving DecidableEq, Repr

/-! ### Teams -/

/-- A reservation-table entry (R77, R78). -/
structure Resv where
  live : Bool := false
  r0 : Word := 0
  r1 : Word := 0
  r2 : Word := 0
  r3 : Word := 0
  /-- First logical unit (R360). -/
  unit : Nat := 0
  /-- Number of the grant: unwritten bytes of one grant are its own free values (R360). -/
  grant : Nat := 0
  /-- The byte values that teams of the tenant had written to the partition's Saddlebags before the grant (R360). -/
  past : NatSet := []
  deriving DecidableEq, Repr

/-- Units released but not yet returned (R79). -/
structure Released where
  unit : Nat
  size : Nat
  grant : Nat
  deriving DecidableEq, Repr

/-- A DET staging entry (R148). -/
structure Stage where
  va : Nat
  red : Bool
  aop : Nat
  atype : Nat
  data : List Byte
  /-- Poison of the entry's 8-byte data words. -/
  poison : NatSet
  /-- A piece of a copy, whose write removes the lines it touches from the issuing cluster's cache (R51). -/
  copy : Bool := false
  /-- The copy it is a piece of. -/
  op : Nat := 0
  deriving DecidableEq, Repr

/-- An open launch handle (R375) and the pool entry it holds. -/
structure Handle where
  handle : Nat
  partition : Nat
  entry : Nat
  deriving DecidableEq, Repr

/-- What a suspended team's Saddlebag save area holds (R80), byte by byte in save order. -/
structure SbSave where
  bytes : Sparse Byte := []
  poison : NatSet := []
  deriving DecidableEq, Repr

/-- One team (R165). An unlisted team does not exist. -/
structure Team where
  live : Bool := false
  tenant : Nat := 0
  launch : Nat := 0
  index : Nat := 0
  /-- Module cluster of the team's fabric region, its first byte in the slice and its size. -/
  cluster : Nat := 0
  base : Nat := 0
  region : Nat := 0
  /-- Where the image stands when it was moved into HBM (R60, R214), a virtual address. -/
  moved : Option Dword := none
  groups : Sparse Group := []
  resv : Sparse Resv := []
  released : List Released := []
  /-- Logical Saddlebag contents (R360): bytes, which are written, poison per 64-bit word. -/
  sb : Sparse Byte := []
  sbWritten : NatSet := []
  sbPoison : NatSet := []
  /-- Rein blocks under guard: offset in the declared fabric bytes (R135). -/
  guard : List Nat := []
  member : Nat := 0
  gangSize : Nat := 1
  started : Bool := false
  exposed : Bool := false
  relaunches : Nat := 0
  accepted : Nat := 0
  handles : List Handle := []
  /-- TSTATE (R68). -/
  suspended : Bool := false
  complete : Bool := false
  sbSaved : Bool := false
  sbSave : SbSave := {}
  /-- A suspend has been asked for and its bundles are stopping (R407). -/
  stopping : Bool := false
  /-- The team waits for room to resume on a core (R198, R425). -/
  awaiting : Bool := false
  /-- Suspended because every thread waits in LWAIT (R378): it comes back when every LWAIT can return. -/
  lwaitOut : Bool := false
  staging : List Stage := []
  /-- CSTATE bits 1 and 2 (R147). -/
  releasedDet : Bool := false
  /-- Retired, its fabric region kept until it is released (R151). -/
  retired : Bool := false
  exited : Bool := false
  tdigest : Dword := 0
  /-- The region's bytes while R153 has copied it into HBM. -/
  swapped : Option (Sparse Byte × NatSet) := none
  /-- Seam point: completed (SFLAGS of R213). -/
  pointDone : Bool := false
  /-- Island gang: the slot, the island id, this part's bodies in slot order, still in this step. -/
  island : Option Nat := none
  slot : Nat := 0
  bodies : List Nat := []
  still : Bool := false
  /-- The part limit P its region is laid out for (R222). -/
  islP : Nat := 1
  deriving DecidableEq, Repr

/-! ### Launches -/

/-- A launch parameter block, parsed (R189). -/
structure Lpb where
  entry : Dword := 0
  wcode : Nat := 0
  t : Nat := 0
  prio : Nat := 0
  retry : Nat := 0
  det : Bool := false
  idem : Bool := false
  gang : Bool := false
  seam : Bool := false
  isl : Bool := false
  ord : Bool := false
  nv : Nat := 1
  nu : Nat := 1
  nt : Nat := 0
  d8 : Nat := 1
  fabric : Nat := 0
  sbb : Nat := 0
  stg : Nat := 0
  argn : Nat := 0
  argaddr : Dword := 0
  features : Dword := 0
  e0 : Nat := 0
  e1 : Nat := 0
  e2 : Nat := 0
  desc : Dword := 0
  refdig : Dword := 0
  event : Dword := 0
  tag : Dword := 0
  /-- A reserved bit or byte of the block is nonzero. -/
  reserved : Bool := false
  deriving DecidableEq, Repr

/-- W of the width code (R189). -/
def Lpb.w (l : Lpb) : Nat := if l.wcode = 0 then 16 else if l.wcode = 1 then 32 else 64

/-- The call depth D (R69). -/
def Lpb.d (l : Lpb) : Nat := 8 * l.d8

/-- Where a launch came from (R187, R197, R227). -/
inductive Source where
  | queue (n : Nat) | pool (partition entry : Nat) | lacing (slot island : Nat)
  deriving DecidableEq, Repr

/-- One row of a seam frontier (R208). -/
structure SeamRow where
  prefixLen : Nat := 0
  window : BitVec 64 := 0
  deriving DecidableEq, Repr

/-- A running-list entry (R207). -/
structure SeamRun where
  index : Nat
  done : Bool
  team : Nat
  image : Dword
  deriving DecidableEq, Repr

/-- What the Seam unit last read of a linked record (R209). -/
structure LinkSeen where
  fits : Bool := false
  e0 : Nat := 0
  e1 : Nat := 0
  e2 : Nat := 0
  rows : Sparse SeamRow := []
  mismatchPosted : Bool := false
  faultPosted : Bool := false
  deriving DecidableEq, Repr

/-- The Seam unit's state of one launch (R204, R207). -/
structure Seam where
  bytes : List Byte := []
  ndim : Nat := 0
  scope : Nat := 4
  faces : Nat := 0
  vecs : List (Int × Int × Int) := []
  record : Nat := 0
  runcap : Nat := 0
  rows : Sparse SeamRow := []
  running : List SeamRun := []
  doneCount : Nat := 0
  seq : Nat := 0
  rstate : Nat := 0
  links : Sparse LinkSeen := []
  deriving DecidableEq, Repr

/-- One launch (R165). -/
structure Launch where
  live : Bool := false
  tenant : Nat := 0
  source : Source := .queue 0
  lpb : Lpb := {}
  depth : Nat := 0
  args : List Word := []
  /-- Teams in all, the next team to dispatch, teams retired. -/
  total : Nat := 0
  next : Nat := 0
  retired : Nat := 0
  /-- The ticket of a DET launch: lowest team index not released (R146), and whether it is a queue ticket. -/
  ticket : Nat := 0
  queueTicket : Bool := false
  digests : Sparse Dword := []
  serial : Bool := false
  seamUnit : Seam := {}
  gangPart : Option Nat := none
  stranded : Bool := false
  /-- A core has returned to the distributor's set since the gang was stranded (R182). -/
  coreBack : Bool := false
  parent : Option Nat := none
  /-- Of a child: the linear index of the team that launched it, and the handle. -/
  made : Option (Nat × Nat) := none
  /-- The bytes of the launch parameter block. -/
  bytes : List Byte := []
  children : Nat := 0
  /-- Part count and per-part bodies of an island gang (R229). -/
  parts : List (List Nat) := []
  /-- The body records of an island gang from byte 8 on, with their poison, as its preload reads them: body by body (R231). -/
  loaded : List (List (Byte × Bool)) := []
  /-- The order in which accepted launches stand (R192). -/
  order : Nat := 0
  completed : Bool := false
  deriving DecidableEq, Repr

/-- A pending-launch pool entry (R197). -/
structure PoolEntry where
  live : Bool := false
  lpb : List Byte := []
  parent : Nat := 0
  depth : Nat := 0
  /-- The linear index of the team that launched it, and the handle. -/
  index : Nat := 0
  handle : Nat := 0
  taken : Bool := false
  closed : Bool := false
  launch : Nat := 0
  /-- The child's STATUS once completed, and TEAMS (R191). -/
  status : Nat := 0
  teams : Nat := 0
  order : Nat := 0
  deriving DecidableEq, Repr

/-! ### Memory in flight -/

/-- A location after classification and translation (R16, R30). -/
inductive Loc where
  | fabric (cluster byte : Nat)
  | hbm (pa : Nat) (nc : Bool)
  /-- A PCIe bus address; vf is the requester ID its requests carry (R30). -/
  | host (vf addr : Nat)
  | peer (module addr : Nat)
  deriving DecidableEq, Repr

/-- A register word to be written back: register, value, poison. -/
structure RegWrite where
  reg : Nat
  val : Word
  poison : Bool
  deriving DecidableEq, Repr

/-- What an access in flight does. -/
inductive FlightKind where
  | load | store | sweep | result
  deriving DecidableEq, Repr

/-- One access of one thread, or one pending write-back (R65, R346). A vector flight writes its lane; a uniform flight
the group's uniform registers. -/
structure Flight where
  id : Nat
  kind : FlightKind
  team : Nat
  group : Nat
  lane : Nat
  uniform : Bool := false
  reg : Nat := 0
  size : Nat := 4
  sx : Bool := false
  va : Nat := 0
  loc : Loc := .fabric 0 0
  /-- A load brings its line into the global-line cache (hint other than streaming, R279). -/
  fill : Bool := true
  data : List Byte := []
  /-- The counted operation it belongs to, if any. -/
  op : Option Nat := none
  /-- Performed: only the write-back is left. -/
  performed : Bool := false
  writes : List RegWrite := []
  /-- The word it belongs to, for a rejection by a remote side (R396), and the access kind of R398. -/
  pc : Dword := 0
  pos : Nat := 0
  akind : Nat := 0
  /-- The number of the word it was issued by: lanes of one store word stay in lane order (R336). -/
  word : Nat := 0
  /-- Registers whose write-back the debugger has cancelled (R405). -/
  cancel : List Nat := []
  /-- The threads of an LDU, which traps in every one of them (R338). -/
  mems : List (Nat × Nat) := []
  deriving DecidableEq, Repr

/-- A piece of a copy inside one source page and one destination page. -/
structure Segment where
  srcVa : Nat
  dstVa : Nat
  len : Nat
  src : Loc
  dst : Loc
  /-- Byte offset in the logical Saddlebag, for a .sb copy. -/
  sb : Option Nat := none
  deriving DecidableEq, Repr

/-- What a counted operation does when it completes (R52). -/
inductive OpKind where
  | copy (segs : List Segment) (grant : Option Nat)
  | lanes
  | atomics
  | xcpy (segs : List Segment)
  | xred (segs : List Segment) (aop atype index : Nat)
  | push (team off port : Nat) (handle : Word)
  deriving DecidableEq, Repr

/-- A counted operation (R52, R53). -/
structure Op where
  id : Nat
  team : Nat
  groups : List Nat
  counter : Nat
  kind : OpKind
  finished : Bool := false
  /-- The part of a DET team's copy that did not fit in staging and waits for the ticket (R150). -/
  rest : List Segment := []
  /-- Bytes of the operation that a copy-engine staging buffer has spoiled, counted over its segments (R57). -/
  spoiled : NatSet := []
  remote : Bool := false
  /-- Global lines an atomic touches: they leave the issuing cluster's cache as the operation is recorded (R54, log 17). -/
  lines : List Nat := []
  /-- The threads that issued it: their earlier accesses come first (R49, R92). -/
  mems : List (Nat × Nat) := []
  /-- Bytes that earlier parts of a copy have written, with their poison: the copy covers a unit whole by all its parts together (R58). -/
  wrote : List (Loc × Bool) := []
  deriving DecidableEq, Repr

/-- One lane operation of an atomic request (R124, R130). -/
structure AwlLane where
  group : Nat
  lane : Nat
  loc : Loc
  va : Nat
  aop : Nat
  atype : Nat
  cas : Bool
  size : Nat
  operand : Dword
  newVal : Dword
  /-- Registers whose write-back the debugger has cancelled (R405). -/
  cancel : List Nat := []
  deriving DecidableEq, Repr

/-- A request of an Awl group's queue (R124 to R126). -/
structure AwlReq where
  id : Nat
  owner : Nat
  cluster : Nat
  op : Nat
  team : Nat
  /-- First destination register, or none for a RED or a suppressed result. -/
  dest : Option Nat
  lanes : List AwlLane
  granted : Bool
  /-- The word, for a rejection by a remote side. -/
  pc : Dword := 0
  pos : Nat := 0
  deriving DecidableEq, Repr

/-! ### Cores, clusters, partitions -/

/-- The bundle on an issue slice (R170): its clause and where it stands in it. -/
structure Bundle where
  team : Nat
  /-- (group, lane), in increasing logical index. -/
  members : List (Nat × Nat)
  pc : Dword
  header : Word
  words : List Word
  /-- Index of the next word, counting extension words, and of the next instruction. -/
  pos : Nat := 0
  ipos : Nat := 0
  /-- The next word waits at issue. -/
  stalled : Bool := false
  /-- Requests of an atomic that waits for queue entries (R125). -/
  awl : List Nat := []
  /-- The peer's answer to a transfer that waits for it (R439): accepted, or the first rejected byte. -/
  peer : Option (Bool × Dword) := none
  asked : Bool := false
  /-- The modules that the transfer has asked (R437, R439). -/
  peers : List Nat := []
  /-- The allowance reply of a remote rein (R140): status. -/
  rein : Option Nat := none
  deriving DecidableEq, Repr

/-- One core: its Skive and clock registers (R423, R427), features (R198), cycle counter (R201) and issue slice. -/
structure Core where
  skvEn : Bool := false
  tstep : Nat := 10
  limit : Nat := 16
  winlog : Nat := 16
  cstep : Nat := 10
  wcount : Nat := 0
  ceil : Nat := 0
  replays : Dword := 0
  esc : Nat := 0
  quar : Bool := false
  escq : Bool := false
  nrdet : Bool := false
  /-- Cycles of the ceiling escalations of the last 2^30 (R424); a step change is settling. -/
  ceilAt : List Nat := []
  settling : Bool := false
  /-- The lowest step in force while a change settles (R423). -/
  stepWas : Nat := 10
  tgt : Nat := 16
  cur : Nat := 16
  pcap : Nat := 20
  /-- An alarm of the core's rails is in force: they have not yet stayed below their limit (R431, R433). -/
  alarm : Bool := false
  feat : Dword := 0xFF
  clk : Dword := 0
  /-- The core has been brought up and its clock runs (R445); the sixteenths of a core cycle that have passed (R427, R429). -/
  up : Bool := false
  phase : Nat := 0
  bundle : Option Bundle := none
  deriving DecidableEq, Repr

/-- An undo-log entry (R412): the line, its bytes before, and whether it was poisoned. -/
structure Undo where
  line : Nat
  bytes : List Byte
  poisoned : Bool
  deriving DecidableEq, Repr

/-- One partition: PARTOWN (R18), counters (R390), log registers (R411), pool (R197). -/
structure Partition where
  tenant : Nat := 0
  valid : Bool := false
  counters : Sparse Dword := []
  escalations : Dword := 0
  energyFrac : Nat := 0
  sizeg : Nat := 1
  ulbase : Nat := 0
  undo : List Undo := []
  pool : Sparse PoolEntry := []
  /-- The byte values written to the Saddlebags of its clusters since PARTOWN last changed owner or VALID (R17, R360). -/
  sbPast : NatSet := []
  /-- A write of PARTOWN that waits for the old owner's invalidation (R17). -/
  ownPend : Option Word := none
  deriving DecidableEq, Repr

/-- A cached translation, or a pointer of a walk cache (R32): the page-table entry, and the shift of its level. -/
structure TlbEntry where
  cluster : Nat
  tenant : Nat
  va : Nat
  log2 : Nat
  pte : Dword
  deriving DecidableEq, Repr

/-- A line of a cluster's global-line cache (R46). -/
structure CacheLine where
  cluster : Nat
  line : Nat
  bytes : List Byte
  poisoned : Bool
  deriving DecidableEq, Repr

/-! ### Tenants -/

/-- A launch queue (R187). -/
structure Queue where
  base : Nat := 0
  log2n : Nat := 0
  prio : Nat := 0
  en : Bool := false
  vec : Nat := 0
  tail : Nat := 0
  head : Nat := 0
  badtail : Bool := false
  badcfg : Bool := false
  ringfault : Bool := false
  deriving DecidableEq, Repr

/-- A body's state word (R221). -/
structure Body where
  asleep : Bool := false
  frozen : Bool := false
  still : Nat := 0
  deriving DecidableEq, Repr

/-- A report (R224, R459): 0 LINK CONTACT, 1 LINK JOINT, 2 UNLINK, 3 WAKE. -/
structure Report where
  kind : Nat
  a : Nat
  b : Nat
  deriving DecidableEq, Repr

/-- A report on its way to the Lacing engine: its set, the partition of its thread, and whether a gang of the set made it (R224). -/
structure Sent where
  tenant : Nat
  slot : Nat
  report : Report
  part : Nat
  own : Bool
  deriving DecidableEq, Repr

/-- A link (R221): lower id, higher id, kind. -/
structure Link where
  lo : Nat
  hi : Nat
  kind : Nat
  deriving DecidableEq, Repr

/-- The island-set descriptor, parsed (R219). -/
structure IslDesc where
  nbody : Nat := 0
  recsz : Nat := 64
  nstill : Nat := 0
  die : Nat := 0
  bodytab : Nat := 0
  lstore : Nat := 0
  lmax : Nat := 1
  btcap : Nat := 0
  rptmax : Nat := 256
  event : Nat := 0
  lpb : Lpb := {}
  deriving DecidableEq, Repr

/-- An island of the step in progress: its id, its bodies in BFS order, its gang's launch (none: asleep, frozen). -/
structure Island where
  id : Nat
  bodies : List Nat
  launch : Option Nat
  frozen : Bool := false
  asleep : Bool := false
  /-- The gang was retired during the step (R228, R233). -/
  retired : Bool := false
  /-- Teams that were still in the step and have retired (R228). -/
  stills : Nat := 0
  deriving DecidableEq, Repr

/-- An island-set slot: registers (R218) and the Lacing engine's state of the set. -/
structure IslSlot where
  addr : Nat := 0
  en : Bool := false
  init : Bool := false
  pm1 : Nat := 0
  vec : Nat := 0
  active : Bool := false
  /-- ISSTAT bits 1 to 9. -/
  stat : NatSet := []
  step : Dword := 0
  desc : IslDesc := {}
  /-- P − 1 in force, a PM1 write waiting for the boundary, an enable waiting for ACTIVE to fall. -/
  p1 : Nat := 0
  pmPending : Bool := false
  reenable : Bool := false
  poisoned : Bool := false
  bodies : Sparse Body := []
  links : List Link := []
  reports : List Report := []
  islands : List Island := []
  /-- The snapshot of ISL.INFO (R385): step, P, awake, asleep, links, frozen. -/
  snapStep : Dword := 0
  snapP : Nat := 0
  snapAwake : Nat := 0
  snapAsleep : Nat := 0
  snapLinks : Nat := 0
  snapFrozen : Nat := 0
  deriving DecidableEq, Repr

/-- An LPB accepted in a checkpoint interval (R412): its source, its bytes, its launch, and that it runs serially (R163). -/
structure Retake where
  source : Source
  lpb : List Byte
  launch : Nat
  serial : Bool
  deriving DecidableEq, Repr

/-- A tenant's privileged and own registers (R18, R187, R218, R388, R399, R404, R406, R411). -/
structure Tenant where
  tnptb : Dword := 0
  fwbase : Dword := 0
  fwperm : Sparse Word := []
  tninv : Dword := 0
  /-- The write that the invalidation in progress began with (R34). -/
  invScope : Dword := 0
  invPend : Bool := false
  invDrop : Bool := false
  susp : Bool := false
  ctxPend : Bool := false
  dead : Bool := false
  ckEn : Bool := false
  ckPend : Bool := false
  /-- A write of CKCTL that raises EN waits for its checkpoint (R415). -/
  ckRise : Bool := false
  forced : Bool := false
  rolled : Bool := false
  rolls : Nat := 0
  ckSeq : Dword := 0
  dbgAddr : Dword := 0
  dbgData : Word := 0
  dbgOp : Nat := 0
  dbgForce : Bool := false
  /-- GO as last written (R7, R404). -/
  dbgGo : Bool := false
  dbgPend : Bool := false
  dbgResult : Nat := 0
  dbgPois : Bool := false
  queues : Sparse Queue := []
  slots : Sparse IslSlot := []
  trapEnt : Dword := 0
  dbgAll : Bool := false
  dbgBrk : Bool := true
  evBase : Dword := 0
  evLog : Nat := 0
  evEn : Bool := false
  evVec : Nat := 0
  evHead : Nat := 0
  evTail : Nat := 0
  evOverflow : Bool := false
  evFault : Bool := false
  evBadcfg : Bool := false
  evDrops : Nat := 0
  evSeq : Word := 0
  /-- The distributor's placement pointer (R194) and round-robin pointer over sources (R192). -/
  place : Nat := 0
  rr : Nat := 0
  /-- Launches whose next team has been dispatched and waits for room, in that order (R193). -/
  waiting : List Nat := []
  /-- Launches of the interval that a rollback takes again, in their original order (R413). -/
  retake : List Retake := []
  deriving DecidableEq, Repr

/-- What has been written to global memory since the start fence of a launch, by the flat key of the byte: the bytes changed and what they
held before, and those the launch itself wrote (R262). -/
structure CodeView where
  launch : Nat
  changed : NatSet := []
  before : Sparse Byte := []
  own : NatSet := []
  deriving DecidableEq, Repr

/-- A child launch that is to run serially when its parent launches it again (R163): its block, its depth, the parent team's linear index,
and the handle. -/
structure SerialKid where
  lpb : List Byte
  depth : Nat
  index : Nat
  handle : Nat
  deriving DecidableEq, Repr

/-- A checkpoint of a tenant (R412, R413): what the snapshots and control areas hold. -/
structure Ckpt where
  live : Bool := false
  teams : Sparse Team := []
  launches : Sparse Launch := []
  spaces : Sparse Launch := []
  fab : Sparse Byte := []
  fabPoison : NatSet := []
  pools : Sparse (Sparse PoolEntry) := []
  /-- The island sets that were held, as their stores show them. -/
  slots : Sparse IslSlot := []
  /-- LPBs accepted since, in order (R412). -/
  accepted : List Retake := []
  codes : List CodeView := []
  /-- Island reports on their way at the checkpoint. -/
  sent : List Sent := []
  serialKids : List SerialKid := []
  deriving DecidableEq, Repr

/-! ### The module -/

/-- What the SPDM replies carry (R444). -/
inductive SpdmReply where
  /-- The version, as major and minor number. -/
  | version (major minor : Nat)
  | capabilities
  /-- ECDSA P-384 with SHA-384. -/
  | ecdsaP384Sha384
  /-- The digest of the chain of slot 0. -/
  | digests (slot0 : List Byte)
  /-- The chain of slot 0, its root first. -/
  | certificate (chain : List (List Byte))
  /-- The digest of the chain, the requester's nonce, and the device key's signature. -/
  | challengeAuth (chain nonce signature : List Byte)
  /-- The measurements by index, the requester's nonce, and the device key's signature. -/
  | measurements (values : List (Nat × List Byte)) (nonce signature : List Byte)
  deriving DecidableEq, Repr

/-- A message to the outside: MSI-X, events to system software, management and SPDM replies. -/
inductive Notice where
  | msix (tenant vec : Nat)
  | pageFault (team group lane : Nat) (va : Dword)
  | trapStop (team group lane : Nat)
  | trapNested (team group lane : Nat) (cause : Nat) (pc : Dword)
  | halted (launch team group lane : Nat)
  | gangStranded (launch : Nat)
  | featureWait (launch : Nat)
  | eventFault (launch : Nat) (tag : Dword)
  | seamLinkMismatch (launch face : Nat)
  | seamLinkFault (launch face : Nat) (va : Dword)
  | coreQuarantine (core : Nat)
  | digestMismatch (launch : Nat)
  | digestDiffer (launch : Nat)
  | serialReport (launch status : Nat)
  | overcurrent (bits : Nat)
  | linkRecorded
  | bootReport (stage : Nat) (ok : Bool)
  | redfish (port : Nat)
  /-- A DHCPv4 or DHCPv6 request, and an HTTP GET of an image, on a management port (R441). -/
  | dhcp (port : Nat) (v6 : Bool)
  | httpGet (port : Nat) (url : List Byte)
  | spdm (code : Nat) (reply : SpdmReply)
  /-- poison: the data comes from a poisoned unit (R58, log 53). rejected: the first byte that no window admits (R439). -/
  | peerReply (module : Nat) (ok : Bool) (data : List Byte) (poison : Bool) (rejected : Option Nat)
  deriving DecidableEq, Repr

/-- The kind of an inbound peer access (R438). -/
inductive PeerKind where
  | load | store | atomic
  deriving DecidableEq, Repr

/-- A message from outside the module, waiting for its event. -/
inductive Inbound where
  | redfish (port : Nat)
  /-- A DHCP offer's boot-file URL (R441). -/
  | offer (port : Nat) (url : List Byte)
  /-- The answer to an HTTP GET. -/
  | image (port : Nat) (bytes : List Byte)
  | spdm (code param : Nat) (nonce : List Byte)
  | peer (sender : Nat) (kind : PeerKind) (addr len : Nat) (data : List Byte) (aop atype : Nat)
  /-- A whole XCPY: its places here, as address and length, and the bytes of a write (R439). -/
  | transfer (sender : Nat) (write : Bool) (places : List (Nat × Nat)) (data : List Byte)
  /-- A whole XRED: its places here, in the order of its elements (R440). -/
  | xred (sender index aop atype : Nat) (places : List (Nat × Nat)) (data : List Byte)
  | host (partition addr : Nat) (data : List Byte)
  deriving DecidableEq, Repr

/-- A buffered XRED contribution (R440). -/
structure Contribution where
  index : Nat
  aop : Nat
  atype : Nat
  /-- Where its elements lie, as address and length, in order. -/
  places : List (Nat × Nat)
  data : List Byte
  deriving DecidableEq, Repr

/-- An inbound window and its XRED round (R438, R440). -/
structure Window where
  en : Bool := false
  rd : Bool := false
  wr : Bool := false
  at_ : Bool := false
  owner : Nat := 0
  src : Nat := 0xFFF
  base : Nat := 0
  size : Nat := 1
  xrn : Nat := 1
  next : Nat := 0
  buffer : List Contribution := []
  deriving DecidableEq, Repr

/-- Bring-up (R445): the last step done, 0 without power. -/
structure Boot where
  stage : Nat := 0
  /-- The image the Wamir complex holds. -/
  image : List Byte := []
  /-- A step has failed, which stops bring-up (R445). -/
  failed : Bool := false
  /-- DHCP has been asked on both ports; its offers, as port and boot-file URL (R441). -/
  asked : Bool := false
  offers : List (Nat × List Byte) := []
  /-- The offers that have been tried, by their place, and the port whose answer is awaited. -/
  tried : List Nat := []
  waiting : Option Nat := none
  /-- Every attempt has failed: the complex stays in recovery (R443). -/
  recovery : Bool := false
  deriving DecidableEq, Repr

/-- What happens next, where the spec leaves it to time or to the outside. -/
inductive Act where
  | event (i : Instr)
  | issue (core : Nat)
  deriving DecidableEq, Repr

/-- One turn of the machine: the core cycles it takes and what happens. -/
structure Turn where
  cycles : Nat
  act : Act
  deriving DecidableEq, Repr

/-- The whole machine. -/
structure State where
  /-- What happens next; when it is empty, the machine's own policy chooses. -/
  agenda : List Turn := []
  inbox : List Inbound := []
  notices : List Notice := []
  /-- The core whose bundle an instruction word belongs to. -/
  cur : Nat := 0
  /-- The next unused number of a team, launch, flight, operation, request or grant. -/
  nextId : Nat := 1
  /-- The number of the next free value. -/
  free : Nat := 0
  hbm : Sparse Byte := []
  /-- Poisoned 64-byte HBM lines, by line number (R58). -/
  hbmPoison : NatSet := []
  /-- Fabric byte b of cluster c at c·2^23 + b. -/
  fab : Sparse Byte := []
  /-- Poisoned 64-bit fabric words, by byte key / 8. -/
  fabPoison : NatSet := []
  /-- Host memory, by address, whatever virtual function asks (R30, log 73). -/
  hostMem : Sparse Byte := []
  /-- Byte a of module m at m·2^52 + a. -/
  peerMem : Sparse Byte := []
  lines : List CacheLine := []
  tlb : List TlbEntry := []
  /-- The code views of the launches that have started (R262). -/
  codes : List CodeView := []
  flights : List Flight := []
  ops : List Op := []
  awl : List AwlReq := []
  /-- Round-robin position of each owner's grants (R125). -/
  awlTurn : Sparse Nat := []
  /-- Island reports on their way (R224). -/
  sent : List Sent := []
  teams : Sparse Team := []
  launches : Sparse Launch := []
  /-- Seam launches that have been given up while their records stand: the spaces that later launches link to (R209, R212). -/
  spaces : Sparse Launch := []
  tenants : Sparse Tenant := []
  partitions : Sparse Partition := []
  cores : Sparse Core := []
  ckpts : Sparse Ckpt := []
  windows : Sparse Window := []
  /-- The next index of the XRED rounds that peers keep, as this module's transfers have left it, by window of a peer (R440). -/
  xredNext : Sparse Nat := []
  rnzid : Nat := 0
  /-- Renaz ports that have gone down. -/
  portsDown : NatSet := []
  boost : Bool := false
  occause : BitVec 11 := 0
  /-- GIRTH.RATE of each die. -/
  girthRate : Sparse Nat := []
  /-- The cores that run filler: 1 in the vector datapath, 2 in the matrix slices, 3 in both (R433). ACTIVE of R432 is read from it. -/
  filler : Sparse Nat := []
  /-- Cores that a team of their partition's present owner has retired from or left: filler on them is charged to the partition (R434). -/
  coresLeft : NatSet := []
  boot : Boot := {}
  /-- Link faults that have been answered by a rollback and have not recurred (R408): 0 a mesh link or bridge, m + 1 the links to peer m. -/
  flitFault : NatSet := []
  /-- The last event found nothing to act on: the model's own mark, read by its policy (log 2). -/
  idled : Bool := false
  deriving DecidableEq, Repr

/-- The machine right after reset (R445 step 1 has not begun): every register at its reset value, nothing in memory. -/
def State.reset : State := {}

end Sys2Proof.Machine
end

