-- ==== Sys2Proof/Machine/Access.lean ====
section
/-! DEFINITION. Reading and replacing one part of the state: tenants, cores, launches, teams, groups, threads, and the register
words of a thread and a group with their poison (R62, R81). -/

namespace Sys2Proof.Machine

def State.team (s : State) (t : Nat) : Team := s.teams.get {} t
def State.setTeam (s : State) (t : Nat) (x : Team) : State := { s with teams := s.teams.put {} t x }
def State.updTeam (s : State) (t : Nat) (f : Team → Team) : State := s.setTeam t (f (s.team t))

def Team.group (t : Team) (g : Nat) : Group := t.groups.get {} g
def Team.setGroup (t : Team) (g : Nat) (x : Group) : Team := { t with groups := t.groups.put {} g x }
def State.group (s : State) (t g : Nat) : Group := (s.team t).group g
def State.updGroup (s : State) (t g : Nat) (f : Group → Group) : State :=
  s.setTeam t ((s.team t).setGroup g (f (s.group t g)))

def Group.thread (g : Group) (l : Nat) : Thread := g.threads.get {} l
def Group.setThread (g : Group) (l : Nat) (x : Thread) : Group := { g with threads := g.threads.put {} l x }
def State.thread (s : State) (t g l : Nat) : Thread := (s.group t g).thread l
def State.updThread (s : State) (t g l : Nat) (f : Thread → Thread) : State :=
  s.updGroup t g (fun x => x.setThread l (f (x.thread l)))

def State.launch (s : State) (n : Nat) : Launch := s.launches.get {} n
def State.setLaunch (s : State) (n : Nat) (x : Launch) : State := { s with launches := s.launches.put {} n x }
def State.updLaunch (s : State) (n : Nat) (f : Launch → Launch) : State := s.setLaunch n (f (s.launch n))
def State.launchOf (s : State) (t : Nat) : Launch := s.launch (s.team t).launch
def State.lpbOf (s : State) (t : Nat) : Lpb := (s.launchOf t).lpb

def State.tenant (s : State) (n : Nat) : Tenant := s.tenants.get {} n
def State.setTenant (s : State) (n : Nat) (x : Tenant) : State := { s with tenants := s.tenants.put {} n x }
def State.updTenant (s : State) (n : Nat) (f : Tenant → Tenant) : State := s.setTenant n (f (s.tenant n))

def State.core (s : State) (n : Nat) : Core := s.cores.get {} n
def State.setCore (s : State) (n : Nat) (x : Core) : State := { s with cores := s.cores.put {} n x }
def State.updCore (s : State) (n : Nat) (f : Core → Core) : State := s.setCore n (f (s.core n))

def State.partition (s : State) (n : Nat) : Partition := s.partitions.get {} n
def State.setPartition (s : State) (n : Nat) (x : Partition) : State := { s with partitions := s.partitions.put {} n x }
def State.updPartition (s : State) (n : Nat) (f : Partition → Partition) : State := s.setPartition n (f (s.partition n))

def State.notice (s : State) (n : Notice) : State := { s with notices := s.notices ++ [n] }

/-- An event whose unit has nothing of the kind to do changes nothing; the mark tells the policy so. -/
def State.idle (s : State) : Host.Outcome State Fault Refusal := .next { s with idled := true }

/-- Add n to performance counter c of a partition (R390). -/
def State.count (s : State) (p c n : Nat) : State :=
  s.updPartition p (fun x => { x with counters := x.counters.upd 0 c (fun v => v + BitVec.ofNat 64 n) })

/-! ### Numbers of clusters, cores and partitions (R2, R19, R194) -/

/-- Module core 6·cluster + j. -/
def clusterOf (core : Nat) : Nat := core / 6
/-- Five clusters to a partition. -/
def partOf (cluster : Nat) : Nat := cluster / 5

/-- The partitions of a tenant, rising (R19). -/
def State.partsOf (s : State) (tn : Nat) : List Nat :=
  (List.range 64).filter (fun p => (s.partition p).valid && (s.partition p).tenant == tn)

/-- NCLUS (R19). -/
def State.nclus (s : State) (tn : Nat) : Nat := 5 * (s.partsOf tn).length

/-- The module cluster of a tenant cluster index (R19). -/
def State.moduleCluster (s : State) (tn k : Nat) : Nat := 5 * (s.partsOf tn).getD (k / 5) 0 + k % 5

/-- The tenant cluster index of a module cluster. -/
def State.clusterIndex (s : State) (tn c : Nat) : Nat :=
  5 * ((s.partsOf tn).takeWhile (fun p => p != partOf c)).length + c % 5

/-- Clusters of a tenant, by rising index. -/
def State.clustersOf (s : State) (tn : Nat) : List Nat :=
  ((s.partsOf tn).map (fun p => (List.range 5).map (fun i => 5 * p + i))).flatten

/-! ### Register words -/

def Thread.vGet (t : Thread) (n : Nat) : Word := t.v.get 0 n
/-- A write of the whole word clears its poison (R81). -/
def Thread.vSet (t : Thread) (n : Nat) (w : Word) : Thread :=
  { t with v := t.v.put 0 n w, vPoison := NatSet.set t.vPoison n false }
/-- A write that may carry poison; a poisoned word holds 0 (R73). -/
def Thread.vSetP (t : Thread) (n : Nat) (w : Word) (poison : Bool) : Thread :=
  { t with v := t.v.put 0 n (if poison then 0 else w), vPoison := NatSet.set t.vPoison n poison }
def Thread.vPair (t : Thread) (n : Nat) : Dword := joinWords (t.vGet n) (t.vGet (n + 1))

/-- The mode in effect (R242, R458). -/
def Thread.modeNow (t : Thread) : Word := t.modeWas.getD t.mode

/-- s0 reads as zero (R62). -/
def Group.sGet (g : Group) (n : Nat) : Word := if n = 0 then 0 else g.s.get 0 n
/-- A write to s0 is discarded (R62); a write of the whole word clears its poison (R81). -/
def Group.sSet (g : Group) (n : Nat) (w : Word) : Group :=
  if n = 0 then g else { g with s := g.s.put 0 n w, sPoison := NatSet.set g.sPoison n false }
def Group.sSetP (g : Group) (n : Nat) (w : Word) (poison : Bool) : Group :=
  if n = 0 then g
  else { g with s := g.s.put 0 n (if poison then 0 else w), sPoison := NatSet.set g.sPoison n poison }
def Group.sPair (g : Group) (n : Nat) : Dword := joinWords (g.sGet n) (g.sGet (n + 1))
/-- Poison of a uniform word; s0 has none (log 14). -/
def Group.sBad (g : Group) (n : Nat) : Bool := n != 0 && NatSet.has g.sPoison n

/-- Write latch n of a lane and mark it valid (R175). -/
def Latches.write (y : Latches) (n : Nat) (w : Word) : Latches :=
  { val := y.val.put 0 n w, valid := NatSet.set y.valid n true, poison := NatSet.set y.poison n false }

/-- Valid bits of y0 to y3 as the POS field holds them. -/
def Latches.bits (y : Latches) : Nat :=
  ((List.range 4).map (fun i => if NatSet.has y.valid i then 2 ^ i else 0)).sum

/-! ### Identity -/

/-- The coordinates of a linear index in extents whose unused ones are 1 (R166, R202): (i, j, k) with i most significant. -/
def seamCoords (e1 e2 n : Nat) : Nat × Nat × Nat := (n / (e1 * e2), n / e2 % e1, n % e2)

/-- What the identity codes of R9 read in one thread. -/
structure Env where
  lane : Nat
  tid : Nat
  gid : Nat
  team : Nat
  width : Nat
  seam : Nat × Nat × Nat
  deriving DecidableEq, Repr

def State.env (s : State) (t g l : Nat) : Env :=
  let x := s.team t
  let p := (s.launch x.launch).lpb
  { lane := l, tid := g * p.w + l, gid := g, team := x.index % 2 ^ 32, width := p.w,
    seam := if p.seam then seamCoords p.e1 p.e2 x.index else (0, 0, 0) }

/-- The partition a team's cluster lies in. -/
def State.partOfTeam (s : State) (t : Nat) : Nat := partOf (s.team t).cluster

/-- Groups of a team: 0 to T/W − 1 (R166). -/
def State.groupsOf (s : State) (t : Nat) : List Nat := List.range ((s.lpbOf t).t / (s.lpbOf t).w)

/-- Live teams, by number. -/
def State.liveTeams (s : State) : List Nat := (s.teams.filter (fun e => e.2.live)).map (·.1)

def State.tenantTeams (s : State) (tn : Nat) : List Nat := s.liveTeams.filter (fun t => (s.team t).tenant == tn)

/-- A fresh number. -/
def State.fresh (s : State) : Nat × State := (s.nextId, { s with nextId := s.nextId + 1 })

/-- The next free choice below n (n > 0), from Config.freeNat. -/
def State.choose (s : State) (n : Nat) : Nat × State := (Config.freeNat s.free % n, { s with free := s.free + 1 })

end Sys2Proof.Machine
end

