-- ==== Sys2Proof/Machine/Memory.lean ====
section
/-! DEFINITION. Memory: the classification and translation of addresses (R14 to R30), the checks of R36, guarded fabric bytes
(R66, R135), reads and writes of a location with poison (R58), the global-line caches (R46) and the undo logs (R412). -/

namespace Sys2Proof.Machine

/-! ### Layout of a team's fabric region (R61, R67, R69, R147, R195) -/

def Lpb.line (p : Lpb) : Nat := 4 * p.w
def Lpb.groups (p : Lpb) : Nat := p.t / p.w
/-- Offsets of the areas of a group image (R69). -/
def Lpb.laneOff (p : Lpb) : Nat := 256 + roundUp (4 * p.nu) 256
def Lpb.latchOff (p : Lpb) : Nat := p.laneOff + roundUp (64 * p.w) 256
def Lpb.mapOff (p : Lpb) : Nat := p.latchOff + roundUp (4 * p.line) 256
def Lpb.vecOff (p : Lpb) : Nat := p.mapOff + roundUp (96 + 8 * p.nv + 64 * p.nt) 256
def Lpb.stackOff (p : Lpb) : Nat := p.vecOff + roundUp (p.nv * p.line) 256
def Lpb.tileOff (p : Lpb) : Nat := p.stackOff + roundUp (8 * p.d * p.w) 256
def Lpb.gimgsz (p : Lpb) : Nat := p.tileOff + 4096 * p.nt
def Lpb.groupOff (p : Lpb) (g : Nat) : Nat := 0x300 + roundUp p.sbb 256 + g * p.gimgsz
/-- Size of the team image; the Cinch area follows it. -/
def Lpb.imageSize (p : Lpb) : Nat := p.groupOff p.groups
def Lpb.tableSize (p : Lpb) : Nat := if p.det then roundUp (16 * p.t) 256 else 0
def Lpb.stgBytes (p : Lpb) : Nat := if p.det then 16384 * 2 ^ p.stg else 0
/-- Where the declared fabric bytes begin (R147). -/
def Lpb.declOff (p : Lpb) : Nat := p.imageSize + p.tableSize + p.stgBytes
/-- Size of the fabric region (R195). -/
def Lpb.region (p : Lpb) : Nat := p.declOff + p.fabric

/-! ### The fabric window (R20 to R22) -/

/-- SPAN in bytes (R20). -/
def State.fwSpan (s : State) (tn : Nat) : Nat := (s.nclus tn + 127) / 128 * 2 ^ 30

def State.fwLo (s : State) (tn : Nat) : Nat := bitsOf (s.tenant tn).fwbase.toNat 51 30 * 2 ^ 30

/-- R16 step 1. -/
def State.inWindow (s : State) (tn va : Nat) : Bool :=
  (s.tenant tn).fwbase.getLsbD 0 && decide (s.fwLo tn ≤ va ∧ va < s.fwLo tn + s.fwSpan tn)

/-- RD or WR of a tenant cluster index (R22). -/
def State.fwPerm (s : State) (tn k : Nat) (write : Bool) : Bool :=
  ((s.tenant tn).fwperm.get 0 (k / 16)).getLsbD (2 * (k % 16) + Bool.bit write)

/-- The fabric offset of a byte of a cluster of the tenant (R21). -/
def State.fabricOffset (s : State) (tn cluster byte : Nat) : Nat := s.clusterIndex tn cluster * 2 ^ 23 + byte

/-! ### Guards (R66, R135) -/

/-- The teams whose fabric region stands in a cluster's slice. -/
def State.regionsIn (s : State) (c : Nat) : List Nat :=
  s.liveTeams.filter (fun t => (s.team t).cluster == c && (s.team t).swapped.isNone && (s.team t).moved.isNone)

/-- Size of a rein block of s slots (R134). -/
def reinSize (slots : Nat) : Nat := 64 + 8 * slots

/-- The slots field of the rein block at offset off of a team's declared fabric bytes. -/
def State.reinSlots (s : State) (t off : Nat) : Nat :=
  let x := s.team t
  leNat (s.fab.getList 0 (x.cluster * 2 ^ 23 + x.base + (s.lpbOf t).declOff + off + 4) 4) % 512

/-- What guarded area of a team a byte of its region lies in. -/
inductive Guard where
  | open | image | cinch | rein
  deriving DecidableEq, Repr

def State.guardOf (s : State) (t off : Nat) : Guard :=
  let p := s.lpbOf t
  if off < p.imageSize then .image
  else if off < p.declOff then .cinch
  else if (s.team t).guard.any (fun o => decide (o ≤ off - p.declOff ∧ off - p.declOff < o + reinSize (s.reinSlots t o))) then .rein
  else .open

/-- The team whose region holds byte b of cluster c, if any. -/
def State.regionAt (s : State) (c b : Nat) : Option Nat :=
  (s.regionsIn c).find? (fun t => decide ((s.team t).base ≤ b ∧ b < (s.team t).base + (s.team t).region))

/-- Whether an ordinary access of n bytes from byte b touches a guarded byte. -/
def State.guardedRange (s : State) (c b n : Nat) : Bool :=
  (s.regionsIn c).any (fun t =>
    let x := s.team t
    let d := x.base + (s.lpbOf t).declOff
    decide (b < d ∧ x.base < b + n) ||
      x.guard.any (fun o => decide (b < d + o + reinSize (s.reinSlots t o) ∧ d + o < b + n)))

/-! ### Page tables (R26 to R30) -/

/-- The top of the HBM physical addresses (R30). -/
def hbmTop : Nat := 1280000000000

def State.hbmDword (s : State) (pa : Nat) : Dword := leDword (s.hbm.getList 0 pa 8)

/-- Where a physical HBM address lies (R44). -/
structure HbmPlace where
  die : Nat
  stack : Nat
  pseudoChannel : Nat
  offset : Nat
  deriving DecidableEq, Repr

/-- The placement of R44: the owning die, the stack, the pseudo-channel and the offset in it. -/
def hbmPlace (pa : Nat) : HbmPlace :=
  let d := pa / 160000000000
  let o := pa - d * 160000000000
  let g := o / 128
  let h := g / 128
  let q := (g % 128).xor ((h % 128).xor (h / 128 % 128))
  ⟨d, 2 * d + q % 2, q / 2, h * 128 + o % 128⟩

/-- What a walk finds. -/
inductive Walk where
  | leaf (pte : Dword) (log2 : Nat)
  | block (pte first : Dword)        -- an entry of a 64 KiB block, and the block's first entry (R29)
  | broken (ptes : List Dword)       -- a 64 KiB block whose entries break R29
  | fault
  | poison                           -- a poisoned entry (R408)
  deriving DecidableEq, Repr

/-- The checks of a leaf entry of page size 2^log2 (R28). -/
def leafOk (e : Dword) (log2 : Nat) : Bool :=
  let n := e.toNat
  n % 2 == 1 && bitsOf n 11 8 == 0 && bitsOf n 6 5 != 3 && (bitsOf n 6 5 == 2 || bitsOf n 63 52 == 0) &&
    bitsOf n 51 12 * 4096 % 2 ^ log2 == 0

/-- The checks of a pointer entry (R28): V = 1, L = 0, and every bit from 2 to 11 is 0. -/
def pointerOk (e : Dword) : Bool :=
  let n := e.toNat
  n % 2 == 1 && bitsOf n 11 1 == 0 && bitsOf n 63 52 == 0

/-- A valid leaf that marks itself a member of a 64 KiB block. -/
def blockMember (e : Dword) : Bool := e.getLsbD 0 && e.getLsbD 1 && e.getLsbD 4

/-- R29: sixteen entries that form one 64 KiB block. -/
def blockOk (es : List Dword) : Bool :=
  let f (e : Dword) : Nat := bitsOf e.toNat 51 12
  let rest (e : Dword) : Nat := e.toNat % 4096 + bitsOf e.toNat 63 52 * 4096
  let e0 := es.getD 0 0
  f e0 % 16 == 0 &&
    (List.range 16).all (fun i => (es.getD i 0).getLsbD 4 && f (es.getD i 0) == f e0 + i && rest (es.getD i 0) == rest e0)

/-- What the entry e at index ix of a level-0 table comes to. Where an entry of its sixteen is marked as a member of a block, the
sixteen are a block, or one that breaks R29. -/
def State.walkLast (s : State) (table ix : Nat) (e : Dword) : Walk :=
  let es := (List.range 16).map (fun i => s.hbmDword (table + 8 * (ix / 16 * 16 + i)))
  if es.any blockMember && !blockOk es then .broken es
  else if !e.getLsbD 1 || !leafOk e 12 then .fault
  else if blockMember e then .block e (es.getD 0 0)
  else .leaf e 12

/-- The walk from a table, over the shifts of the levels left (R27). A table that ROOT or a pointer names at or above the top of R30
reads as entries of 0, so the walk faults there (log 57). -/
def State.walkFrom (s : State) (va : Nat) : Nat → List Nat → Walk
  | _, [] => .fault
  | table, sh :: rest =>
    let ix := va / 2 ^ sh % (if sh = 39 then 8192 else 512)
    let a := table + 8 * ix
    let e := s.hbmDword a
    if NatSet.has s.hbmPoison (a / 64) then .poison
    else if sh = 12 then s.walkLast table ix e
    else if e.getLsbD 1 then (if sh = 39 || !leafOk e sh then .fault else .leaf e sh)
    else if pointerOk e then s.walkFrom va (bitsOf e.toNat 51 12 * 4096) rest
    else .fault

def State.walk (s : State) (tn va : Nat) : Walk :=
  s.walkFrom va (bitsOf (s.tenant tn).tnptb.toNat 51 16 * 65536) [39, 30, 21, 12]

/-- Why an access does not proceed: a cause of R36, or a poisoned page-table entry, which is a tenant fault (R408). -/
inductive Bad where
  | trap (c : Cause)
  | walkPoison
  deriving DecidableEq, Repr

def TlbEntry.covers (e : TlbEntry) (tn va : Nat) : Bool := e.tenant == tn && va / 2 ^ e.log2 == e.va / 2 ^ e.log2

/-- The entries that a cluster holds for va: leaves, and the pointers of its walk cache (R32). -/
def State.tlbOf (s : State) (c tn va : Nat) : List TlbEntry := s.tlb.filter (fun e => e.cluster == c && e.covers tn va)

/-- What a held entry comes to: a leaf as it is, and from a pointer the walk of the levels below it, whose entries stand in memory. -/
def State.walkEntry (s : State) (va : Nat) (e : TlbEntry) : Walk :=
  if e.pte.getLsbD 1 then .leaf e.pte e.log2
  else s.walkFrom va (bitsOf e.pte.toNat 51 12 * 4096) ([30, 21, 12].filter (fun sh => sh < e.log2))

/-- What the cached translations and pointers of a cluster say of va (R32). -/
def State.tlbHits (s : State) (c tn va : Nat) : List Walk := (s.tlbOf c tn va).map (s.walkEntry va)

/-- The pointer entries that a walk passes: the level's shift and the entry. -/
def State.walkPtrs (s : State) (va : Nat) : Nat → List Nat → List (Nat × Dword)
  | _, [] => []
  | table, sh :: rest =>
    let a := table + 8 * (va / 2 ^ sh % (if sh = 39 then 8192 else 512))
    let e := s.hbmDword a
    if sh ≠ 12 ∧ pointerOk e ∧ !NatSet.has s.hbmPoison (a / 64) then
      (sh, e) :: s.walkPtrs va (bitsOf e.toNat 51 12 * 4096) rest
    else []

def State.tlbAdd (s : State) (c tn va log2 : Nat) (pte : Dword) : State :=
  let e : TlbEntry := ⟨c, tn, va / 2 ^ log2 * 2 ^ log2, log2, pte⟩
  if s.tlb.contains e then s else { s with tlb := s.tlb ++ [e] }

/-- What a walk's finding comes to: the leaf, which the cluster then holds, or a fault. A block may be held as one entry of 64 KiB, a free
choice; of a block that breaks R29 any of the sixteen entries is used, a free choice (log 6). -/
def State.useWalk (s : State) (c tn va : Nat) (w : Walk) : Except Bad (Dword × Nat) × State :=
  match w with
  | .leaf e l => (.ok (e, l), s.tlbAdd c tn va l e)
  | .block e f =>
    let (i, s) := s.choose 2
    if i = 0 then (.ok (e, 12), s.tlbAdd c tn va 12 e) else (.ok (f, 16), s.tlbAdd c tn va 16 f)
  | .broken es =>
    let (i, s') := s.choose 16
    let e := es.getD i 0
    if leafOk e 12 && e.getLsbD 1 then (.ok (e, 12), s'.tlbAdd c tn va 12 e) else (.error (.trap .pageFault), s')
  | .fault => (.error (.trap .pageFault), s)
  | .poison => (.error .walkPoison, s)

/-- The cluster's walk cache takes the pointers that walks for va pass, from the root and from the pointers it holds (R32). -/
def State.keepPtrs (s : State) (c tn va : Nat) : State :=
  let held := (s.tlbOf c tn va).filter (fun e => !e.pte.getLsbD 1)
  let passed := s.walkPtrs va (bitsOf (s.tenant tn).tnptb.toNat 51 16 * 65536) [39, 30, 21] ++
    held.flatMap (fun e => s.walkPtrs va (bitsOf e.pte.toNat 51 12 * 4096) ([30, 21].filter (fun sh => sh < e.log2)))
  passed.foldl (fun s x => s.tlbAdd c tn va x.1 x.2) s

/-- The leaf that translates va, from the cluster's cached translations, from a pointer of its walk cache or from the root (R32 to
R35): its entry and page size. What is cached may have been evicted, so where it and the tables differ either is used, a free choice
(R34, R35, log 21). -/
def State.translate (s : State) (c tn va : Nat) : Except Bad (Dword × Nat) × State :=
  if !(s.tenant tn).tnptb.getLsbD 0 then (.error (.trap .pageFault), s)
  else match (s.tlbHits c tn va ++ [s.walk tn va]).dedup with
    | [] => (.error (.trap .pageFault), s)
    | [w] => (s.keepPtrs c tn va).useWalk c tn va w
    | ws =>
      let (i, s) := s.choose ws.length
      (s.keepPtrs c tn va).useWalk c tn va (ws.getD i .fault)

/-! ### The checks of R36 -/

inductive AccKind where
  | read | write | atomic | fetch
  deriving DecidableEq, Repr

def AccKind.reads : AccKind → Bool
  | .read | .atomic => true
  | _ => false

def AccKind.writes : AccKind → Bool
  | .write | .atomic => true
  | _ => false

/-- Checks 3 and 4: a fabric byte of the tenant's window (R21, R22). -/
def State.fabricLoc (s : State) (tn va : Nat) (k : AccKind) : Except Bad Loc :=
  let o := va - s.fwLo tn
  let ix := o / 2 ^ 23
  if s.nclus tn ≤ ix then .error (.trap .access)
  else if (k.reads && !s.fwPerm tn ix false) || (k.writes && !s.fwPerm tn ix true) then .error (.trap .access)
  else .ok (.fabric (s.moduleCluster tn ix) (o % 2 ^ 23))

/-- The requester ID of a cluster's PCIe requests: the virtual function of its partition (R3, R30). -/
def vfOf (cluster : Nat) : Nat := partOf cluster + 1

/-- Checks 6 and 7 on a leaf, for a request of virtual function vf (R30, R31, R36, R437). -/
def leafLoc (vf : Nat) (e : Dword) (log2 va : Nat) (k : AccKind) (hostOk : Bool) : Except Bad Loc :=
  let n := e.toNat
  let base := bitsOf n 51 12 * 4096
  let pa := base + va % 2 ^ log2
  if (k.writes && !e.getLsbD 2) || (k == .fetch && !e.getLsbD 3) then .error (.trap .access)
  else match bitsOf n 6 5 with
    | 0 => if base + 2 ^ log2 ≤ hbmTop then .ok (.hbm pa (e.getLsbD 7)) else .error (.trap .access)
    | 1 => if hostOk then .ok (.host vf pa) else .error (.trap .access)
    | _ => if Config.routed (bitsOf n 63 52) then .ok (.peer (bitsOf n 63 52) pa) else .error (.trap .access)

/-- The translations that the lanes of one word have looked up, by an address in the page: lanes that name one page take one lookup (R33). -/
abbrev Lookups := List (Nat × Except Bad (Dword × Nat))

/-- The size of the page a lookup found, as a power of 2; one that found none concerns 4 KiB. -/
def pageLog (r : Except Bad (Dword × Nat)) : Nat :=
  match r with
  | .ok (_, l) => l
  | .error _ => 12

/-- An earlier lookup of the page of va. -/
def seenPage (seen : Lookups) (va : Nat) : Option (Except Bad (Dword × Nat)) :=
  (seen.find? (fun x => x.1 / 2 ^ pageLog x.2 == va / 2 ^ pageLog x.2)).map (·.2)

/-- The lookup of the page of va. -/
def State.lookup (s : State) (c tn va : Nat) (seen : Lookups) : Except Bad (Dword × Nat) × State :=
  match seenPage seen va with
  | some r => (r, s)
  | none => s.translate c tn va

/-- Checks 5 to 7: a global byte. -/
def State.globalLoc (s : State) (c tn va : Nat) (k : AccKind) (hostOk : Bool) (seen : Lookups := []) : Except Bad Loc × State :=
  match s.lookup c tn va seen with
  | (.ok (e, l), s') => (leafLoc (vfOf c) e l va k hostOk, s')
  | (.error r, s') => (.error r, s')

/-- Whether the checks of R36 reach the translation of an address. -/
def State.looksUp (s : State) (tn : Nat) (va : Int) (size : Nat) (fabricOnly : Bool) : Bool :=
  decide (0 ≤ va ∧ va < 2 ^ 52) && va.toNat % size == 0 && !s.inWindow tn va.toNat && !fabricOnly

/-- The lookups after an access from state s. -/
def State.noteLookup (s : State) (c tn : Nat) (va : Int) (size : Nat) (fabricOnly : Bool) (seen : Lookups) : Lookups :=
  if s.looksUp tn va size fabricOnly && (seenPage seen va.toNat).isNone then
    seen ++ [(va.toNat, (s.translate c tn va.toNat).1)]
  else seen

/-- The checks of R36 for an address formed as an exact sum (R15), an access of size bytes and one kind. -/
def State.access (s : State) (c tn : Nat) (va : Int) (size : Nat) (k : AccKind) (fabricOnly hostOk : Bool) (seen : Lookups := []) :
    Except Bad Loc × State :=
  if va < 0 ∨ (2 ^ 52 : Int) ≤ va then (.error (.trap .addrNoncanon), s)
  else
    let a := va.toNat
    if a % size ≠ 0 then (.error (.trap .align), s)
    else if s.inWindow tn a then (s.fabricLoc tn a k, s)
    else if fabricOnly then (.error (.trap .access), s)
    else s.globalLoc c tn a k hostOk seen

/-- A location whose unit waits for no answer of its own: the host or the peer accepts the access or not, a free choice (check 7 of R36;
R38). -/
def Loc.answered (l : Loc) (s : State) : Except Bad Loc × State :=
  match l with
  | .fabric _ _ | .hbm _ _ => (.ok l, s)
  | .host _ _ | .peer _ _ =>
    let (i, s) := s.choose 2
    (if i = 0 then .ok l else .error (.trap .access), s)

/-- Checks 5 to 7 for such a unit. -/
def State.globalNow (s : State) (c tn va : Nat) (k : AccKind) (seen : Lookups := []) : Except Bad Loc × State :=
  match s.globalLoc c tn va k true seen with
  | (.ok l, s) => l.answered s
  | (.error e, s) => (.error e, s)

/-- A walk for a unit of the tenant met a poisoned entry: the tenant's fault comes next (R408). -/
def State.walkFault (s : State) (tn : Nat) : State := { s with agenda := ⟨0, .event (.tenantFault tn)⟩ :: s.agenda }

/-- A step that met a poisoned entry has no effect but the tenant's fault (R408). -/
def State.unlessWalkFault (s r : State) : State :=
  match (r.agenda.take (r.agenda.length - s.agenda.length)).find? (fun t => match t.act with
    | .event (.tenantFault _) => true
    | _ => false) with
  | some t => { s with agenda := t :: s.agenda }
  | none => r

/-- The checks of R36 for such a unit. -/
def State.accessNow (s : State) (c tn : Nat) (va : Int) (size : Nat) (k : AccKind) : Except Bad Loc × State :=
  match s.access c tn va size k false true with
  | (.ok l, s) => l.answered s
  | (.error .walkPoison, s) => (.error .walkPoison, s.walkFault tn)
  | (.error e, s) => (.error e, s)

/-! ### Locations -/

def Loc.plus (l : Loc) (i : Nat) : Loc :=
  match l with
  | .fabric c b => .fabric c (b + i)
  | .hbm pa nc => .hbm (pa + i) nc
  | .host v a => .host v (a + i)
  | .peer m a => .peer m (a + i)

/-- On another module or on the host: the answer comes from outside (R37). -/
def Loc.remote : Loc → Bool
  | .host _ _ => true
  | .peer _ _ => true
  | _ => false

def Loc.isFabric : Loc → Bool
  | .fabric _ _ => true
  | _ => false

/-- One number per byte of a kind of storage, to compare locations. -/
def Loc.key : Loc → Nat × Nat
  | .fabric c b => (0, c * 2 ^ 23 + b)
  | .hbm pa _ => (1, pa)
  | .host _ a => (2, a)
  | .peer m a => (3 + m, a)

/-- The unit that carries the poison of a byte: a 64-byte HBM line, a 64-bit fabric word (R58). -/
def Loc.unit (l : Loc) : Nat × Nat := (l.key.1, l.key.2 / (if l.isFabric then 8 else 64))

/-- The global-line number of an HBM location. -/
def Loc.line : Loc → Option Nat
  | .hbm pa _ => some (pa / 64)
  | _ => none

def Loc.overlaps (a : Loc) (n : Nat) (b : Loc) (m : Nat) : Bool :=
  a.key.1 == b.key.1 && decide (a.key.2 < b.key.2 + m ∧ b.key.2 < a.key.2 + n)

/-- The byte that stands in memory at a location. -/
def State.memByte (s : State) (l : Loc) : Byte :=
  match l with
  | .fabric c b => s.fab.get 0 (c * 2 ^ 23 + b)
  | .hbm pa _ => s.hbm.get 0 pa
  | .host _ a => s.hostMem.get 0 a
  | .peer m a => s.peerMem.get 0 (m * 2 ^ 52 + a)

/-- Whether the unit that holds the byte is poisoned (R58). -/
def State.memPoison (s : State) (l : Loc) : Bool :=
  match l with
  | .fabric c b => NatSet.has s.fabPoison ((c * 2 ^ 23 + b) / 8)
  | .hbm pa _ => NatSet.has s.hbmPoison (pa / 64)
  | _ => false

def State.memBytes (s : State) (l : Loc) (n : Nat) : List Byte := (List.range n).map (fun i => s.memByte (l.plus i))

def State.memBad (s : State) (l : Loc) (n : Nat) : Bool := (List.range n).any (fun i => s.memPoison (l.plus i))

/-- The number of poisoned units that a read of n bytes finds (R58, R390). -/
def State.badUnits (s : State) (l : Loc) (n : Nat) : Nat :=
  (((List.range n).filter (fun i => s.memPoison (l.plus i))).map (fun i => (l.plus i).unit)).dedup.length

/-- Units of u bytes covered whole by [lo, lo + n) lose their mark (R58). -/
def clearCovered (m : NatSet) (u lo n : Nat) : NatSet :=
  m.filter (fun e => !decide (lo ≤ u * e.1 ∧ u * e.1 + u ≤ lo + n))

/-- Mark every unit of u bytes that [lo, lo + n) touches. -/
def markTouched (m : NatSet) (u lo n : Nat) : NatSet :=
  (List.range ((lo + n - 1) / u + 1 - lo / u)).foldl (fun m i => NatSet.set m (lo / u + i) true) m

/-- Bytes written into a partition's log in HBM, which are not logged themselves; none at or above the top of R30. -/
def State.writeLog (s : State) (pa : Nat) (bs : List Byte) : State :=
  if pa + bs.length ≤ hbmTop then { s with hbm := s.hbm.putList 0 pa bs } else s

/-- Where the next undo entry of a partition goes (R412). -/
def Partition.undoAt (p : Partition) : Nat := p.ulbase + 48 * 2 ^ 20 + 72 * p.undo.length

/-- The undo-log entry of a line, if logging is on and this is the first write of the interval to it (R412). -/
def State.logLine (s : State) (part line : Nat) : State :=
  let p := s.partition part
  let pre := s.hbm.getList 0 (64 * line) 64
  if p.valid && (s.tenant p.tenant).ckEn &&
      !(s.partsOf p.tenant).any (fun q => (s.partition q).undo.any (fun u => u.line == line)) then
    (s.updPartition part (fun x => { x with undo := x.undo ++ [⟨line, pre, NatSet.has s.hbmPoison line⟩] })).writeLog p.undoAt
      (leBytes 8 (64 * line) ++ pre)
  else s

/-! ### Code as of a launch's start fence (R262) -/

/-- One number for every byte of global memory. -/
def Loc.flat (l : Loc) : Nat := l.key.1 * 2 ^ 60 + l.key.2

/-- A byte that changes for the first time since the start fence is kept as it was. -/
def CodeView.keep (x : CodeView) (k : Nat) (b : Byte) : CodeView :=
  if NatSet.has x.changed k then x else { x with changed := NatSet.set x.changed k true, before := x.before.put 0 k b }

/-- n bytes from a key on are about to change: m is the memory that holds them, a the first one's place in it. -/
def CodeView.keepAll (x : CodeView) (m : Sparse Byte) (a k n : Nat) : CodeView :=
  (List.range n).foldl (fun x i => x.keep (k + i) (m.get 0 (a + i))) x

/-- Every launch that has started keeps what a write to global memory is about to change. -/
def State.keepCode (s : State) (m : Sparse Byte) (a k n : Nat) : State := { s with codes := s.codes.map (fun x => x.keepAll m a k n) }

/-- n bytes from a location on are written by a launch itself. -/
def State.ownWrite (s : State) (launch : Nat) (l : Loc) (n : Nat) : State :=
  if l.isFabric then s
  else { s with codes := s.codes.map (fun x =>
    if x.launch = launch then { x with own := (List.range n).foldl (fun m i => NatSet.set m (l.flat + i) true) x.own } else x) }

/-- A byte of code as a launch fetches it: as of its start fence, or, with new, as the launch's own writes have left it. -/
def State.codeByte (s : State) (launch : Nat) (new : Bool) (l : Loc) : Byte :=
  match s.codes.find? (fun x => x.launch == launch) with
  | none => s.memByte l
  | some x => if NatSet.has x.changed l.flat && !(new && NatSet.has x.own l.flat) then x.before.get 0 l.flat else s.memByte l

/-- A launch's first team starts, the start fence of R262 (log 74), or the launch is gone. -/
def State.openCode (s : State) (launch : Nat) : State :=
  if s.codes.any (fun x => x.launch == launch) then s else { s with codes := s.codes ++ [{ launch := launch }] }
def State.closeCode (s : State) (launch : Nat) : State := { s with codes := s.codes.filter (fun x => x.launch != launch) }

/-! ### Writing -/

/-- Bytes written to HBM by a requester of partition part: logged first (R412). -/
def State.putHbm (s : State) (part pa : Nat) (bs : List Byte) : State :=
  let s := (List.range (if bs.isEmpty then 0 else (pa + bs.length - 1) / 64 + 1 - pa / 64)).foldl (fun s i => s.logLine part (pa / 64 + i)) s
  let s := s.keepCode s.hbm pa (2 ^ 60 + pa) bs.length
  { s with hbm := s.hbm.putList 0 pa bs, hbmPoison := clearCovered s.hbmPoison 64 pa bs.length }

def State.putFab (s : State) (c b : Nat) (bs : List Byte) : State :=
  let a := c * 2 ^ 23 + b
  { s with fab := s.fab.putList 0 a bs, fabPoison := clearCovered s.fabPoison 8 a bs.length }

/-- Bytes written at a location by a requester of partition part; a write that covers a whole unit clears its poison (R58). -/
def State.putLoc (s : State) (part : Nat) (l : Loc) (bs : List Byte) : State :=
  match l with
  | .fabric c b => s.putFab c b bs
  | .hbm pa _ => s.putHbm part pa bs
  | .host _ a => { s.keepCode s.hostMem a l.flat bs.length with hostMem := s.hostMem.putList 0 a bs }
  | .peer m a => { s.keepCode s.peerMem (m * 2 ^ 52 + a) l.flat bs.length with peerMem := s.peerMem.putList 0 (m * 2 ^ 52 + a) bs }

/-- Poison every unit that n bytes from a location touch (R58). -/
def State.poisonLoc (s : State) (l : Loc) (n : Nat) : State :=
  match l with
  | .fabric c b => { s with fabPoison := markTouched s.fabPoison 8 (c * 2 ^ 23 + b) n }
  | .hbm pa _ => { s with hbmPoison := markTouched s.hbmPoison 64 pa n }
  | _ => s

/-- Units that bytes with the given keys, written together, cover whole lose their mark (R58). -/
def State.clearWhole (s : State) (keys : List (Nat × Nat)) : State :=
  let whole (k u n : Nat) : Bool := (List.range u).all (fun i => keys.contains (k, u * n + i))
  { s with
    fabPoison := s.fabPoison.filter (fun e => !whole 0 8 e.1)
    hbmPoison := s.hbmPoison.filter (fun e => !whole 1 64 e.1) }

/-! ### The global-line caches (R46) -/

def State.cached (s : State) (c line : Nat) : Option CacheLine := s.lines.find? (fun x => x.cluster == c && x.line == line)

def State.dropLines (s : State) (p : CacheLine → Bool) : State := { s with lines := s.lines.filter (fun x => !p x) }

/-- Remove a cluster's lines (R346), or those that [pa, pa + n) touches (R51, R126). -/
def State.clearCache (s : State) (c : Nat) : State := s.dropLines (fun x => x.cluster == c)
def State.dropTouched (s : State) (c pa n : Nat) : State :=
  s.dropLines (fun x => x.cluster == c && decide (64 * x.line < pa + n ∧ pa < 64 * x.line + 64))

/-- Lines of a cluster's global-line cache: 2 MiB of 64 bytes, in 16 ways (R46). -/
def cacheLines : Nat := 2 * 2 ^ 20 / 64

/-- Room for one more line in a cluster's cache: where all of it is in use, a line leaves, a free choice. Which sets share the 16 ways is
not given; a line that leaves earlier shows as the free choice of loadLoc. -/
def State.evictLine (s : State) (c : Nat) : State :=
  let mine := s.lines.filter (fun x => x.cluster == c)
  if mine.length < cacheLines then s
  else
    let (i, s) := s.choose mine.length
    let n := (mine.map (·.line)).getD i 0
    s.dropLines (fun x => x.cluster == c && x.line == n)

/-- The line of an address as it stands in memory, into the cluster's cache. -/
def State.fillLine (s : State) (c line : Nat) : State :=
  let s := (s.dropLines (fun x => x.cluster == c && x.line == line)).evictLine c
  { s with lines := s.lines ++ [⟨c, line, s.hbm.getList 0 (64 * line) 64, NatSet.has s.hbmPoison line⟩] }

/-- A cached line where a store of the same cluster changes it (R46); a store of the whole line clears its mark (R58). -/
def State.storeThrough (s : State) (c pa : Nat) (bs : List Byte) : State :=
  { s with lines := s.lines.map (fun x =>
      if x.cluster = c ∧ x.line = pa / 64 then
        { x with
          bytes := x.bytes.take (pa % 64) ++ bs ++ x.bytes.drop (pa % 64 + bs.length)
          poisoned := x.poisoned && decide (bs.length < 64) }
      else x) }

/-- What a load of cluster c reads: bytes, whether poisoned. A line in the cache that differs from memory may have been evicted
in the meantime: which of the two is read is a free choice (R46, log 15). -/
def State.loadLoc (s : State) (c : Nat) (l : Loc) (n : Nat) (fill : Bool) : (List Byte × Bool) × State :=
  let mem := (s.memBytes l n, s.memBad l n)
  match l with
  | .hbm pa false =>
    match s.cached c (pa / 64) with
    | some x =>
      let old := ((x.bytes.drop (pa % 64)).take n, x.poisoned)
      if old = mem then (mem, s)
      else
        let (i, s) := s.choose 2
        if i = 0 then (old, s) else (mem, s.fillLine c (pa / 64))
    | none => (mem, if fill then s.fillLine c (pa / 64) else s)
  | _ => (mem, s)

/-- A store of cluster c performed. -/
def State.storeLoc (s : State) (c : Nat) (l : Loc) (bs : List Byte) : State :=
  match l with
  | .hbm pa false => (s.putLoc (partOf c) l bs).storeThrough c pa bs
  | _ => s.putLoc (partOf c) l bs

/-! ### Engines that read and write tenant memory at scope .sys (R188, R191, R207) -/

/-- The cluster at whose port the engines of a tenant reach memory: its cluster index 0. -/
def State.engineCluster (s : State) (tn : Nat) : Nat := s.moduleCluster tn 0

/-- Read n bytes from va, page by page, with the checks of R36; the faulting address on failure. The bytes are taken as they stand: poison
of their unit is not looked at (log 58). -/
def State.readVa (s : State) (c tn va n : Nat) : Except (Bad × Nat) (List Byte) × State :=
  (List.range n).foldl (fun r i =>
    match r with
    | (.error e, s) => (.error e, s)
    | (.ok bs, s) =>
      match s.accessNow c tn ((va + i : Nat) : Int) 1 .read with
      | (.ok l, s) => (.ok (bs ++ [s.memByte l]), s)
      | (.error e, s) => (.error (e, va + i), s)) (.ok [], s)

/-- Write bytes from va; nothing is written if a byte fails a check of R36. -/
def State.writeVa (s : State) (c tn va : Nat) (bs : List Byte) : Except (Bad × Nat) Unit × State :=
  let chk := (List.range bs.length).foldl (fun r i =>
    match r with
    | (.error e, s) => (.error e, s)
    | (.ok ls, s) =>
      match s.accessNow c tn ((va + i : Nat) : Int) 1 .write with
      | (.ok l, s) => (.ok (ls ++ [l]), s)
      | (.error e, s) => (.error (e, va + i), s)) ((.ok [], s) : Except (Bad × Nat) (List Loc) × State)
  match chk with
  | (.error e, s) => (.error e, s)
  | (.ok ls, s) => (.ok (), ((ls.zip bs).foldl (fun s x => s.putLoc (partOf c) x.1 [x.2]) s).clearWhole (ls.map Loc.key))

/-- Write bytes from va as far as the checks allow, byte by byte. -/
def State.writeVaPart (s : State) (c tn va : Nat) (bs : List Byte) : State :=
  let r := (List.range bs.length).foldl (fun (r : State × List (Nat × Nat)) i =>
    match r.1.accessNow c tn ((va + i : Nat) : Int) 1 .write with
    | (.ok l, s) => (s.putLoc (partOf c) l [bs.getD i 0], l.key :: r.2)
    | (.error _, s) => (s, r.2)) (s, [])
  r.1.clearWhole r.2

end Sys2Proof.Machine
end

