-- ==== Sys2Proof/Decode.lean ====
section
/-! DEFINITION. Decoding and encoding of instruction words (spec 14, R263 to R284): the fields of every format, the opcode map,
the classes, the closing and non-replayable words, the length of an instruction, a decoder total on any bytes and, after it, the
encoder written from the same tables. -/

namespace Sys2Proof

/-- Why bytes are no instruction. Every one but truncated traps ILLEGAL_INSTRUCTION (R284 order 2). -/
inductive DecodeError where
  | truncated                        -- fewer bytes than the instruction has
  | unassigned (op : BitVec 7)       -- an opcode slot the map leaves unassigned
  | subFunction (op : BitVec 7)      -- a sub-function value the slot does not list
  | extension (op : BitVec 7)        -- an extension present or absent against the map (R270)
  | field (op : BitVec 7)            -- a field or bit that must be 0 is not (R271)
  | defect (d : Defect)              -- a combination the instruction does not accept
  deriving DecidableEq, Repr

/-! ### Fields of the formats (R269) -/

def opOf (w : Word) : BitVec 7 := w.extractLsb' 25 7
/-- NW of formats V and M, bit 24. -/
def fNw (w : Word) : Bool := w.getLsbD 24
/-- vd of formats V and M. -/
def fVd (w : Word) : BitVec 7 := w.extractLsb' 17 7
/-- V sa, M basepair, X A. -/
def fA8 (w : Word) : BitVec 8 := w.extractLsb' 9 8
/-- V sb, M idx, X B. -/
def fB8 (w : Word) : BitVec 8 := w.extractLsb' 1 8
/-- E of formats V, M and X. -/
def fE (w : Word) : Bool := w.getLsbD 0
/-- sd of formats S and I. -/
def fSd (w : Word) : BitVec 9 := w.extractLsb' 16 9
/-- S sa. -/
def fSa (w : Word) : BitVec 9 := w.extractLsb' 7 9
/-- S sb7. -/
def fSb7 (w : Word) : BitVec 7 := w.extractLsb' 0 7
/-- I imm16. -/
def fImm16 (w : Word) : BitVec 16 := w.extractLsb' 0 16
/-- B src, Y func. -/
def fSrc (w : Word) : BitVec 8 := w.extractLsb' 17 8
/-- B cond. -/
def fCond (w : Word) : BitVec 3 := w.extractLsb' 14 3
/-- B off14. -/
def fOff14 (w : Word) : BitVec 14 := w.extractLsb' 0 14
/-- X d. -/
def fXd (w : Word) : BitVec 4 := w.extractLsb' 21 4
/-- X c. -/
def fXc (w : Word) : BitVec 4 := w.extractLsb' 17 4
/-- Y sa. -/
def fYa (w : Word) : BitVec 9 := w.extractLsb' 8 9
/-- Y imm8. -/
def fYi (w : Word) : BitVec 8 := w.extractLsb' 0 8

def VExt.ofWord (x : Word) : VExt :=
  { sc := x.extractLsb' 24 8, ty := ElemTy.ofCode (x.extractLsb' 20 4), rnd := x.extractLsb' 17 3,
    sat := x.getLsbD 16, imm := x.extractLsb' 0 16 }
def SExt.ofWord (x : Word) : SExt :=
  { sc := x.extractLsb' 19 9, atype := x.extractLsb' 16 3, func := x.extractLsb' 12 4, cond := x.extractLsb' 9 3,
    sb := x.extractLsb' 0 9 }
def MExt.ofWord (x : Word) : MExt :=
  { sx := x.getLsbD 31, sz := x.extractLsb' 29 2, hint := x.extractLsb' 27 2, scope := x.extractLsb' 24 3,
    off := x.extractLsb' 0 24 }
def AExt.ofWord (x : Word) : AExt :=
  { off := x.extractLsb' 17 15, scope := x.extractLsb' 14 3, atype := x.extractLsb' 11 3, aop := x.extractLsb' 7 4,
    vb := x.extractLsb' 0 7 }
def XExt.ofWord (x : Word) : XExt :=
  { dims := x.extractLsb' 23 9, mask := x.extractLsb' 12 8, bsb := x.getLsbD 10, asb := x.getLsbD 9, zi := x.getLsbD 8,
    fmt := x.extractLsb' 0 4 }

/-! ### What a raw word is, before it is decoded (R263, R265, R270) -/

/-- The classes of R263, in the order of the CLASS mask bits 27 down to 22. -/
inductive WClass where
  | S | V | M | X | A | Y
  deriving DecidableEq, Repr

/-- The class of a word by its opcode bits (R263, R276 to R280). -/
def classOf (op : BitVec 7) : WClass :=
  if op.toNat < 0x20 then .S else if op.toNat < 0x50 then .V else if op.toNat < 0x68 then .M
  else if op.toNat < 0x70 then .A else if op.toNat < 0x78 then .X else .Y

/-- The bit of CLASS in a clause header (R260). -/
def WClass.bit : WClass → Nat
  | .S => 27 | .V => 26 | .M => 25 | .X => 24 | .A => 23 | .Y => 22

/-- The closing words (R265). -/
def closingWord (w : Word) : Bool :=
  match (opOf w).toNat with
  | 0x00 => decide (1 ≤ (fSrc w).toNat ∧ (fSrc w).toNat ≤ 4)
  | 0x01 => fSrc w == 1
  | 0x1A | 0x1C | 0x1E => true
  | 0x1F => decide ((fCond w).toNat ≤ 2)
  | 0x1D => fSrc w == 0
  | 0x7E => true
  | _ => false

/-- The number of rtick, the one self-clearing special register (R300). -/
def rtickNumber : BitVec 8 := 21

/-- The words that fail in a clause with NR = 0 (R265): POP, POPT, RAND and an SGET of a self-clearing register. -/
def nonReplayable (w : Word) : Bool :=
  match (opOf w).toNat with
  | 0x62 | 0x63 | 0x4A => true
  | 0x1B => fYi w == 0 && fSrc w == rtickNumber
  | _ => false

/-- Whether an extension or literal word follows a base word (R270 and the Extension columns of R276 to R280). -/
def needsExt (w : Word) : Bool :=
  let op := (opOf w).toNat
  if op < 0x20 then
    match op with
    | 0x05 => true
    | 0x06 => false
    | 0x1A | 0x1C | 0x1E => fOff14 w == 0x2000#14
    | 0x16 | 0x17 | 0x18 | 0x19 => fSb7 w == 0x7F#7
    | n => decide (0x07 ≤ n ∧ n ≤ 0x15) && fSb7 w == 0x7F#7
  else if op < 0x50 then fE w && !(op == 0x48 || op == 0x49 || decide (0x4D ≤ op))
  else if op < 0x70 then
    match op with
    | 0x58 | 0x60 | 0x61 | 0x64 | 0x68 | 0x69 | 0x6A | 0x6B | 0x6E | 0x6F => fSb7 w == 0x7F#7
    | 0x5D | 0x5E | 0x5F | 0x62 | 0x63 | 0x65 => false
    | _ => fE w
  else
    match op with
    | 0x70 | 0x71 | 0x72 | 0x73 | 0x74 | 0x75 => fE w
    | 0x76 => fE w && fB8 w == 4
    | _ => false

/-- The length of an instruction in words, 1 or 2 (R270). -/
def wordsOf (w : Word) : Nat := if needsExt w then 2 else 1

/-! ### The decoder -/

/-- The second word where the map makes it optional (R270). -/
def optExt {α : Type} (e : Bool) (x : Option Word) (f : Word → α) : Except DecodeError (Option α) :=
  if e then
    match x with
    | some y => .ok (some (f y))
    | none => .error .truncated
  else .ok none

/-- The second word where the map requires it. -/
def reqExt {α : Type} (op : BitVec 7) (e : Bool) (x : Option Word) (f : Word → α) : Except DecodeError α :=
  if e then
    match x with
    | some y => .ok (f y)
    | none => .error .truncated
  else .error (.extension op)

/-- The third operand of an S word (R270); bits [31:28] of its extension are 0. -/
def tailOf (w : Word) (x : Option Word) : Except DecodeError STail :=
  if fSb7 w == 0x7F#7 then
    match x with
    | some y => if y.extractLsb' 28 4 == 0 then .ok (.ext (SExt.ofWord y)) else .error (.field (opOf w))
    | none => .error .truncated
  else .ok (.short (fSb7 w))

/-- The S extension where the map requires one. -/
def sReq (w : Word) (x : Option Word) : Except DecodeError SExt :=
  match tailOf w x with
  | .ok (.ext e) => .ok e
  | .ok (.short _) => .error (.extension (opOf w))
  | .error r => .error r

/-- The X extension; bits [22:20], [11] and [7:4] are 0 (R269). -/
def xExt (op : BitVec 7) (e : Bool) (x : Option Word) : Except DecodeError XExt :=
  if e then
    match x with
    | some y => if y.extractLsb' 20 3 == 0 && !y.getLsbD 11 && y.extractLsb' 4 4 == 0 then .ok (XExt.ofWord y)
        else .error (.field op)
    | none => .error .truncated
  else .error (.extension op)

/-- The X extension where it is optional. -/
def xOpt (op : BitVec 7) (e : Bool) (x : Option Word) : Except DecodeError (Option XExt) :=
  if e then (xExt op e x).map some else .ok none

/-- i if the fields it does not use are 0 (R271). -/
def zeroed (op : BitVec 7) (ok : Bool) (i : Instr) : Except DecodeError Instr := if ok then .ok i else .error (.field op)

/-- A branch word of format B with its offset or literal (R270). -/
def branchOf (w : Word) (x : Option Word) (short : BitVec 14 → Instr) (long : Word → Instr) : Except DecodeError Instr :=
  if fOff14 w == 0x2000#14 then
    match x with
    | some l => .ok (long l)
    | none => .error .truncated
  else .ok (short (fOff14 w))

/-- Class S, slots 0x00 to 0x1F (R276). -/
def parseS (w : Word) (x : Option Word) : Except DecodeError Instr :=
  let op := opOf w
  match op.toNat with
  | 0x00 =>
    match (fSrc w).toNat with
    | 0 => zeroed op (fYa w == 0 && fYi w == 0) .nop
    | 1 => zeroed op (fYa w == 0 && fYi w == 0) .exit
    | 2 => zeroed op (fYa w == 0 && fYi w == 0) .yield
    | 3 => zeroed op (fYa w == 0 && fYi w == 0) .tret
    | 4 => zeroed op (fYa w == 0) (.trap (fYi w))
    | _ => .error (.subFunction op)
  | 0x01 =>
    match (fSrc w).toNat with
    | 0 => zeroed op (fYa w == 0) (.joinEnrol (fYi w))
    | 1 => zeroed op (fYa w == 0) (.joinPark (fYi w))
    | 2 => zeroed op (fYa w == 0) (.joinStrike (fYi w))
    | 3 => .ok (.joinTest (fYa w) (fYi w))
    | _ => .error (.subFunction op)
  | 0x02 => .ok (.smovi (fSd w) (fImm16 w))
  | 0x03 => .ok (.smovh (fSd w) (fImm16 w))
  | 0x04 => .ok (.saddi (fSd w) (fImm16 w))
  | 0x05 =>
    match x with
    | some l => zeroed op (fImm16 w == 0) (.sldc (fSd w) l)
    | none => .error .truncated
  | 0x06 =>
    match (fSb7 w).toNat with
    | 0 => .ok (.smov (fSd w) (fSa w))
    | 1 => .ok (.sclz (fSd w) (fSa w))
    | 2 => .ok (.spopc (fSd w) (fSa w))
    | _ => .error (.subFunction op)
  | 0x0A => (tailOf w x).map fun b =>
      match b with
      | .ext e => if e.atype == 1#3 then .smulhS32 (fSd w) (fSa w) b else .smulh (fSd w) (fSa w) b
      | .short _ => .smulh (fSd w) (fSa w) b
  | 0x07 => (tailOf w x).map (.sadd (fSd w) (fSa w))
  | 0x08 => (tailOf w x).map (.ssub (fSd w) (fSa w))
  | 0x09 => (tailOf w x).map (.smul (fSd w) (fSa w))
  | 0x0B => (tailOf w x).map (.sand (fSd w) (fSa w))
  | 0x0C => (tailOf w x).map (.sor (fSd w) (fSa w))
  | 0x0D => (tailOf w x).map (.sxor (fSd w) (fSa w))
  | 0x0E => (tailOf w x).map (.sandn (fSd w) (fSa w))
  | 0x0F => (tailOf w x).map (.sshl (fSd w) (fSa w))
  | 0x10 => (tailOf w x).map (.sshr (fSd w) (fSa w))
  | 0x11 => (tailOf w x).map (.ssar (fSd w) (fSa w))
  | 0x12 => (tailOf w x).map (.smin (fSd w) (fSa w))
  | 0x13 => (tailOf w x).map (.smax (fSd w) (fSa w))
  | 0x14 => (tailOf w x).map (.sminz (fSd w) (fSa w))
  | 0x15 => (tailOf w x).map (.smaxz (fSd w) (fSa w))
  | 0x18 => (tailOf w x).map (.sadd64 (fSd w) (fSa w))
  | 0x19 => (tailOf w x).map (.ssub64 (fSd w) (fSa w))
  | 0x16 => (sReq w x).map (.scmp (fSd w) (fSa w))
  | 0x17 => (sReq w x).map (.ssel (fSd w) (fSa w))
  | 0x1A =>
    if fCond w == 0 && fSrc w == 0 then branchOf w x .bra .braLong
    else branchOf w x (.bru (fSrc w) (fCond w)) (.bruLong (fSrc w) (fCond w))
  | 0x1B =>
    match (fYi w).toNat with
    | 0 => .ok (.sget (fSrc w) (fYa w))
    | 1 => .ok (.sset (fSrc w) (fYa w))
    | _ => .error (.subFunction op)
  | 0x1C => branchOf w x (.brt (fSrc w) (fCond w)) (.brtLong (fSrc w) (fCond w))
  | 0x1D =>
    match (fSrc w).toNat with
    | 0 => zeroed op (fYa w == 0) (.modeset (fYi w))
    | 1 => zeroed op (fYa w == 0)
        (if (fYi w).getLsbD 7 then .modegetFlags ((fYi w).setWidth 7) else .modeget ((fYi w).setWidth 7))
    | 2 => zeroed op (fYi w == 0) (.clk (fYa w))
    | _ => .error (.subFunction op)
  | 0x1E => if fCond w == 0 && fSrc w == 0 then branchOf w x .call .callLong else .error (.field op)
  | _ =>
    match (fCond w).toNat with
    | 0 => zeroed op (fOff14 w == 0) (.brx (fSrc w))
    | 1 => zeroed op (fOff14 w == 0) (.callx (fSrc w))
    | 2 => zeroed op (fOff14 w == 0 && fSrc w == 0) .ret
    | _ => .error (.subFunction op)

/-- Class V, slots 0x20 to 0x4F (R277). -/
def parseV (w : Word) (x : Option Word) : Except DecodeError Instr :=
  let op := opOf w
  match op.toNat with
  | 0x20 => (optExt (fE w) x VExt.ofWord).map fun e =>
      match e with
      | some y => if y.sat then .vaddsat (fNw w) (fVd w) (fA8 w) (fB8 w) y else .vadd (fNw w) (fVd w) (fA8 w) (fB8 w) e
      | none => .vadd (fNw w) (fVd w) (fA8 w) (fB8 w) e
  | 0x21 => (optExt (fE w) x VExt.ofWord).map fun e =>
      match e with
      | some y => if y.sat then .vsubsat (fNw w) (fVd w) (fA8 w) (fB8 w) y else .vsub (fNw w) (fVd w) (fA8 w) (fB8 w) e
      | none => .vsub (fNw w) (fVd w) (fA8 w) (fB8 w) e
  | 0x23 => (optExt (fE w) x VExt.ofWord).map (.vmulh (fNw w) (fVd w) (fA8 w) (fB8 w))
  | 0x22 => (optExt (fE w) x VExt.ofWord).map (.vmul (fNw w) (fVd w) (fA8 w) (fB8 w))
  | 0x25 => (optExt (fE w) x VExt.ofWord).map (.vand (fNw w) (fVd w) (fA8 w) (fB8 w))
  | 0x26 => (optExt (fE w) x VExt.ofWord).map (.vor (fNw w) (fVd w) (fA8 w) (fB8 w))
  | 0x27 => (optExt (fE w) x VExt.ofWord).map (.vxor (fNw w) (fVd w) (fA8 w) (fB8 w))
  | 0x28 => (optExt (fE w) x VExt.ofWord).map (.vshl (fNw w) (fVd w) (fA8 w) (fB8 w))
  | 0x29 => (optExt (fE w) x VExt.ofWord).map (.vshr (fNw w) (fVd w) (fA8 w) (fB8 w))
  | 0x2A => (optExt (fE w) x VExt.ofWord).map (.vsar (fNw w) (fVd w) (fA8 w) (fB8 w))
  | 0x2B => (optExt (fE w) x VExt.ofWord).map (.vmin (fNw w) (fVd w) (fA8 w) (fB8 w))
  | 0x2C => (optExt (fE w) x VExt.ofWord).map (.vmax (fNw w) (fVd w) (fA8 w) (fB8 w))
  | 0x32 => (optExt (fE w) x VExt.ofWord).map (.vdiv (fNw w) (fVd w) (fA8 w) (fB8 w))
  | 0x33 => (optExt (fE w) x VExt.ofWord).map (.vrem (fNw w) (fVd w) (fA8 w) (fB8 w))
  | 0x34 => (optExt (fE w) x VExt.ofWord).map (.fadd (fNw w) (fVd w) (fA8 w) (fB8 w))
  | 0x35 => (optExt (fE w) x VExt.ofWord).map (.fsub (fNw w) (fVd w) (fA8 w) (fB8 w))
  | 0x36 => (optExt (fE w) x VExt.ofWord).map (.fmul (fNw w) (fVd w) (fA8 w) (fB8 w))
  | 0x38 => (optExt (fE w) x VExt.ofWord).map (.fmin (fNw w) (fVd w) (fA8 w) (fB8 w))
  | 0x39 => (optExt (fE w) x VExt.ofWord).map (.fmax (fNw w) (fVd w) (fA8 w) (fB8 w))
  | 0x3C => (optExt (fE w) x VExt.ofWord).map (.fscale (fNw w) (fVd w) (fA8 w) (fB8 w))
  | 0x41 => (optExt (fE w) x VExt.ofWord).map (.vshfl (fNw w) (fVd w) (fA8 w) (fB8 w))
  | 0x42 => (optExt (fE w) x VExt.ofWord).map (.vshfx (fNw w) (fVd w) (fA8 w) (fB8 w))
  | 0x43 => (optExt (fE w) x VExt.ofWord).map (.vshfup (fNw w) (fVd w) (fA8 w) (fB8 w))
  | 0x44 => (optExt (fE w) x VExt.ofWord).map (.vshfdn (fNw w) (fVd w) (fA8 w) (fB8 w))
  | 0x45 => (optExt (fE w) x VExt.ofWord).map (.vbcst (fNw w) (fVd w) (fA8 w) (fB8 w))
  | 0x46 => (optExt (fE w) x VExt.ofWord).map (.vred (fNw w) (fVd w) (fA8 w) (fB8 w))
  | 0x47 => (optExt (fE w) x VExt.ofWord).map (.vscan (fNw w) (fVd w) (fA8 w) (fB8 w))
  | 0x4B => (optExt (fE w) x VExt.ofWord).map (.rebal (fNw w) (fVd w) (fA8 w) (fB8 w))
  | 0x24 => (reqExt op (fE w) x VExt.ofWord).map (.vmad (fNw w) (fVd w) (fA8 w) (fB8 w))
  | 0x2E => (reqExt op (fE w) x VExt.ofWord).map (.vcmp (fNw w) (fVd w) (fA8 w) (fB8 w))
  | 0x2F => (reqExt op (fE w) x VExt.ofWord).map (.vsel (fNw w) (fVd w) (fA8 w) (fB8 w))
  | 0x30 => (reqExt op (fE w) x VExt.ofWord).map (.vbfe (fNw w) (fVd w) (fA8 w) (fB8 w))
  | 0x31 => (reqExt op (fE w) x VExt.ofWord).map (.vbfi (fNw w) (fVd w) (fA8 w) (fB8 w))
  | 0x37 => (reqExt op (fE w) x VExt.ofWord).map (.ffma (fNw w) (fVd w) (fA8 w) (fB8 w))
  | 0x3B => (reqExt op (fE w) x VExt.ofWord).map (.fcmp (fNw w) (fVd w) (fA8 w) (fB8 w))
  | 0x3D => (reqExt op (fE w) x VExt.ofWord).map (.fexp2s (fNw w) (fVd w) (fA8 w) (fB8 w))
  | 0x3F => (reqExt op (fE w) x VExt.ofWord).map (.vpack (fNw w) (fVd w) (fA8 w) (fB8 w))
  | 0x40 => (reqExt op (fE w) x VExt.ofWord).map (.vunpk (fNw w) (fVd w) (fA8 w) (fB8 w))
  | 0x4C => (reqExt op (fE w) x VExt.ofWord).map (.vtopk (fNw w) (fVd w) (fA8 w) (fB8 w))
  | 0x2D =>
    match (fB8 w).toNat with
    | 0 => (optExt (fE w) x VExt.ofWord).map (.vnot (fNw w) (fVd w) (fA8 w))
    | 1 => (optExt (fE w) x VExt.ofWord).map (.vabs (fNw w) (fVd w) (fA8 w))
    | 2 => (optExt (fE w) x VExt.ofWord).map (.vneg (fNw w) (fVd w) (fA8 w))
    | 3 => (optExt (fE w) x VExt.ofWord).map (.vclz (fNw w) (fVd w) (fA8 w))
    | 4 => (optExt (fE w) x VExt.ofWord).map (.vpopc (fNw w) (fVd w) (fA8 w))
    | 5 => (optExt (fE w) x VExt.ofWord).map (.vbrev (fNw w) (fVd w) (fA8 w))
    | _ => .error (.subFunction op)
  | 0x3A =>
    match (fB8 w).toNat with
    | 0 => (optExt (fE w) x VExt.ofWord).map (.fabs (fNw w) (fVd w) (fA8 w))
    | 1 => (optExt (fE w) x VExt.ofWord).map (.fneg (fNw w) (fVd w) (fA8 w))
    | 2 => (optExt (fE w) x VExt.ofWord).map (.fclass (fNw w) (fVd w) (fA8 w))
    | 3 => (optExt (fE w) x VExt.ofWord).map (.frnd (fNw w) (fVd w) (fA8 w))
    | 4 => (optExt (fE w) x VExt.ofWord).map (.frcp (fNw w) (fVd w) (fA8 w))
    | 5 => (optExt (fE w) x VExt.ofWord).map (.frsq (fNw w) (fVd w) (fA8 w))
    | 6 => (optExt (fE w) x VExt.ofWord).map (.fsqrt (fNw w) (fVd w) (fA8 w))
    | 7 => (optExt (fE w) x VExt.ofWord).map (.flog2 (fNw w) (fVd w) (fA8 w))
    | 8 => (optExt (fE w) x VExt.ofWord).map (.fsin (fNw w) (fVd w) (fA8 w))
    | 9 => (optExt (fE w) x VExt.ofWord).map (.fcos (fNw w) (fVd w) (fA8 w))
    | _ => .error (.subFunction op)
  | 0x3E =>
    if decide ((fB8 w).toNat < 16) then
      (reqExt op (fE w) x VExt.ofWord).map (.cvt (fNw w) (fVd w) (fA8 w) (ElemTy.ofCode ((fB8 w).setWidth 4)))
    else .error (.subFunction op)
  | 0x48 => if fE w then .error (.extension op) else zeroed op (fB8 w == 0) (.vballot (fNw w) (fVd w) (fA8 w))
  | 0x49 => if fE w then .error (.extension op) else .ok (.vvote (fNw w) (fVd w) (fA8 w) (fB8 w))
  | 0x4A => if fB8 w == 0 then (optExt (fE w) x VExt.ofWord).map (.rand (fNw w) (fVd w) (fA8 w)) else .error (.field op)
  | _ => .error (.unassigned op)

/-- Classes M and A, slots 0x50 to 0x6F (R278). -/
def parseM (w : Word) (x : Option Word) : Except DecodeError Instr :=
  let op := opOf w
  match op.toNat with
  | 0x50 => if fNw w then .error (.field op) else (optExt (fE w) x MExt.ofWord).map (.ld32 (fVd w) (fA8 w) (fB8 w))
  | 0x51 => if fNw w then .error (.field op) else (optExt (fE w) x MExt.ofWord).map (.ld64 (fVd w) (fA8 w) (fB8 w))
  | 0x52 => if fNw w then .error (.field op) else (optExt (fE w) x MExt.ofWord).map (.st32 (fVd w) (fA8 w) (fB8 w))
  | 0x53 => if fNw w then .error (.field op) else (optExt (fE w) x MExt.ofWord).map (.st64 (fVd w) (fA8 w) (fB8 w))
  | 0x54 => if fNw w then .error (.field op) else (optExt (fE w) x MExt.ofWord).map (.ldf32 (fVd w) (fA8 w) (fB8 w))
  | 0x55 => if fNw w then .error (.field op) else (optExt (fE w) x MExt.ofWord).map (.ldf64 (fVd w) (fA8 w) (fB8 w))
  | 0x56 => if fNw w then .error (.field op) else (optExt (fE w) x MExt.ofWord).map (.stf32 (fVd w) (fA8 w) (fB8 w))
  | 0x57 => if fNw w then .error (.field op) else (optExt (fE w) x MExt.ofWord).map (.stf64 (fVd w) (fA8 w) (fB8 w))
  | 0x6C => if fNw w then .error (.field op) else (optExt (fE w) x MExt.ofWord).map (.gath (fVd w) (fA8 w) (fB8 w))
  | 0x6D => if fNw w then .error (.field op) else (optExt (fE w) x MExt.ofWord).map (.scat (fVd w) (fA8 w) (fB8 w))
  | 0x58 => (tailOf w x).map (.ldu (fSd w) (fSa w))
  | 0x59 => (reqExt op (fE w) x AExt.ofWord).map (.atom (fNw w) (fVd w) (fA8 w) (fB8 w))
  | 0x5A => if fNw w || fVd w != 0 then .error (.field op) else (reqExt op (fE w) x AExt.ofWord).map (.red (fA8 w) (fB8 w))
  | 0x5B => if fNw w then .error (.field op) else (reqExt op (fE w) x AExt.ofWord).map (.atomCas (fNw w) (fVd w) (fA8 w) (fB8 w))
  | 0x5C => if fNw w then .error (.field op) else (reqExt op (fE w) x AExt.ofWord).map (.atomCas64 (fNw w) (fVd w) (fA8 w) (fB8 w))
  | 0x5D => zeroed op (w.extractLsb' 0 17 == 0)
      (.fence (w.getLsbD 24) (w.extractLsb' 22 2) (w.extractLsb' 19 3) (w.extractLsb' 17 2))
  | 0x5E => zeroed op (w.extractLsb' 19 6 == 0 && fYa w == 0) (.waitc (w.extractLsb' 17 2) (fYi w))
  | 0x5F => zeroed op (w.extractLsb' 0 25 == 0) .drain
  | 0x60 => if fSd w == 0 then (tailOf w x).map (.push (fSa w)) else .error (.field op)
  | 0x61 => (tailOf w x).map (.pusht (fSd w) (fSa w))
  | 0x62 => zeroed op (fSb7 w == 0) (.pop (fSd w) (fSa w))
  | 0x63 => zeroed op (fSb7 w == 0) (.popt (fSd w) (fSa w))
  | 0x64 => if fSd w == 0 then (tailOf w x).map (.reinOpen (fSa w)) else .error (.field op)
  | 0x65 => zeroed op (fSb7 w == 0 && fSd w == 0) (.reinClose (fSa w))
  | 0x66 => if fNw w || fVd w != 0 then .error (.field op) else (optExt (fE w) x MExt.ofWord).map (.pref (fA8 w) (fB8 w))
  | 0x67 =>
    if fNw w then .error (.field op)
    else match reqExt op (fE w) x id with
      | .ok y => zeroed op (y.extractLsb' 9 23 == 0) (.sweep (fVd w) (fA8 w) (fB8 w) (y.extractLsb' 0 9))
      | .error r => .error r
  | 0x68 => (tailOf w x).map (.cpy (fSd w) (fSa w))
  | 0x69 => (tailOf w x).map (.cpySb (fSd w) (fSa w))
  | 0x6A => (tailOf w x).map (.cpy2d (fSd w) (fSa w))
  | 0x6B => (tailOf w x).map (.cpy2dSb (fSd w) (fSa w))
  | 0x6E => (tailOf w x).map (.xcpy (fSd w) (fSa w))
  | _ => (sReq w x).map (.xred (fSd w) (fSa w))

/-- Class X, slots 0x70 to 0x77 (R280). -/
def parseX (w : Word) (x : Option Word) : Except DecodeError Instr :=
  let op := opOf w
  match op.toNat with
  | 0x70 => (xExt op (fE w) x).map (.mma (fXd w) (fXc w) (fA8 w) (fB8 w))
  | 0x71 => (xExt op (fE w) x).map (.mmab (fXd w) (fXc w) (fA8 w) (fB8 w))
  | 0x72 => (xExt op (fE w) x).map (.mmag (fXd w) (fXc w) (fA8 w) (fB8 w))
  | 0x73 => (xExt op (fE w) x).map (.smma (fXd w) (fXc w) (fA8 w) (fB8 w))
  | 0x74 => if fXc w == 0 then (xOpt op (fE w) x).map (.tld (fXd w) (fA8 w) (fB8 w)) else .error (.field op)
  | 0x75 => if fXc w == 0 then (xOpt op (fE w) x).map (.tst (fXd w) (fA8 w) (fB8 w)) else .error (.field op)
  | 0x76 =>
    match (fB8 w).toNat with
    | 0 => if fE w then .error (.extension op) else zeroed op (fXc w == 0 && fA8 w == 0) (.tzero (fXd w))
    | 1 => if fE w then .error (.extension op) else zeroed op (fA8 w == 0) (.tmov (fXd w) (fXc w))
    | 2 => if fE w then .error (.extension op) else zeroed op (fXc w == 0 && fA8 w == 0) (.twait (fXd w))
    | 3 => if fE w then .error (.extension op) else zeroed op (fXd w == 0 && fXc w == 0) (.tstat (fA8 w))
    | 4 => if fA8 w == 0 then (xExt op (fE w) x).map (.tcvt (fXd w) (fXc w)) else .error (.field op)
    | 5 => if fE w then .error (.extension op) else zeroed op (fXd w == 0) (.msearch (fXc w) (fA8 w))
    | _ => .error (.subFunction op)
  | _ =>
    if fE w then .error (.extension op)
    else match (fXd w).toNat with
      | 0 => zeroed op (fXc w == 0) (.resv (fA8 w) (fB8 w))
      | 1 => zeroed op (fXc w == 0 && fB8 w == 0) (.rels (fA8 w))
      | 2 => zeroed op (fXc w == 0) (.rqry (fA8 w) (fB8 w))
      | 3 => zeroed op (fXc w == 0 && fB8 w == 0) (.gang (fA8 w))
      | _ => .error (.subFunction op)

/-- Class Y, slots 0x78 to 0x7F (R280, R373). -/
def parseY (w : Word) : Except DecodeError Instr :=
  let op := opOf w
  let f := (fSrc w).toNat
  let v := (fYa w).setWidth 7
  let vok := (fYa w).extractLsb' 7 2 == 0
  match op.toNat with
  | 0x78 =>
    match f with
    | 0 => .ok (.launch (fYa w) (fYi w))
    | 1 => .ok (.lwait (fYa w) (fYi w))
    | 2 => .ok (.lstat (fYa w) (fYi w))
    | _ => .error (.subFunction op)
  | 0x79 =>
    match f with
    | 0 => zeroed op (fYi w == 0) (.seamPos (fYa w))
    | 1 => zeroed op (fYa w == 0 && fYi w == 0) .seamDone
    | 2 => .ok (.seamQry (fYa w) (fYi w))
    | _ => .error (.subFunction op)
  | 0x7A =>
    match f with
    | 0 => zeroed op (vok && (fYi w).extractLsb' 5 3 == 0)
        (.islLink v ((fYi w).extractLsb' 4 1) ((fYi w).extractLsb' 0 4))
    | 1 => zeroed op (vok && (fYi w).extractLsb' 4 4 == 0) (.islUnlink v ((fYi w).extractLsb' 0 4))
    | 2 => zeroed op (fYi w == 0) (.islStep (fYa w))
    | 3 => .ok (.islInfo (fYa w) ((fYi w).extractLsb' 4 4) ((fYi w).extractLsb' 0 4))
    | 4 => zeroed op (fYa w == 0 && fYi w == 0) .islStill
    | 5 => zeroed op (vok && (fYi w).extractLsb' 4 4 == 0) (.islWake v ((fYi w).extractLsb' 0 4))
    | _ => .error (.subFunction op)
  | 0x7B =>
    match f with
    | 0 => zeroed op (!(fYa w).getLsbD 8 && fYi w == 0) (.stampMix ((fYa w).setWidth 8))
    | 1 => zeroed op (vok && fYi w == 0) (.stampGet v)
    | _ => .error (.subFunction op)
  | 0x7C =>
    match f with
    | 0 => .ok (.evtpost (fYa w) (fYi w))
    | _ => .error (.subFunction op)
  | 0x7D =>
    match f with
    | 0 => .ok (.skvGet (fYa w) (fYi w))
    | 1 => .ok (.pctr (fYa w) ((fYi w).extractLsb' 7 1) ((fYi w).setWidth 7))
    | 2 => zeroed op (fYi w == 0) (.feat (fYa w))
    | _ => .error (.subFunction op)
  | 0x7E => zeroed op (w.extractLsb' 0 25 == 0) .halt
  | _ => .error (.unassigned op)

/-- The instruction of a base word and the word after it, by its class. -/
def parse (w : Word) (x : Option Word) : Except DecodeError Instr :=
  match classOf (opOf w) with
  | .S => parseS w x
  | .V => parseV w x
  | .M => parseM w x
  | .A => parseM w x
  | .X => parseX w x
  | .Y => parseY w

/-- Decode a base word, x the word after it if there is one: the checks of order 2 of R284. -/
def decodeWords (w : Word) (x : Option Word) : Except DecodeError Instr :=
  match parse w x with
  | .error r => .error r
  | .ok i =>
    match i.defect with
    | none => .ok i
    | some d => .error (.defect d)

/-- Decode the front of a list of bytes: the instruction and its length in words, or a named error. Words are
little-endian. -/
def decode (bs : List Byte) : Except DecodeError (Instr × Nat) :=
  if bs.length < 4 then .error .truncated
  else
    let w := Machine.leWord (bs.take 4)
    if needsExt w then
      if bs.length < 8 then .error .truncated
      else (decodeWords w (some (Machine.leWord ((bs.drop 4).take 4)))).map (fun i => (i, 2))
    else (decodeWords w none).map (fun i => (i, 1))

/-- The host's reading of a table word: bits 31..0 are the base word, bits 63..32 the word after it. -/
def decodeTableWord (nbits w : Nat) : Option Instr :=
  match decode (Machine.leBytes 8 (w % 2 ^ nbits)) with
  | .ok (i, _) => some i
  | .error _ => none

/-! ### The encoder, from the same tables -/

def packV (op : BitVec 7) (nw : Bool) (d : BitVec 7) (a b : BitVec 8) (e : Bool) : Word :=
  op ++ BitVec.ofBool nw ++ d ++ a ++ b ++ BitVec.ofBool e
def packS (op : BitVec 7) (d a : BitVec 9) (b7 : BitVec 7) : Word := op ++ d ++ a ++ b7
def packI (op : BitVec 7) (d : BitVec 9) (imm : BitVec 16) : Word := op ++ d ++ imm
def packB (op : BitVec 7) (src : BitVec 8) (cond : BitVec 3) (off : BitVec 14) : Word := op ++ src ++ cond ++ off
def packX (op : BitVec 7) (d c : BitVec 4) (a b : BitVec 8) (e : Bool) : Word := op ++ d ++ c ++ a ++ b ++ BitVec.ofBool e
def packY (op : BitVec 7) (func : BitVec 8) (sa : BitVec 9) (imm : BitVec 8) : Word := op ++ func ++ sa ++ imm

def VExt.toWord (e : VExt) : Word := e.sc ++ e.ty.code ++ e.rnd ++ BitVec.ofBool e.sat ++ e.imm
def SExt.toWord (e : SExt) : Word := 0#4 ++ e.sc ++ e.atype ++ e.func ++ e.cond ++ e.sb
def MExt.toWord (e : MExt) : Word := BitVec.ofBool e.sx ++ e.sz ++ e.hint ++ e.scope ++ e.off
def AExt.toWord (e : AExt) : Word := e.off ++ e.scope ++ e.atype ++ e.aop ++ e.vb
def XExt.toWord (e : XExt) : Word :=
  e.dims ++ 0#3 ++ e.mask ++ 0#1 ++ BitVec.ofBool e.bsb ++ BitVec.ofBool e.asb ++ BitVec.ofBool e.zi ++ 0#4 ++ e.fmt

def encVOpt (op : BitVec 7) (nw : Bool) (d : BitVec 7) (a b : BitVec 8) : Option VExt → List Word
  | none => [packV op nw d a b false]
  | some e => [packV op nw d a b true, e.toWord]
def encV (op : BitVec 7) (nw : Bool) (d : BitVec 7) (a b : BitVec 8) (e : VExt) : List Word :=
  [packV op nw d a b true, e.toWord]
def encS (op : BitVec 7) (d a : BitVec 9) : STail → List Word
  | .short b => [packS op d a b]
  | .ext e => [packS op d a 0x7F#7, e.toWord]
def encM (op : BitVec 7) (d : BitVec 7) (p i : BitVec 8) : Option MExt → List Word
  | none => [packV op false d p i false]
  | some e => [packV op false d p i true, e.toWord]
def encA (op : BitVec 7) (nw : Bool) (d : BitVec 7) (p i : BitVec 8) (e : AExt) : List Word :=
  [packV op nw d p i true, e.toWord]
def encX (op : BitVec 7) (d c : BitVec 4) (a b : BitVec 8) (e : XExt) : List Word := [packX op d c a b true, e.toWord]
def encXOpt (op : BitVec 7) (d c : BitVec 4) (a b : BitVec 8) : Option XExt → List Word
  | none => [packX op d c a b false]
  | some e => [packX op d c a b true, e.toWord]

/-- The words of an instruction; the operations and events have none. -/
def encode : Instr → List Word
  | .nop => [packY 0x00 0 0 0]
  | .exit => [packY 0x00 1 0 0]
  | .yield => [packY 0x00 2 0 0]
  | .tret => [packY 0x00 3 0 0]
  | .trap n => [packY 0x00 4 0 n]
  | .joinEnrol n => [packY 0x01 0 0 n]
  | .joinPark n => [packY 0x01 1 0 n]
  | .joinStrike n => [packY 0x01 2 0 n]
  | .joinTest d n => [packY 0x01 3 d n]
  | .smovi d i => [packI 0x02 d i]
  | .smovh d i => [packI 0x03 d i]
  | .saddi d i => [packI 0x04 d i]
  | .sldc d l => [packI 0x05 d 0, l]
  | .smov d a => [packS 0x06 d a 0]
  | .sclz d a => [packS 0x06 d a 1]
  | .spopc d a => [packS 0x06 d a 2]
  | .sadd d a b => encS 0x07 d a b
  | .ssub d a b => encS 0x08 d a b
  | .smul d a b => encS 0x09 d a b
  | .sand d a b => encS 0x0B d a b
  | .sor d a b => encS 0x0C d a b
  | .sxor d a b => encS 0x0D d a b
  | .sandn d a b => encS 0x0E d a b
  | .sshl d a b => encS 0x0F d a b
  | .sshr d a b => encS 0x10 d a b
  | .ssar d a b => encS 0x11 d a b
  | .smin d a b => encS 0x12 d a b
  | .smax d a b => encS 0x13 d a b
  | .sminz d a b => encS 0x14 d a b
  | .smaxz d a b => encS 0x15 d a b
  | .sadd64 d a b => encS 0x18 d a b
  | .ssub64 d a b => encS 0x19 d a b
  | .smulh d a b => encS 0x0A d a b
  | .smulhS32 d a b => encS 0x0A d a b
  | .scmp d a e => [packS 0x16 d a 0x7F#7, e.toWord]
  | .ssel d a e => [packS 0x17 d a 0x7F#7, e.toWord]
  | .bra o => [packB 0x1A 0 0 o]
  | .braLong l => [packB 0x1A 0 0 0x2000#14, l]
  | .bru s c o => [packB 0x1A s c o]
  | .bruLong s c l => [packB 0x1A s c 0x2000#14, l]
  | .brt s c o => [packB 0x1C s c o]
  | .brtLong s c l => [packB 0x1C s c 0x2000#14, l]
  | .sget f d => [packY 0x1B f d 0]
  | .sset f s => [packY 0x1B f s 1]
  | .modeset s => [packY 0x1D 0 0 s]
  | .modeget d => [packY 0x1D 1 0 (0#1 ++ d)]
  | .modegetFlags d => [packY 0x1D 1 0 (1#1 ++ d)]
  | .clk d => [packY 0x1D 2 d 0]
  | .call o => [packB 0x1E 0 0 o]
  | .callLong l => [packB 0x1E 0 0 0x2000#14, l]
  | .brx s => [packB 0x1F s 0 0]
  | .callx s => [packB 0x1F s 1 0]
  | .ret => [packB 0x1F 0 2 0]
  | .vadd nw d a b e => encVOpt 0x20 nw d a b e
  | .vsub nw d a b e => encVOpt 0x21 nw d a b e
  | .vmulh nw d a b e => encVOpt 0x23 nw d a b e
  | .vmul nw d a b e => encVOpt 0x22 nw d a b e
  | .vand nw d a b e => encVOpt 0x25 nw d a b e
  | .vor nw d a b e => encVOpt 0x26 nw d a b e
  | .vxor nw d a b e => encVOpt 0x27 nw d a b e
  | .vshl nw d a b e => encVOpt 0x28 nw d a b e
  | .vshr nw d a b e => encVOpt 0x29 nw d a b e
  | .vsar nw d a b e => encVOpt 0x2A nw d a b e
  | .vmin nw d a b e => encVOpt 0x2B nw d a b e
  | .vmax nw d a b e => encVOpt 0x2C nw d a b e
  | .vdiv nw d a b e => encVOpt 0x32 nw d a b e
  | .vrem nw d a b e => encVOpt 0x33 nw d a b e
  | .fadd nw d a b e => encVOpt 0x34 nw d a b e
  | .fsub nw d a b e => encVOpt 0x35 nw d a b e
  | .fmul nw d a b e => encVOpt 0x36 nw d a b e
  | .fmin nw d a b e => encVOpt 0x38 nw d a b e
  | .fmax nw d a b e => encVOpt 0x39 nw d a b e
  | .fscale nw d a b e => encVOpt 0x3C nw d a b e
  | .vshfl nw d a b e => encVOpt 0x41 nw d a b e
  | .vshfx nw d a b e => encVOpt 0x42 nw d a b e
  | .vshfup nw d a b e => encVOpt 0x43 nw d a b e
  | .vshfdn nw d a b e => encVOpt 0x44 nw d a b e
  | .vbcst nw d a b e => encVOpt 0x45 nw d a b e
  | .vred nw d a b e => encVOpt 0x46 nw d a b e
  | .vscan nw d a b e => encVOpt 0x47 nw d a b e
  | .rebal nw d a b e => encVOpt 0x4B nw d a b e
  | .vaddsat nw d a b e => encV 0x20 nw d a b e
  | .vsubsat nw d a b e => encV 0x21 nw d a b e
  | .vmad nw d a b e => encV 0x24 nw d a b e
  | .vcmp nw d a b e => encV 0x2E nw d a b e
  | .vsel nw d a b e => encV 0x2F nw d a b e
  | .vbfe nw d a b e => encV 0x30 nw d a b e
  | .vbfi nw d a b e => encV 0x31 nw d a b e
  | .ffma nw d a b e => encV 0x37 nw d a b e
  | .fcmp nw d a b e => encV 0x3B nw d a b e
  | .fexp2s nw d a b e => encV 0x3D nw d a b e
  | .vpack nw d a b e => encV 0x3F nw d a b e
  | .vunpk nw d a b e => encV 0x40 nw d a b e
  | .vtopk nw d a b e => encV 0x4C nw d a b e
  | .vnot nw d a e => encVOpt 0x2D nw d a 0 e
  | .vabs nw d a e => encVOpt 0x2D nw d a 1 e
  | .vneg nw d a e => encVOpt 0x2D nw d a 2 e
  | .vclz nw d a e => encVOpt 0x2D nw d a 3 e
  | .vpopc nw d a e => encVOpt 0x2D nw d a 4 e
  | .vbrev nw d a e => encVOpt 0x2D nw d a 5 e
  | .fabs nw d a e => encVOpt 0x3A nw d a 0 e
  | .fneg nw d a e => encVOpt 0x3A nw d a 1 e
  | .fclass nw d a e => encVOpt 0x3A nw d a 2 e
  | .frnd nw d a e => encVOpt 0x3A nw d a 3 e
  | .frcp nw d a e => encVOpt 0x3A nw d a 4 e
  | .frsq nw d a e => encVOpt 0x3A nw d a 5 e
  | .fsqrt nw d a e => encVOpt 0x3A nw d a 6 e
  | .flog2 nw d a e => encVOpt 0x3A nw d a 7 e
  | .fsin nw d a e => encVOpt 0x3A nw d a 8 e
  | .fcos nw d a e => encVOpt 0x3A nw d a 9 e
  | .cvt nw d a st e => encV 0x3E nw d a (0#4 ++ st.code) e
  | .vballot nw d a => [packV 0x48 nw d a 0 false]
  | .vvote nw d a m => [packV 0x49 nw d a m false]
  | .rand nw d a e => encVOpt 0x4A nw d a 0 e
  | .ld32 d p i e => encM 0x50 d p i e
  | .ld64 d p i e => encM 0x51 d p i e
  | .st32 d p i e => encM 0x52 d p i e
  | .st64 d p i e => encM 0x53 d p i e
  | .ldf32 d p i e => encM 0x54 d p i e
  | .ldf64 d p i e => encM 0x55 d p i e
  | .stf32 d p i e => encM 0x56 d p i e
  | .stf64 d p i e => encM 0x57 d p i e
  | .gath d p i e => encM 0x6C d p i e
  | .scat d p i e => encM 0x6D d p i e
  | .ldu d a b => encS 0x58 d a b
  | .atom nw d p i e => encA 0x59 nw d p i e
  | .red p i e => encA 0x5A false 0 p i e
  | .atomCas nw d p i e => encA 0x5B nw d p i e
  | .atomCas64 nw d p i e => encA 0x5C nw d p i e
  | .fence r g s k => [0x5D#7 ++ BitVec.ofBool r ++ g ++ s ++ k ++ 0#17]
  | .waitc c n => [0x5E#7 ++ 0#6 ++ c ++ 0#9 ++ n]
  | .drain => [packY 0x5F 0 0 0]
  | .push a b => encS 0x60 0 a b
  | .pusht d a b => encS 0x61 d a b
  | .pop d a => [packS 0x62 d a 0]
  | .popt d a => [packS 0x63 d a 0]
  | .reinOpen a b => encS 0x64 0 a b
  | .reinClose a => [packS 0x65 0 a 0]
  | .pref p i e => encM 0x66 0 p i e
  | .sweep d p i s => [packV 0x67 false d p i true, 0#23 ++ s]
  | .cpy d a b => encS 0x68 d a b
  | .cpySb d a b => encS 0x69 d a b
  | .cpy2d d a b => encS 0x6A d a b
  | .cpy2dSb d a b => encS 0x6B d a b
  | .xcpy d a b => encS 0x6E d a b
  | .xred d a e => [packS 0x6F d a 0x7F#7, e.toWord]
  | .mma d c a b e => encX 0x70 d c a b e
  | .mmab d c a b e => encX 0x71 d c a b e
  | .mmag d c a b e => encX 0x72 d c a b e
  | .smma d c a b e => encX 0x73 d c a b e
  | .tld d p b e => encXOpt 0x74 d 0 p b e
  | .tst d p b e => encXOpt 0x75 d 0 p b e
  | .tzero d => [packX 0x76 d 0 0 0 false]
  | .tmov d c => [packX 0x76 d c 0 1 false]
  | .twait d => [packX 0x76 d 0 0 2 false]
  | .tstat a => [packX 0x76 0 0 a 3 false]
  | .tcvt d c e => encX 0x76 d c 0 4 e
  | .msearch c m => [packX 0x76 0 c m 5 false]
  | .resv p q => [packX 0x77 0 0 p q false]
  | .rels p => [packX 0x77 1 0 p 0 false]
  | .rqry p q => [packX 0x77 2 0 p q false]
  | .gang p => [packX 0x77 3 0 p 0 false]
  | .launch d p => [packY 0x78 0 d p]
  | .lwait d p => [packY 0x78 1 d p]
  | .lstat d p => [packY 0x78 2 d p]
  | .seamPos d => [packY 0x79 0 d 0]
  | .seamDone => [packY 0x79 1 0 0]
  | .seamQry d s => [packY 0x79 2 d s]
  | .islLink v k n => [packY 0x7A 0 (0#2 ++ v) (0#3 ++ k ++ n)]
  | .islUnlink v n => [packY 0x7A 1 (0#2 ++ v) (0#4 ++ n)]
  | .islStep d => [packY 0x7A 2 d 0]
  | .islInfo d e n => [packY 0x7A 3 d (e ++ n)]
  | .islStill => [packY 0x7A 4 0 0]
  | .islWake v n => [packY 0x7A 5 (0#2 ++ v) (0#4 ++ n)]
  | .stampMix s => [packY 0x7B 0 (0#1 ++ s) 0]
  | .stampGet v => [packY 0x7B 1 (0#2 ++ v) 0]
  | .evtpost p c => [packY 0x7C 0 p c]
  | .skvGet d s => [packY 0x7D 0 d s]
  | .pctr d t n => [packY 0x7D 1 d (t ++ n)]
  | .feat d => [packY 0x7D 2 d 0]
  | .halt => [packY 0x7E 0 0 0]
  | _ => []

/-- The register of an S word's third operand (R270). -/
def STail.reg : STail → Nat
  | .short b => b.toNat
  | .ext e => e.sb.toNat

/-- The length of an instruction in words (R270). -/
def Instr.len (i : Instr) : Nat := (encode i).length

/-- Whether the constructor is an instruction word (and no operation or event of the part). -/
def Instr.isWord (i : Instr) : Bool := i.len != 0

end Sys2Proof
end

