-- ==== Sys2Proof/Machine/Operands.lean ====
section
/-! DEFINITION. Operands: the 8-bit source codes and their values at every width (R274, R275), the identity values, and for
every instruction word what the checks of R284 and the readiness rules R169 and R267 need to know of it: class, feature, operand
codes, registers read and written, tiles, and the value limits that spec 14 and the instruction chapters put on its fields. -/

namespace Sys2Proof.Machine

/-- A run of registers an instruction names. -/
structure RegSet where
  uniform : Bool
  first : Nat
  count : Nat
  /-- The first must be even (a pair, R273). -/
  even : Bool
  deriving DecidableEq, Repr

/-- An operand code and the width at which it is read. -/
structure Operand where
  code : BitVec 8
  width : Nat
  deriving DecidableEq, Repr

/-- What an instruction word asks of the checks before its own (R284). -/
structure Use where
  cls : WClass
  closing : Bool := false
  nr : Bool := false
  /-- FEAT bits the word needs (R393). -/
  features : List Nat := []
  /-- Operand codes read in every executing thread. -/
  codes : List Operand := []
  /-- Operand codes read in one thread only (R329, R334): checked, not read, by the common checks. -/
  oneCodes : List Operand := []
  /-- Registers read in full, registers written, registers only checked. -/
  reads : List RegSet := []
  writes : List RegSet := []
  named : List RegSet := []
  /-- Registers that count for pending write-backs only (matrix operands). -/
  pending : List RegSet := []
  tiles : List Nat := []
  /-- Tiles whose F bit the word waits for (R354). -/
  tileWait : List Nat := []
  imm : Option (BitVec 16) := none
  /-- A field breaks a value limit: ILLEGAL_OPERAND. -/
  bad : Bool := false
  /-- The word uses s registers, tiles, masks or g: no cross-group bundle (R171). -/
  groupState : Bool := false
  /-- Forbidden in trap state (R401). -/
  noTrapState : Bool := false
  deriving DecidableEq, Repr

def sreg (n : Nat) : RegSet := ⟨true, n, 1, false⟩
def spair (n : Nat) : RegSet := ⟨true, n, 2, true⟩
def vreg (n : Nat) : RegSet := ⟨false, n, 1, false⟩
def vpair (n : Nat) : RegSet := ⟨false, n, 2, true⟩
def vwide (wide : Bool) (n : Nat) : RegSet := if wide then vpair n else vreg n
/-- Pair p of an 8-bit pair index: s(2p), s(2p+1) (R273). -/
def spairIx (p : BitVec 8) : RegSet := spair (2 * p.toNat)

/-- Type of a vector word: its extension's, or the default (R272). -/
def tyOf (dflt : ElemTy) (e : Option VExt) : ElemTy :=
  match e with
  | none => dflt
  | some x => x.ty

def immOf (e : Option VExt) : Option (BitVec 16) := e.map (·.imm)

/-- f64 words need FP64 (R393). -/
def fp64 (t : ElemTy) : List Nat := if t == .f64 then [3] else []

/-- A vector word: sources of one width, further codes, and the destination. -/
def vUse (nw : Bool) (d : Nat) (wideD : Bool) (codes one : List Operand) (imm : Option (BitVec 16)) (feat : List Nat) : Use :=
  { cls := .V, codes := codes, oneCodes := one, imm := imm, features := feat,
    writes := if nw then [] else [vwide wideD d], named := [vwide wideD d] }

/-- Two sources at the type's width. -/
def v2 (dflt : ElemTy) (nw : Bool) (d : BitVec 7) (a b : BitVec 8) (e : Option VExt) : Use :=
  let t := tyOf dflt e
  vUse nw d.toNat (t.width == 64) [⟨a, t.width⟩, ⟨b, t.width⟩] [] (immOf e) (fp64 t)

/-- A second source that is a 32-bit operand (shift counts, lanes, scale exponents). -/
def v2s (dflt : ElemTy) (nw : Bool) (d : BitVec 7) (a b : BitVec 8) (e : Option VExt) : Use :=
  let t := tyOf dflt e
  vUse nw d.toNat (t.width == 64) [⟨a, t.width⟩, ⟨b, 32⟩] [] (immOf e) (fp64 t)

/-- One source; the result as wide as the type, or one 32-bit register. -/
def v1 (dflt : ElemTy) (nw : Bool) (d : BitVec 7) (a : BitVec 8) (e : Option VExt) (narrow : Bool) : Use :=
  let t := tyOf dflt e
  vUse nw d.toNat (t.width == 64 && !narrow) [⟨a, t.width⟩] [] (immOf e) (fp64 t)

/-- Three sources at the type's width. -/
def v3 (nw : Bool) (d : BitVec 7) (a b : BitVec 8) (e : VExt) : Use :=
  vUse nw d.toNat (e.ty.width == 64) [⟨a, e.ty.width⟩, ⟨b, e.ty.width⟩, ⟨e.sc, e.ty.width⟩] [] (some e.imm) (fp64 e.ty)

/-- A word of class S over uniform registers. -/
def sUse (reads writes : List RegSet) : Use := { cls := .S, reads := reads, writes := writes, groupState := true }

/-- An access of format M: base pair, index code, data register. -/
def mUse (cls : WClass) (p i : BitVec 8) (reads writes : List RegSet) (scopeBad : Bool) : Use :=
  { cls := cls, codes := [⟨i, 32⟩], reads := spairIx p :: reads, writes := writes, bad := scopeBad, groupState := true }

/-- Access size in bytes of a format-M word (R335). -/
def mSize (wide : Bool) (e : Option MExt) : Nat :=
  if wide then 8
  else match e with
    | none => 4
    | some x => match x.sz.toNat with
      | 0 => 4
      | 1 => 1
      | 2 => 2
      | _ => 8

def mScope (e : Option MExt) : Nat :=
  match e with
  | none => 0
  | some x => x.scope.toNat

def mOff (e : Option MExt) : Int :=
  match e with
  | none => 0
  | some x => x.off.toInt

def mSx (e : Option MExt) : Bool :=
  match e with
  | none => false
  | some x => x.sx

def ldUse (cls : WClass) (wide : Bool) (d : BitVec 7) (p i : BitVec 8) (e : Option MExt) : Use :=
  mUse cls p i [] [vwide (mSize wide e == 8) d.toNat] (decide (6 ≤ mScope e))

def stUse (cls : WClass) (wide : Bool) (d : BitVec 7) (p i : BitVec 8) (e : Option MExt) : Use :=
  mUse cls p i [vwide (mSize wide e == 8) d.toNat] [] (decide (6 ≤ mScope e))

/-- The codes BRU may name (R276, R303). -/
def bruCode (c : BitVec 8) : Bool := decide ((0x80 ≤ c.toNat ∧ c.toNat ≤ 0xBF) ∨ (0xD0 ≤ c.toNat ∧ c.toNat ≤ 0xDD))

/-- The codes BRX and CALLX may name (R304): an even vector or uniform register. -/
def brxCode (c : BitVec 8) : Bool := decide (c.toNat % 2 = 0 ∧ c.toNat ≤ 0xBE)

def bruUse (src : BitVec 8) (cond : BitVec 3) : Use :=
  { cls := .S, closing := true, codes := if cond == 0 then [] else [⟨src, 32⟩], groupState := true,
    bad := cond == 0 || !bruCode src }

def brtUse (src : BitVec 8) : Use := { cls := .S, closing := true, codes := [⟨src, 32⟩], groupState := true }

/-- Words per row of a matrix operand (R356): K·e/4. -/
def mmaRw (fmt : BitVec 4) : Nat := if fmt == 0 then 16 else if fmt == 1 then 32 else 8

/-- Vector registers of a matrix operand (R356). -/
def mmaRegs (fmt : BitVec 4) (w : Nat) : Nat := 32 * mmaRw fmt / w

/-- Mask registers of SMMA (R369): chunks of 32 columns, n registers each. -/
def maskRegs (fmt : BitVec 4) (w : Nat) : Nat :=
  (if fmt == 0 then 2 else if fmt == 1 then 4 else 1) * (if w ≤ 32 then 32 / w else 1)

/-- Registers per 32 rows of a mask (R368). -/
def maskN (w : Nat) : Nat := if w ≤ 32 then 32 / w else 1

/-- A matrix operand: a vector code, or a Saddlebag pair (R356, R357). -/
def mmaOperand (sb : Bool) (x : BitVec 8) (fmt : BitVec 4) (w : Nat) : List RegSet :=
  if sb then [spairIx x] else [⟨false, x.toNat, mmaRegs fmt w, false⟩]

/-- The registers a matrix word names for A, B and SMMA's mask (R356, R357, R369). -/
def mmaSets (a b : BitVec 8) (e : XExt) (sparse : Bool) (w : Nat) : List RegSet :=
  mmaOperand e.asb a e.fmt w ++ mmaOperand e.bsb b e.fmt w ++ if sparse then [⟨false, e.mask.toNat, maskRegs e.fmt w, false⟩] else []

/-- MMA-family words (R354, R362, R366, R369). A word whose shape register may hold a zero extent is checked for its operand
registers once the extents are known (R364). -/
def mmaUse (d c : BitVec 4) (a b : BitVec 8) (e : XExt) (sparse : Bool) (w : Nat) : Use :=
  let feat := (if e.fmt.toNat ≤ 1 then [0] else if e.fmt.toNat ≤ 3 then [1] else []) ++ (if sparse then [2] else [])
  { cls := .X, features := feat,
    reads := if e.dims == 0 then [] else [sreg e.dims.toNat],
    pending := mmaSets a b e sparse w, named := if e.dims == 0 then mmaSets a b e sparse w else [],
    tiles := if e.zi then [d.toNat] else [d.toNat, c.toNat], tileWait := if e.zi then [d.toNat] else [d.toNat, c.toNat],
    bad := decide (4 ≤ e.fmt.toNat), groupState := true }

/-- A REMOTE that R88 does not allow: kind REL, or an agent scope other than .dev and .sys. -/
def fenceRemoteBad (scope : BitVec 3) (kind : BitVec 2) : Bool := kind == 1#2 || !(scope == 4#3 || scope == 5#3)

/-- What the checks of R284 need to know of an instruction, in groups of w lanes. -/
def useOf (w : Nat) : Instr → Use
  | .nop => { cls := .S }
  | .exit => { cls := .S, closing := true }
  | .yield => { cls := .S, closing := true }
  | .tret => { cls := .S, closing := true }
  | .trap _ => { cls := .S, closing := true }
  | .joinEnrol n => { cls := .S, bad := decide (8 ≤ n.toNat), groupState := true }
  | .joinPark n => { cls := .S, closing := true, bad := decide (8 ≤ n.toNat), groupState := true, noTrapState := true }
  | .joinStrike n => { cls := .S, bad := decide (8 ≤ n.toNat), groupState := true }
  | .joinTest d n => { sUse [] [spair d.toNat] with bad := decide (8 ≤ n.toNat) }
  | .smovi d _ => sUse [] [sreg d.toNat]
  | .smovh d _ => sUse [sreg d.toNat] [sreg d.toNat]
  | .saddi d _ => sUse [sreg d.toNat] [sreg d.toNat]
  | .sldc d _ => sUse [] [sreg d.toNat]
  | .smov d a | .sclz d a | .spopc d a => sUse [sreg a.toNat] [sreg d.toNat]
  | .sadd d a b | .ssub d a b | .smul d a b | .smulh d a b | .smulhS32 d a b | .sand d a b | .sor d a b | .sxor d a b
  | .sandn d a b | .sshl d a b | .sshr d a b | .ssar d a b | .smin d a b | .smax d a b | .sminz d a b | .smaxz d a b =>
    sUse [sreg a.toNat, sreg b.reg] [sreg d.toNat]
  | .scmp d a e => sUse [sreg a.toNat, sreg e.sb.toNat] [sreg d.toNat]
  | .ssel d a e => sUse [sreg a.toNat, sreg e.sb.toNat, sreg e.sc.toNat] [sreg d.toNat]
  | .sadd64 d a b | .ssub64 d a b => sUse [spair a.toNat, spair b.reg] [spair d.toNat]
  | .bra _ | .braLong _ => { cls := .S, closing := true }
  | .bru src cond _ | .bruLong src cond _ => bruUse src cond
  | .sget f d => { sUse [] [sreg d.toNat] with nr := f == rtickNumber, bad := decide (26 ≤ f.toNat) }
  | .sset f a => { sUse [sreg a.toNat] [] with bad := decide (f.toNat ≠ 18) }
  | .brt src _ _ | .brtLong src _ _ => brtUse src
  | .modeset src => { cls := .S, closing := true, codes := [⟨src, 32⟩], groupState := true }
  | .modeget d | .modegetFlags d => { cls := .S, writes := [vreg d.toNat], groupState := true }
  | .clk d => sUse [] [spair d.toNat]
  | .call _ | .callLong _ => { cls := .S, closing := true }
  | .brx src | .callx src =>
    { cls := .S, closing := true, codes := if brxCode src then [⟨src, 64⟩] else [], bad := !brxCode src, groupState := true }
  | .ret => { cls := .S, closing := true }
  | .vadd nw d a b e | .vsub nw d a b e | .vmul nw d a b e | .vmulh nw d a b e | .vand nw d a b e | .vor nw d a b e
  | .vxor nw d a b e | .vmin nw d a b e | .vmax nw d a b e | .vdiv nw d a b e | .vrem nw d a b e => v2 .z32 nw d a b e
  | .vaddsat nw d a b e | .vsubsat nw d a b e => v2 .z32 nw d a b (some e)
  | .vshl nw d a b e | .vshr nw d a b e | .vsar nw d a b e => v2s .z32 nw d a b e
  | .vmad nw d a b e => v3 nw d a b e
  | .vnot nw d a e | .vabs nw d a e | .vneg nw d a e | .vbrev nw d a e => v1 .z32 nw d a e false
  | .vclz nw d a e | .vpopc nw d a e => v1 .z32 nw d a e true
  | .vcmp nw d a b e => vUse nw d.toNat false [⟨a, e.ty.width⟩, ⟨b, e.ty.width⟩] [] (some e.imm) []
  | .vsel nw d a b e =>
    vUse nw d.toNat (e.ty.width == 64) [⟨a, e.ty.width⟩, ⟨b, e.ty.width⟩, ⟨e.sc, 32⟩] [] (some e.imm) []
  | .vbfe nw d a b e | .vbfi nw d a b e => vUse nw d.toNat false [⟨a, 32⟩, ⟨b, 32⟩, ⟨e.sc, 32⟩] [] (some e.imm) []
  | .fadd nw d a b e | .fsub nw d a b e | .fmul nw d a b e | .fmin nw d a b e | .fmax nw d a b e => v2 .f32 nw d a b e
  | .ffma nw d a b e => v3 nw d a b e
  | .fabs nw d a e | .fneg nw d a e | .frnd nw d a e | .frcp nw d a e | .frsq nw d a e | .fsqrt nw d a e
  | .flog2 nw d a e | .fsin nw d a e | .fcos nw d a e => v1 .f32 nw d a e false
  | .fclass nw d a e => v1 .f32 nw d a e true
  | .fcmp nw d a b e => vUse nw d.toNat false [⟨a, e.ty.width⟩, ⟨b, e.ty.width⟩] [] (some e.imm) (fp64 e.ty)
  | .fscale nw d a b e => v2s .f32 nw d a b e
  | .fexp2s nw d a b e => v3 nw d a b e
  | .cvt nw d a st e => vUse nw d.toNat (e.ty.width == 64) [⟨a, st.width⟩] [] (some e.imm) (fp64 st ++ fp64 e.ty)
  | .vpack nw d a b e =>
    let byteForm := e.ty == .z8 || e.ty == .t8 || e.ty == .t6
    vUse nw d.toNat false ([⟨a, 32⟩, ⟨b, 32⟩] ++ if byteForm then [⟨e.sc, 32⟩] else []) [] (some e.imm) []
  | .vunpk nw d a b e => vUse nw d.toNat false [⟨a, 32⟩, ⟨b, 32⟩] [] (some e.imm) []
  | .vshfl nw d a b e | .vshfx nw d a b e | .vshfup nw d a b e | .vshfdn nw d a b e => v2s .z32 nw d a b e
  | .vbcst nw d a b e =>
    let t := tyOf .z32 e
    vUse nw d.toNat (t.width == 64) [⟨a, t.width⟩] [⟨b, 32⟩] (immOf e) []
  | .vred nw d a _ e | .vscan nw d a _ e =>
    let t := tyOf .z32 e
    vUse nw d.toNat (t.width == 64) [⟨a, t.width⟩] [] (immOf e) (fp64 t)
  | .vballot nw d a => vUse nw d.toNat true [⟨a, 32⟩] [] none []
  | .vvote nw d a _ => vUse nw d.toNat false [⟨a, 32⟩] [] none []
  | .rand nw d a e =>
    { vUse nw d.toNat ((tyOf .z32 e).width == 64) [⟨a, 32⟩] [] (immOf e) [] with
      nr := true, bad := !decide ((0x80 ≤ a.toNat ∧ a.toNat ≤ 0xBF) ∨ (0xD0 ≤ a.toNat ∧ a.toNat ≤ 0xDF)) }
  | .rebal nw d a b e => vUse nw d.toNat true [⟨a, 32⟩, ⟨b, 32⟩] [] (immOf e) []
  | .vtopk nw d a b e => vUse nw d.toNat true [⟨a, 32⟩, ⟨b, 32⟩] [⟨e.sc, 32⟩] (some e.imm) []
  | .ld32 d p i e | .ldf32 d p i e => ldUse .M false d p i e
  | .ld64 d p i e | .ldf64 d p i e => ldUse .M true d p i e
  | .st32 d p i e | .stf32 d p i e => stUse .M false d p i e
  | .st64 d p i e | .stf64 d p i e => stUse .M true d p i e
  | .ldu d a b =>
    { cls := .M, reads := [spair a.toNat, sreg b.reg], groupState := true,
      writes := [match b with
        | .ext e => if e.atype == 1 then spair d.toNat else sreg d.toNat
        | .short _ => sreg d.toNat],
      bad := match b with
        | .ext e => decide (6 ≤ e.func.toNat)
        | .short _ => false }
  | .atom nw d p i e =>
    let wide := e.atype == 2 || e.atype == 3
    { mUse .M p i [vwide wide e.vb.toNat] (if nw then [] else [vwide wide d.toNat]) (decide (6 ≤ e.scope.toNat)) with
      named := [vwide wide d.toNat] }
  | .red p i e =>
    mUse .M p i [vwide (e.atype == 2 || e.atype == 3) e.vb.toNat] [] (decide (6 ≤ e.scope.toNat))
  | .atomCas nw d p i e =>
    { mUse .M p i [⟨false, e.vb.toNat, 2, false⟩] (if nw then [] else [vreg d.toNat]) (decide (6 ≤ e.scope.toNat)) with
      named := [vreg d.toNat] }
  | .atomCas64 nw d p i e =>
    { mUse .M p i [⟨false, e.vb.toNat, 4, true⟩] (if nw then [] else [vpair d.toNat])
        (decide (6 ≤ e.scope.toNat ∨ e.vb.toNat % 4 ≠ 0)) with named := [vpair d.toNat] }
  | .fence remote _ scope kind =>
    { cls := .M, bad := decide (6 ≤ scope.toNat) || (remote && fenceRemoteBad scope kind) }
  | .waitc _ n => { cls := .M, bad := decide (64 ≤ n.toNat) }
  | .drain => { cls := .M }
  | .push a b => { cls := .M, reads := [sreg a.toNat, sreg b.reg], groupState := true, noTrapState := true }
  | .pusht d a b => { cls := .M, reads := [sreg a.toNat, sreg b.reg], writes := [sreg d.toNat], groupState := true }
  | .pop d a =>
    { cls := .M, nr := true, reads := [sreg a.toNat], writes := [sreg d.toNat], groupState := true, noTrapState := true }
  | .popt d a => { cls := .M, nr := true, reads := [sreg a.toNat], writes := [spair d.toNat], groupState := true }
  | .reinOpen a b => { cls := .M, reads := [sreg a.toNat, sreg b.reg], groupState := true }
  | .reinClose a => { cls := .M, reads := [sreg a.toNat], groupState := true }
  | .pref p i _ => mUse .M p i [] [] false
  | .sweep d p i budget =>
    { cls := .M, features := [4], groupState := true, writes := [vpair d.toNat],
      reads := [spairIx p, sreg budget.toNat,
        if i.toNat ≤ 0x77 then ⟨false, i.toNat, 9, false⟩ else ⟨true, i.toNat - 0x80, 9, false⟩],
      bad := !decide (i.toNat ≤ 0x77 ∨ (0x80 ≤ i.toNat ∧ i.toNat ≤ 0xB7)) }
  | .cpy d a b => { cls := .A, reads := [spair d.toNat, spair a.toNat, sreg b.reg], groupState := true }
  | .cpySb d a b =>
    { cls := .A, reads := [sreg d.toNat, spair a.toNat, sreg b.reg], named := [spair d.toNat], groupState := true }
  | .cpy2d d a b =>
    { cls := .A, reads := [spair d.toNat, spair a.toNat, ⟨true, b.reg, 4, false⟩], groupState := true }
  | .cpy2dSb d a b =>
    { cls := .A, reads := [sreg d.toNat, spair a.toNat, ⟨true, b.reg, 4, false⟩], named := [spair d.toNat],
      groupState := true }
  | .gath d p i e => ldUse .A false d p i e
  | .scat d p i e => stUse .A false d p i e
  | .xcpy d a b =>
    { cls := .A, features := [6], reads := [spair d.toNat, spair a.toNat, sreg b.reg], groupState := true }
  | .xred d a e =>
    { cls := .A, features := [6], reads := [spair d.toNat, spair a.toNat, sreg e.sb.toNat, sreg e.sc.toNat],
      groupState := true }
  | .mma d c a b e | .mmab d c a b e => mmaUse d c a b e false w
  | .mmag d c a b e =>
    let u := mmaUse d c a b e false w
    -- only position 0's sdims is read, as an operand of the whole rendezvous (R366)
    { u with noTrapState := true, bad := u.bad || !e.bsb, reads := [], named := u.named ++ u.reads, pending := u.pending ++ u.reads }
  | .smma d c a b e => mmaUse d c a b e true w
  | .tld d p b _ | .tst d p b _ =>
    { cls := .X, codes := [⟨b, 32⟩], reads := [spairIx p], tiles := [d.toNat], tileWait := [d.toNat], groupState := true,
      bad := !bruCode b }
  | .tzero d | .twait d => { cls := .X, tiles := [d.toNat], tileWait := [d.toNat], groupState := true }
  | .tmov d c => { cls := .X, tiles := [d.toNat, c.toNat], tileWait := [d.toNat, c.toNat], groupState := true }
  | .tstat a =>
    let ok := decide (0x80 ≤ a.toNat ∧ a.toNat ≤ 0xBE ∧ a.toNat % 2 = 0)
    { cls := .X, writes := if ok then [spair (a.toNat - 0x80)] else [], bad := !ok, groupState := true }
  | .tcvt d c _ => { cls := .X, tiles := [d.toNat, c.toNat], tileWait := [d.toNat, c.toNat], groupState := true }
  | .msearch c m =>
    { cls := .X, features := [2], tiles := [c.toNat], tileWait := [c.toNat], groupState := true,
      writes := [⟨false, m.toNat, maskN w + 2, false⟩], bad := decide (0x80 ≤ m.toNat) }
  | .resv p q =>
    { cls := .X, reads := [⟨true, 2 * q.toNat, 4, false⟩], writes := [spairIx p], groupState := true,
      bad := decide (192 ≤ p.toNat ∨ 192 ≤ q.toNat) }
  | .rels p =>
    { cls := .X, reads := [sreg (2 * p.toNat)], named := [spairIx p], groupState := true, bad := decide (192 ≤ p.toNat) }
  | .rqry p q =>
    { cls := .X, reads := [sreg (2 * q.toNat)], named := [spairIx q], writes := [spairIx p], groupState := true,
      bad := decide (192 ≤ p.toNat ∨ 192 ≤ q.toNat) }
  | .gang p => { cls := .X, reads := [spairIx p], groupState := true, bad := decide (192 ≤ p.toNat) }
  | .launch d p =>
    { cls := .Y, reads := [spairIx p], writes := [spair d.toNat], groupState := true, bad := decide (192 ≤ p.toNat) }
  | .lwait d h =>
    { cls := .Y, reads := [sreg h.toNat], writes := [spair d.toNat], groupState := true, noTrapState := true }
  | .lstat d h => { cls := .Y, reads := [sreg h.toNat], writes := [spair d.toNat], groupState := true }
  | .seamPos d => { cls := .Y, writes := [spair d.toNat], groupState := true }
  | .seamDone => { cls := .Y, groupState := true }
  | .seamQry d sel => { cls := .Y, writes := [spair d.toNat], groupState := true, bad := decide (5 ≤ sel.toNat) }
  | .islLink v _ _ | .islUnlink v _ =>
    { cls := .Y, features := [5], reads := [⟨false, v.toNat, 2, false⟩], bad := v == 127#7 }
  | .islStep d => { cls := .Y, features := [5], writes := [sreg d.toNat], groupState := true, noTrapState := true }
  | .islInfo d sel _ =>
    { cls := .Y, features := [5], writes := [spair d.toNat], groupState := true, bad := decide (4 ≤ sel.toNat) }
  | .islStill => { cls := .Y, features := [5], groupState := true }
  | .islWake v _ => { cls := .Y, features := [5], reads := [vreg v.toNat] }
  | .stampMix a => { cls := .Y, codes := [⟨a, 32⟩] }
  | .stampGet v => { cls := .Y, writes := [vpair v.toNat] }
  | .evtpost p _ => { cls := .Y, reads := [spair p.toNat], groupState := true }
  | .skvGet d sel => { cls := .Y, writes := [spair d.toNat], groupState := true, bad := decide (4 ≤ sel.toNat) }
  | .pctr d _ n => { cls := .Y, writes := [spair d.toNat], groupState := true, bad := decide (16 ≤ n.toNat) }
  | .feat d => { cls := .Y, writes := [spair d.toNat], groupState := true }
  | .halt => { cls := .Y, closing := true }
  | _ => { cls := .S }

/-! ### Values of operand codes (R274, R275) -/

/-- The 32-bit values of the constant codes 0xD0 to 0xDD. -/
def constWord (c : Nat) : Nat :=
  match c with
  | 0xD0 => 0 | 0xD1 => 1 | 0xD2 => 2 | 0xD3 => 0xFFFFFFFF | 0xD4 => 0x80000000 | 0xD5 => 0x7FFFFFFF
  | 0xD6 => 0x3F000000 | 0xD7 => 0x3F800000 | 0xD8 => 0x40000000 | 0xD9 => 0xBF800000
  | 0xDA => 0x7F800000 | 0xDB => 0xFF800000 | 0xDC => 0x7FC00000 | 0xDD => 0x3FB8AA3B
  | _ => 0

/-- The binary64 values of the float constants 0xD6 to 0xDD (R275). -/
def constDouble (c : Nat) : Nat :=
  match c with
  | 0xD6 => 0x3FE0000000000000 | 0xD7 => 0x3FF0000000000000 | 0xD8 => 0x4000000000000000 | 0xD9 => 0xBFF0000000000000
  | 0xDA => 0x7FF0000000000000 | 0xDB => 0xFFF0000000000000 | 0xDC => 0x7FF8000000000000 | 0xDD => 0x3FF71547652B82FE
  | _ => 0

/-- The identity codes 0xE0 to 0xE7 (R9, R274). -/
def identWord (c : Nat) (e : Env) : Nat :=
  match c with
  | 0xE0 => e.lane | 0xE1 => e.tid | 0xE2 => e.gid | 0xE3 => e.team | 0xE4 => e.width
  | 0xE5 => e.seam.1 | 0xE6 => e.seam.2.1 | 0xE7 => e.seam.2.2
  | _ => 0

/-- The low 32 bits sign-extended to 64. -/
def sext64 (x : Nat) : Nat := (((BitVec.ofNat 32 x).signExtend 64)).toNat

/-- A code that is no register and no latch, at a width (R275). -/
def plainCode (c width : Nat) (imm : BitVec 16) (e : Env) : Nat :=
  if c = 0xDE then
    if width = 64 then imm.toNat * 2 ^ 48 else if width = 32 then imm.toNat * 2 ^ 16 else imm.toNat % 2 ^ width
  else
    let x := if c = 0xDF then (imm.signExtend 32).toNat else if c < 0xE0 then constWord c else identWord c e
    if width = 64 then (if 0xD6 ≤ c ∧ c ≤ 0xDD then constDouble c else sext64 x) else x % 2 ^ width

/-- ReadSrc (R259): the value of an operand code in one thread, at a width of 64, 32, 16 or 8 bits. -/
def readSrc (g : Group) (t : Thread) (e : Env) (imm : Option (BitVec 16)) (code : BitVec 8) (width : Nat) : Nat :=
  let c := code.toNat
  if c < 0x80 then (if width = 64 then (t.vPair c).toNat else (t.vGet c).toNat % 2 ^ width)
  else if c < 0xC0 then
    (if width = 64 then (g.sPair (c - 0x80)).toNat else (g.sGet (c - 0x80)).toNat % 2 ^ width)
  else if c < 0xC4 then (t.y.val.get 0 (c - 0xC0)).toNat % 2 ^ width
  else plainCode c width (imm.getD 0) e

/-- Check 4 of R284 for one operand code: unassigned, a register at or above its count, a pair at an odd register, a latch
as a 64-bit operand, an immediate without an extension. -/
def codeBad (nv nu : Nat) (imm : Option (BitVec 16)) (o : Operand) : Bool :=
  let c := o.code.toNat
  let n := if o.width = 64 then 2 else 1
  if c < 0x80 then decide (nv < c + n) || (decide (o.width = 64) && c % 2 == 1)
  else if c < 0xC0 then decide (nu < c - 0x80 + n) || (decide (o.width = 64) && c % 2 == 1)
  else if c < 0xC4 then decide (o.width = 64)
  else if c < 0xD0 then true
  else if c = 0xDE ∨ c = 0xDF then imm.isNone
  else decide (0xE8 ≤ c)

/-- Check 4 of R284 for a run of registers (R62, R273). -/
def RegSet.bad (r : RegSet) (nv nu : Nat) : Bool :=
  decide ((if r.uniform then min nu 384 else nv) < r.first + r.count) || (r.even && r.first % 2 == 1)

/-- The registers of a run as (uniform, number). -/
def RegSet.regs (r : RegSet) : List (Bool × Nat) := (List.range r.count).map (fun i => (r.uniform, r.first + i))

/-- The registers an operand code reads. -/
def Operand.regs (o : Operand) : List (Bool × Nat) :=
  let c := o.code.toNat
  let k := if o.width = 64 then 2 else 1
  if c < 0x80 then (List.range k).map (fun i => (false, c + i))
  else if c < 0xC0 then (List.range k).map (fun i => (true, c - 0x80 + i))
  else []

/-- The latch an operand code reads. -/
def Operand.latch (o : Operand) : Option Nat :=
  if 0xC0 ≤ o.code.toNat ∧ o.code.toNat < 0xC4 then some (o.code.toNat - 0xC0) else none

/-- Check 4 of R284 for a word: operand codes, registers, tiles and the value limits of the field. -/
def Use.operandBad (u : Use) (nv nu nt : Nat) : Bool :=
  u.bad || (u.codes ++ u.oneCodes).any (codeBad nv nu u.imm) || (u.reads ++ u.writes ++ u.named).any (·.bad nv nu) ||
    u.tiles.any (fun a => decide (nt ≤ a))

/-- Check 5 of R284 in one thread. -/
def Use.latchBad (u : Use) (t : Thread) : Bool :=
  u.codes.any (fun o => match o.latch with
    | some n => !NatSet.has t.y.valid n
    | none => false)

/-- Whether a register word of the thread's lane or of its group is poisoned. -/
def regPoison (g : Group) (t : Thread) (r : Bool × Nat) : Bool := if r.1 then g.sBad r.2 else NatSet.has t.vPoison r.2

/-- Check 6 of R284 in one thread. -/
def Use.poisonBad (u : Use) (g : Group) (t : Thread) : Bool :=
  (u.codes.map Operand.regs).flatten.any (regPoison g t) || (u.reads.map RegSet.regs).flatten.any (regPoison g t) ||
    u.codes.any (fun o => match o.latch with
      | some n => NatSet.has t.y.poison n
      | none => false)

/-- Every register word the word reads, writes or names for readiness (R169, R267). -/
def Use.touched (u : Use) : List (Bool × Nat) :=
  ((u.codes ++ u.oneCodes).map Operand.regs).flatten ++ ((u.reads ++ u.writes ++ u.pending).map RegSet.regs).flatten

end Sys2Proof.Machine
end

