-- ==== Sys2Proof/Machine/Ops.lean ====
section
/-! DEFINITION. The named operations of a core: pending write-backs (R65), taking a trap (R400, R402), the rejoin masks (R177),
the bundle on an issue slice and what every word does before and after its own effect (R170, R174, R267, R284). -/

namespace Sys2Proof.Machine

/-- A thread of a bundle: group and lane. -/
abbrev Member := Nat × Nat

/-! ### Pending write-backs (R65, R169) -/

/-- The registers a flight will write. -/
def Flight.regs (f : Flight) : List Nat :=
  (if f.performed then f.writes.map (·.reg)
  else match f.kind with
    | .load => if f.size = 8 then [f.reg, f.reg + 1] else [f.reg]
    | .sweep => [f.reg, f.reg + 1]
    | .store => []
    | .result => f.writes.map (·.reg)).filter (fun r => !f.cancel.contains r)

def AwlLane.regs (l : AwlLane) (dest : Option Nat) : List Nat :=
  match dest with
  | none => []
  | some d => (if l.size = 8 then [d, d + 1] else [d]).filter (fun r => !l.cancel.contains r)

/-- The register words of a thread's lane and of its group with a pending write-back, as (uniform, number). -/
def State.pendingRegs (s : State) (t g l : Nat) : List (Bool × Nat) :=
  ((s.flights.filter (fun f => f.team == t && f.group == g && (f.uniform || f.lane == l))).map
    (fun f => f.regs.map (fun r => (f.uniform, r)))).flatten ++
  ((s.awl.filter (fun q => q.team == t && q.op != 0)).map (fun q =>
    ((q.lanes.filter (fun a => a.group == g && a.lane == l)).map (fun a => (a.regs q.dest).map (fun r => (false, r)))).flatten)).flatten

/-- Whether any of the register words has a pending write-back for the thread. -/
def State.isPending (s : State) (t : Nat) (m : Member) (rs : List (Bool × Nat)) : Bool :=
  rs.any (fun r => (s.pendingRegs t m.1 m.2).contains r)

/-- The threads an access is made for: its own, or those of an LDU (R338). -/
def Flight.threads (f : Flight) : List Member := if f.mems.isEmpty then [(f.group, f.lane)] else f.mems

/-- A remote access of the thread whose answer has not come: no later word of it issues (R396). -/
def State.remoteWait (s : State) (t : Nat) (m : Member) : Bool :=
  s.flights.any (fun f => f.team == t && f.threads.contains m && !f.performed && f.kind != .result && f.kind != .sweep &&
      f.loc.remote) ||
    s.awl.any (fun q => q.team == t && q.op != 0 && q.lanes.any (fun a => a.group == m.1 && a.lane == m.2 && a.loc.remote))

/-- A word of the thread that holds its bundle's next word: a sweep whose nodes have not been read (R38), or a compare-and-swap of a DET
launch whose comparison is not decided, which holds the thread's younger records (R160). -/
def State.wordWait (s : State) (t : Nat) (m : Member) : Bool :=
  s.flights.any (fun f => f.team == t && f.group == m.1 && f.lane == m.2 && !f.performed && f.kind == .sweep) ||
    s.awl.any (fun q => q.team == t && q.op != 0 && q.lanes.any (fun a =>
      a.group == m.1 && a.lane == m.2 && a.cas && (s.lpbOf t).det))

def State.addFlight (s : State) (f : Flight) : State :=
  { s with flights := s.flights ++ [{ f with id := s.nextId }], nextId := s.nextId + 1 }

/-- A result that arrives after issue (R65): written to the lane's or the group's registers by PENDING_WRITEBACK. -/
def State.addResult (s : State) (t g l : Nat) (uniform : Bool) (op : Option Nat) (ws : List RegWrite) : State :=
  s.addFlight { id := 0, kind := .result, team := t, group := g, lane := l, uniform := uniform, op := op,
                performed := true, writes := ws }

/-! ### Taking a trap (R400, R402) -/

/-- TCAUSE (R398). -/
def TrapState.tcause (t : TrapState) : Word :=
  BitVec.ofNat 32 (t.cause + t.rpos * 2 ^ 8 + t.lval.toNat * 2 ^ 12 + t.code * 2 ^ 16 + Bool.bit t.nest * 2 ^ 24 +
    Bool.bit t.dbg * 2 ^ 25)

/-- Whether a thread is in trap state (R401). -/
def Thread.inTrap (t : Thread) : Bool := t.status == .handler

/-- A trap as it is raised: cause, CODE, TVA, and the resumption point. -/
structure TrapInfo where
  cause : Cause
  code : Nat := 0
  tva : Dword := 0
  pc : Dword
  rpos : Nat
  /-- For SOFTWARE and BREAK, whose clause header is TVA, the index of the word the trap is reported at. -/
  word : Nat := 0
  deriving DecidableEq, Repr

/-- SOFTWARE and BREAK resume behind the word they are reported at (R397). -/
def TrapInfo.behind (k : TrapInfo) : Bool := k.cause == .software || k.cause == .breakpoint

/-- The clause header and the word a trap is reported at (R284, R310, R398): where a thread that stops stands (log 56). -/
def TrapInfo.header (k : TrapInfo) : Dword := if k.behind then k.tva else k.pc

def TrapInfo.index (k : TrapInfo) : Nat := if k.behind then k.word else k.rpos

/-- What TSAVE0 takes: v(NV−2), and with NV = 1, where no such register is, a free value of the place and time of the trap (log 32). -/
def Thread.tsave0 (th : Thread) (nv : Nat) (k : TrapInfo) : Word :=
  if nv < 2 then Config.absentRegister k.pc k.rpos th.readyAt else th.vGet (nv - 2)

/-- The trap-state bytes, saved latches and saved registers of R400. -/
def Thread.saveTrap (th : Thread) (nv : Nat) (k : TrapInfo) : Thread :=
  let inside := k.rpos != 0
  { th with
    trap := { cause := k.cause.code, rpos := k.rpos, lval := if inside then BitVec.ofNat 4 th.y.bits else 0, code := k.code,
              nest := false, dbg := false, tva := k.tva, trpc := k.pc, tsave0 := th.tsave0 nv k, tsave1 := th.vGet (nv - 1) },
    ySaved := if inside then th.y else {}, y := {}, rein := none, arrived := 0 }

/-- The thread after R400: in the handler, or stopped for the debugger. lane is its lane-state offset >> 2. -/
def Thread.enterTrap (th : Thread) (nv : Nat) (ten : Tenant) (lane : Nat) (k : TrapInfo) : Thread :=
  let t := th.saveTrap nv k
  if !ten.trapEnt.getLsbD 0 || decide (nv < 2) || ten.dbgAll || (k.cause == .breakpoint && ten.dbgBrk) then
    { t with trap := { t.trap with dbg := true }, pc := k.header, pos := k.index, status := .stopped }
  else
    { (t.vSet (nv - 2) (BitVec.ofNat 32 lane)).vSet (nv - 1) t.trap.tcause with
      pc := BitVec.ofNat 64 (bitsOf ten.trapEnt.toNat 51 2 * 4), pos := 0, status := .handler }

/-- The fabric offset of a thread's lane-state block (R71, R400). -/
def State.laneOffset (s : State) (t g l : Nat) : Nat :=
  let x := s.team t
  s.fabricOffset x.tenant x.cluster (x.base + (s.lpbOf t).groupOff g + (s.lpbOf t).laneOff + 64 * l)

/-- One thread takes a trap, in trap state a nested one (R402); events are posted (R37, R400, R402). -/
def State.trapOne (s : State) (t : Nat) (m : Member) (k : TrapInfo) : State :=
  let th := s.thread t m.1 m.2
  let ten := s.tenant (s.team t).tenant
  let s := if k.cause == .pageFault then s.notice (.pageFault t m.1 m.2 k.tva) else s
  if th.inTrap then
    (s.updThread t m.1 m.2 (fun x =>
      { x with trap := { x.trap with nest := true, dbg := true }, y := {}, pc := k.header, pos := k.index, status := .stopped })).notice
      (.trapNested t m.1 m.2 k.cause.code k.header)
  else
    let th' := th.enterTrap (s.lpbOf t).nv ten (s.laneOffset t m.1 m.2 / 4) k
    let s := s.updThread t m.1 m.2 (fun _ =>
      { th' with readyAt := (s.core (s.group t m.1).core).clk.toNat, late := false, prio := false })
    if th'.status == .stopped then s.notice (.trapStop t m.1 m.2) else s

/-! ### The gang register and a broken rendezvous (R365, R367) -/

/-- The groups a gang register lists. -/
def gangList (g : Dword) : List Nat := (List.range (bitsOf g.toNat 3 0)).map (fun k => bitsOf g.toNat (8 * k + 15) (8 * k + 8))

/-- Groups of the team that wait at a rendezvous. -/
def State.waitingGroups (s : State) (t : Nat) : List Nat := (s.groupsOf t).filter (fun g => (s.group t g).rendezvous.isSome)

/-- Every waiting thread of a group traps GANG_BROKEN at its MMAG word. -/
def State.breakGroup (s : State) (t g : Nat) : State :=
  let s := s.updGroup t g (fun x => { x with rendezvous := none })
  (List.range (s.lpbOf t).w).foldl (fun s l =>
    let th := s.thread t g l
    if th.status == .blocked .mmag then s.trapOne t (g, l) { cause := .gangBroken, pc := th.pc, rpos := th.pos } else s) s

/-- A group that has not arrived breaks every rendezvous that lists it, and the groups so stopped break theirs (R367). -/
def State.breakGangs : Nat → Nat → Nat → State → State
  | 0, _, _, s => s
  | fuel + 1, t, g, s =>
    if (s.group t g).rendezvous.isSome then s
    else
      let broken := (s.waitingGroups t).filter (fun w => match (s.group t w).rendezvous with
        | some r => (gangList r.g).contains g
        | none => false)
      let s := broken.foldl (fun s w => s.breakGroup t w) s
      broken.foldl (fun s w => s.breakGangs fuel t w) s

/-- A thread takes a trap, and a rendezvous that awaits its group breaks. -/
def State.takeTrap (s : State) (t : Nat) (m : Member) (k : TrapInfo) : State :=
  State.breakGangs 8 t m.1 (s.trapOne t m k)

/-! ### Rejoin masks (R177) -/

/-- Lanes of a mask, below w. -/
def maskLanes (w : Nat) (j : BitVec 64) : List Nat := (List.range w).filter (fun l => j.getLsbD l)

/-- A group tests one mask: if it is nonzero and all its threads are parked on it, they become ready and it is cleared. -/
def Group.joinTest (w clk n : Nat) (g : Group) : Group :=
  let ls := maskLanes w (g.joins.get 0 n)
  if !ls.isEmpty && ls.all (fun l => (g.thread l).status == .parked n) then
    ls.foldl (fun g l => g.setThread l { g.thread l with status := .ready, readyAt := clk }) { g with joins := g.joins.put 0 n 0 }
  else g

def State.joinTest (s : State) (t g : Nat) : State :=
  s.updGroup t g (fun x => (List.range 8).foldl (fun x n => x.joinTest (s.lpbOf t).w (s.core x.core).clk.toNat n) x)

/-! ### Bundles -/

/-- COUNT of a clause header (R260). -/
def hdrCount (h : Word) : Nat := (h.extractLsb' 28 4).toNat
/-- NR of a clause header. -/
def hdrNR (h : Word) : Bool := h.getLsbD 7
/-- The CLASS bit of a class. -/
def hdrClass (h : Word) (c : WClass) : Bool := h.getLsbD c.bit

/-- The checks of R261. -/
def headerOk (h : Word) : Bool :=
  h.extractLsb' 0 4 == 0xA#4 && hdrCount h != 0 && h.extractLsb' 4 2 == 0 &&
    (h.getLsbD 21 || h.extractLsb' 15 6 == 0) && (h.getLsbD 14 || h.extractLsb' 8 6 == 0)

/-- The address of the header that follows a clause. -/
def Bundle.fallThrough (b : Bundle) : Dword := b.pc + BitVec.ofNat 64 (4 * (hdrCount b.header + 1))

/-- The address of the next word. -/
def Bundle.wordAt (b : Bundle) : Dword := b.pc + BitVec.ofNat 64 (4 * (b.pos + 1))

/-- The groups of a bundle, rising. -/
def Bundle.groups (b : Bundle) : List Nat := (b.members.map (·.1)).dedup

/-- The group a group word acts on: that of the lowest thread. -/
def Bundle.group (b : Bundle) : Nat := (b.members.headD (0, 0)).1

/-- What comes after a word's effect. -/
inductive After where
  | go                     -- the next word
  | stall                  -- the word waits at issue and the bundle keeps the slice
  | block (w : Wait)       -- the threads stop with STATE 3 and free the slice (R174)
  | closed                 -- the word closed the clause: the threads stand at their next one
  | left                   -- the same, and the lanes keep the latches the word gave them (TRET)
  deriving DecidableEq, Repr

/-- A trap that a word raises in one thread, at that word. -/
structure TrapAt where
  m : Member
  cause : Cause
  code : Nat := 0
  tva : Dword := 0
  deriving DecidableEq, Repr

/-- What a word's own effect answers. -/
structure Res where
  s : State
  traps : List TrapAt := []
  after : After := .go
  /-- A walk met a poisoned page-table entry (R408): the tenant fault comes first and the word waits. -/
  walkPoison : Bool := false
  /-- The pages that the word's threads have looked up (R33). -/
  seen : Lookups := []

/-- The word has its effect and the bundle goes on. -/
def done (s : State) : Res := { s := s }

/-- What a meaning is told of the word it carries out: the core, the bundle with the threads that take part, the register
counts and width of the launch. -/
structure Ctx where
  core : Nat
  team : Nat
  b : Bundle
  lpb : Lpb
  len : Nat
  deriving DecidableEq, Repr

def Ctx.mems (c : Ctx) : List Member := c.b.members
def Ctx.g (c : Ctx) : Nat := c.b.group
def Ctx.low (c : Ctx) : Member := c.b.members.headD (0, 0)
def Ctx.cluster (c : Ctx) : Nat := clusterOf c.core
def Ctx.part (c : Ctx) : Nat := partOf c.cluster

/-- Every executing thread takes the same trap. -/
def Ctx.all (c : Ctx) (s : State) (k : Cause) (code : Nat := 0) (tva : Dword := 0) : Res :=
  { s := s, traps := c.mems.map (fun m => ⟨m, k, code, tva⟩) }

/-- Cause of order 1 to 4 of R284 for the word at the bundle's position, if one fails. trapState: the bundle's threads are in
trap state, where R401 forbids some words. -/
def Use.cause (u : Use) (b : Bundle) (len : Nat) (p : Lpb) (feat : Dword) (trapState : Bool) (wellFormed : Bool) : Option Cause :=
  if !hdrClass b.header u.cls || (u.closing && b.pos + len != hdrCount b.header) || decide (hdrCount b.header < b.pos + len) ||
      (u.nr && !hdrNR b.header) then some .illegalClause
  else if !wellFormed || (trapState && u.noTrapState) then some .illegalInstruction
  else if u.features.any (fun f => !p.features.getLsbD f && !feat.getLsbD f) then some .featureAbsent
  else if u.operandBad p.nv p.nu p.nt then some .illegalOperand
  else none

/-- The word waits at issue: a register word with a pending write-back (R267), or a tile with F set (R354). -/
def State.waits (s : State) (b : Bundle) (u : Use) : Bool :=
  b.members.any (fun m => s.isPending b.team m u.touched) ||
    u.tileWait.any (fun a => ((s.group b.team b.group).tiles.get {} a).f)

/-- Checks 5 and 6 of R284 in one thread (R175, R81). -/
def State.ownCause (s : State) (t : Nat) (u : Use) (m : Member) : Option Cause :=
  let g := s.group t m.1
  let th := g.thread m.2
  if u.latchBad th then some .latchInvalid else if u.poisonBad g th then some .poisonRead else none

/-- The traps of a word taken at its position (R284): PC at the header, POS at the word. -/
def State.takeAll (s : State) (b : Bundle) (ts : List TrapAt) : State :=
  ts.foldl (fun s x => s.takeTrap b.team x.m { cause := x.cause, code := x.code, tva := x.tva, pc := b.pc, rpos := b.pos }) s

def Bundle.without (b : Bundle) (ts : List TrapAt) : Bundle :=
  { b with members := b.members.filter (fun m => !(ts.any (fun x => x.m == m))) }

def State.setBundle (s : State) (core : Nat) (b : Option Bundle) : State := s.updCore core (fun c => { c with bundle := b })

/-- Withdraw requests that no lane uses (R125). -/
def State.dropAwl (s : State) (ids : List Nat) : State := { s with awl := s.awl.filter (fun q => !(ids.contains q.id && q.op == 0)) }

/-- Filler stops on a unit of a core: 1 the vector datapath, 2 the matrix slices (R433). -/
def State.stopFiller (s : State) (core unit : Nat) : State :=
  { s with filler := s.filler.upd 0 core (fun n => if unit = 1 then n / 2 * 2 else n % 2) }

/-- The slice is free: requests that a waiting atomic had made are withdrawn. -/
def State.freeSlice (s : State) (core : Nat) : State :=
  (s.dropAwl (((s.core core).bundle.map (·.awl)).getD [])).setBundle core none

/-- Invalidate the live latches of the bundle's lanes (R175). -/
def State.dropLatches (s : State) (t : Nat) (ms : List Member) : State :=
  ms.foldl (fun s m => s.updThread t m.1 m.2 (fun x => { x with y := {} })) s

/-- The clause ends without a closing word: every thread falls through (R265). -/
def State.endClause (s : State) (core : Nat) (b : Bundle) : State :=
  let clk := (s.core core).clk.toNat
  let s := b.members.foldl (fun s m => s.updThread b.team m.1 m.2 (fun x =>
    { x with pc := b.fallThrough, pos := 0, y := {}, readyAt := clk })) s
  s.setBundle core none

/-- The threads of a bundle that a remote access holds. -/
def State.heldThreads (s : State) (b : Bundle) : List Member := b.members.filter (fun m => s.remoteWait b.team m)

/-- The whole bundle waits: a word of one of its threads holds it, or every thread is held. -/
def State.allHeld (s : State) (b : Bundle) : Bool :=
  b.members.any (fun m => s.wordWait b.team m) || b.members.all (fun m => s.remoteWait b.team m)

/-- The threads that a remote access holds leave the bundle at its next word; the others are not held and go on as the bundle (R37, R396).
Those that left stand inside the clause and issue again from there. -/
def State.standAside (s : State) (b : Bundle) : State :=
  (s.heldThreads b).foldl (fun s m => s.updThread b.team m.1 m.2 (fun x => { x with pc := b.pc, pos := b.pos })) s

/-- The threads that go on. -/
def State.goingOn (s : State) (b : Bundle) : Bundle := { b with members := b.members.filter (fun m => !s.remoteWait b.team m) }

/-- Past the last word: the clause ends for the threads that no remote access holds (R396). -/
def State.endOrWait (s : State) (core : Nat) (b : Bundle) : State :=
  if s.allHeld b then s.setBundle core (some { b with stalled := true })
  else (s.standAside b).endClause core (s.goingOn b)

/-- The bundle moves past a word of len words. -/
def State.advance (s : State) (core : Nat) (b : Bundle) (len : Nat) : State :=
  let b := { b with pos := b.pos + len, ipos := b.ipos + 1, stalled := false, awl := [], peer := none, asked := false, peers := [], rein := none }
  if hdrCount b.header ≤ b.pos then s.endOrWait core b else s.setBundle core (some b)

/-- What happens after a word's effect: its traps are taken, and the bundle goes on, waits, blocks or ends. -/
def settle (core len : Nat) (b : Bundle) (r : Res) : State :=
  let s := r.s.takeAll b r.traps
  let b' := ((s.core core).bundle.getD b).without r.traps
  let b' := { b' with members := b'.members.filter (fun m => b.members.contains m) }
  let s := if r.walkPoison then s.walkFault (s.team b.team).tenant else s
  if b'.members.isEmpty then s.freeSlice core
  else match r.after with
    | .go => (s.count (partOf (clusterOf core)) 2 1).advance core b' len
    | .stall => s.setBundle core (some { b' with stalled := true })
    | .block w =>
      (b'.members.foldl (fun s m => s.updThread b.team m.1 m.2 (fun x =>
        { x with status := .blocked w, pc := b'.pc, pos := b'.pos })) s).freeSlice core
    | .closed => ((s.count (partOf (clusterOf core)) 2 1).dropLatches b.team b'.members).setBundle core none
    | .left => (s.count (partOf (clusterOf core)) 2 1).setBundle core none

/-- A word of a bundle none of whose threads is held: the checks of R284 in order, then its own effect on the threads that take part. -/
def State.runFree (s : State) (core : Nat) (b : Bundle) (i : Instr) (body : Ctx → State → Res) : State :=
  let p := s.lpbOf b.team
  let u := useOf p.w i
  let trapState := b.members.any (fun m => (s.thread b.team m.1 m.2).inTrap)
  let len := i.len
  match u.cause b len p (s.core core).feat trapState i.wf with
  | some k => settle core len b { s := s, traps := b.members.map (fun m => ⟨m, k, 0, 0⟩) }
  | none =>
    if s.waits b u then s.setBundle core (some { b with stalled := true })
    else
      let ts := b.members.filterMap (fun m => (s.ownCause b.team u m).map (fun k => (⟨m, k, 0, 0⟩ : TrapAt)))
      let s := s.takeAll b ts
      let b := b.without ts
      if b.members.isEmpty then s.freeSlice core
      else
        let s := s.setBundle core (some { b with stalled := false })
        settle core len b (body ⟨core, b.team, b, p, len⟩ s)

/-- A word of the bundle on a core, for its threads that no remote access holds. -/
def State.runIn (s : State) (core : Nat) (b : Bundle) (i : Instr) (body : Ctx → State → Res) : State :=
  if s.allHeld b then s.setBundle core (some { b with stalled := true })
  else (s.standAside b).runFree core (s.goingOn b) i body

/-- A word of the current core's bundle. -/
def runWord (i : Instr) (s : State) (body : Ctx → State → Res) : Host.Outcome State Fault Refusal :=
  match (s.core s.cur).bundle with
  | none => .refused .noBundle
  | some b => .next (s.runIn s.cur b i body)

/-! ### Results -/

/-- A uniform result's latch: the same value in every lane of the bundle (R268). -/
def State.latchAll (s : State) (c : Ctx) (w : Word) : State :=
  c.mems.foldl (fun s m => s.updThread c.team m.1 m.2 (fun x => { x with y := x.y.write (c.b.ipos % 4) w })) s

/-- A uniform word's 32-bit result (R294). -/
def State.uniform32 (s : State) (c : Ctx) (d : Nat) (w : Word) : State :=
  (s.updGroup c.team c.g (fun x => x.sSet d w)).latchAll c w

/-- A uniform word's 64-bit result in the pair d (R294). -/
def State.uniform64 (s : State) (c : Ctx) (d : Nat) (w : Dword) : State :=
  (s.updGroup c.team c.g (fun x => (x.sSet d (loWord w)).sSet (d + 1) (hiWord w))).latchAll c (loWord w)

/-- Two uniform words (status pairs), the first into the latch. -/
def State.uniformPair (s : State) (c : Ctx) (d : Nat) (lo hi : Word) : State :=
  (s.updGroup c.team c.g (fun x => (x.sSet d lo).sSet (d + 1) hi)).latchAll c lo

/-- A per-lane result: register (unless NW), second register of a pair, and the latch (R175, R268, R312). -/
def Thread.result (x : Thread) (ipos : Nat) (nw : Bool) (d : Nat) (lo : Word) (hi : Option Word) : Thread :=
  let x := if nw then x else match hi with
    | none => x.vSet d lo
    | some h => (x.vSet d lo).vSet (d + 1) h
  { x with y := x.y.write (ipos % 4) lo }

/-- SetFlag (R244, R259). -/
def Thread.setFlags (x : Thread) (f : Flags) : Thread := { x with flags := x.flags ||| f }

/-- Words of a result pattern. -/
def wordOf (n : Nat) : Word := BitVec.ofNat 32 n
def highOf (n : Nat) : Word := BitVec.ofNat 32 (n / 2 ^ 32)

/-- A word computed in each thread from the state at issue (R312): result pattern and flags. wide: a 64-bit result. -/
def State.perThread (s : State) (c : Ctx) (nw : Bool) (d : Nat) (wide : Bool)
    (f : Group → Thread → Env → Nat × Flags) : State :=
  c.mems.foldl (fun t m =>
    t.updThread c.team m.1 m.2 (fun x =>
      let r := f (s.group c.team m.1) x (s.env c.team m.1 m.2)
      (x.setFlags r.2).result c.b.ipos nw d (wordOf r.1) (if wide then some (highOf r.1) else none))) s

/-- The same where the results of all lanes are formed first (R327). -/
def State.writeLanes (s : State) (c : Ctx) (nw : Bool) (d : Nat) (wide : Bool) (rs : List (Member × Nat × Flags)) : State :=
  rs.foldl (fun s r =>
    s.updThread c.team r.1.1 r.1.2 (fun x =>
      (x.setFlags r.2.2).result c.b.ipos nw d (wordOf r.2.1) (if wide then some (highOf r.2.1) else none))) s

/-! ### Moving threads (R302) -/

/-- A word of code as a launch fetches it (R262). -/
def State.codeWord (s : State) (launch : Nat) (new : Bool) (l : Loc) : Word :=
  leWord ((List.range 4).map (fun i => s.codeByte launch new (l.plus i)))

/-- Read the header word at an address for fetch, by a launch: the checks 1 to 5 of R302. Where the launch's own stores decide whether the
header is well formed, the old or the new one is read, a free choice (R262). -/
def State.target (s : State) (c tn launch : Nat) (va : Dword) (seen : Lookups := []) : Except (Bad × Nat) Unit × State :=
  if 2 ^ 52 ≤ va.toNat then (.error (.trap .addrNoncanon, 4), s)
  else if va.toNat % 4 ≠ 0 then (.error (.trap .illegalClause, 0), s)
  else if s.inWindow tn va.toNat then (.error (.trap .access, 4), s)
  else match s.globalNow c tn va.toNat .fetch seen with
    | (.error r, s) => (.error (r, 4), s)
    | (.ok l, s) =>
      let ok (new : Bool) : Bool := headerOk (s.codeWord launch new l)
      let r := if ok false = ok true then (ok true, s) else let q := s.choose 2; (ok (q.1 = 1), q.2)
      if r.1 then (.ok (), r.2) else (.error (.trap .illegalClause, 0), r.2)

/-- One word of a clause at an address, with the launch's own stores or without (R262), or the failing check and its address. -/
def State.fetchWord (s : State) (c tn launch : Nat) (new : Bool) (va : Nat) : Except (Bad × Nat) Word × State :=
  if 2 ^ 52 ≤ va then (.error (.trap .addrNoncanon, va), s)
  else if s.inWindow tn va then (.error (.trap .access, va), s)
  else match s.globalNow c tn va .fetch with
    | (.error r, s) => (.error (r, va), s)
    | (.ok l, s) => (.ok (s.codeWord launch new l), s)

def State.fetchWords (s : State) (c tn launch : Nat) (new : Bool) (va : Nat) : Nat → Except (Bad × Nat) (List Word) × State
  | 0 => (.ok [], s)
  | n + 1 =>
    match s.fetchWord c tn launch new va with
    | (.error r, s) => (.error r, s)
    | (.ok w, s) =>
      match s.fetchWords c tn launch new (va + 4) n with
      | (.error r, s) => (.error r, s)
      | (.ok ws, s) => (.ok (w :: ws), s)

/-- One thread moves to a target, or traps there (R302): the outcome of one thread of a branch word. Threads that name one page take one
lookup (R33). -/
def moveTo (c : Ctx) (r : Res) (m : Member) (va : Dword) (change : Thread → Thread) : Res :=
  let tn := (r.s.team c.team).tenant
  let seen := r.s.noteLookup c.cluster tn va.toNat 4 false r.seen
  match r.s.target c.cluster tn (r.s.team c.team).launch va r.seen with
  | (.error (.trap k, code), s) =>
    { r with s := s, seen := seen, traps := r.traps ++ [⟨m, k, code, if k == .illegalClause then 0 else va⟩] }
  | (.error (.walkPoison, _), s) => { r with s := s, seen := seen, walkPoison := true }
  | (.ok (), s) =>
    { r with seen := seen, s := s.updThread c.team m.1 m.2 (fun x =>
        { change x with pc := va, pos := 0, readyAt := (s.core c.core).clk.toNat }) }

/-- One thread continues at the fall-through address. -/
def fallTo (c : Ctx) (r : Res) (m : Member) : Res :=
  { r with s := r.s.updThread c.team m.1 m.2 (fun x =>
      { x with pc := c.b.fallThrough, pos := 0, readyAt := (r.s.core c.core).clk.toNat }) }

/-- A closing word's result: if a walk met poison, no thread has moved and the word waits. -/
def closing (s0 : State) (r : Res) : Res :=
  if r.walkPoison then { s := s0, after := .stall, walkPoison := true } else { r with after := .closed }

end Sys2Proof.Machine
end

