-- ==== Sys2Proof/Machine/AtomicOps.lean ====
section
/-! DEFINITION. What an Awl group does to a location (R123, R126, R130, R131): the owner of a byte, the new value of each
operation, and the indivisible read and write with poison (R58). -/

namespace Sys2Proof.Machine

/-- Signedness and size of the type codes of R129. -/
def atypeSigned (t : Nat) : Bool := t == 1 || t == 3
def atypeSize (t : Nat) : Nat := if t = 2 ∨ t = 3 then 8 else 4

/-- AwlFAdd (R131): nearest even, subnormals kept, no flags. -/
def awlFAdd (atype old b : Nat) : Nat :=
  if atype = 5 then
    (fmtBf16.fadd .rne false (old % 65536) (b % 65536)).1 + 65536 * (fmtBf16.fadd .rne false (old / 65536) (b / 65536)).1
  else (fmtF32.fadd .rne false old b).1

/-- The new value of R130 for an operation, a type code, the old value and the operand. -/
def atomNew (aop atype old b : Nat) : Nat :=
  let w := 8 * atypeSize atype
  let v (x : Nat) : Int := intOf (atypeSigned atype) w x
  match aop with
  | 0 => (old + b) % 2 ^ w
  | 1 => if v b < v old then b else old
  | 2 => if v b > v old then b else old
  | 3 => old &&& b
  | 4 => old ||| b
  | 5 => old ^^^ b
  | 6 => b
  | _ => awlFAdd atype old b

/-- The owner of a byte (R123): a module cluster; 320 for the host, 321 + m for module m. -/
def State.ownerOf (s : State) (tn : Nat) (l : Loc) : Nat :=
  match l with
  | .fabric c _ => c
  | .hbm pa _ => s.moduleCluster tn (pa / 64 % 320 % s.nclus tn)
  | .host _ _ => 320
  | .peer m _ => 321 + m

/-- An indivisible read and write by the owner: f gives the new value, none writes nothing. A poisoned word is left as it is
(R58), and counted (R390). The line leaves the cache of the owner's cluster (R126); c is the requesting cluster. The old value and whether it was
poisoned. -/
def State.rmw (s : State) (tn c : Nat) (l : Loc) (size : Nat) (f : Nat → Option Nat) : (Nat × Bool) × State :=
  let old := leNat (s.memBytes l size)
  let owner := s.ownerOf tn l
  let s := match l with
    | .hbm pa _ => s.dropTouched owner pa size
    | _ => s
  if s.memBad l size then ((0, true), s.count (partOf c) 9 1)
  else match f old with
    | none => ((old, false), s)
    | some n => ((old, false), s.putLoc (if owner < 320 then partOf owner else partOf c) l (leBytes size n))

end Sys2Proof.Machine
end

