-- ==== Sys2Proof/Machine/Det.lean ====
section
/-! DEFINITION. Deterministic launches: digests (R160 to R162), the staging buffer (R148, R149, R154), the ticket and what its
holder's staging does when it is performed (R146, R150, R151). -/

namespace Sys2Proof.Machine

/-! ### CRC-64 and records (R160, R161) -/

def crcBit (r : Dword) : Dword := if r.msb then (r <<< 1) ^^^ 0x42F0E1EBA9EA3693 else r <<< 1

/-- One byte folded into the running register. -/
def crcByte (r : Dword) (b : Byte) : Dword :=
  crcBit (crcBit (crcBit (crcBit (crcBit (crcBit (crcBit (crcBit (r ^^^ (b.setWidth 64 <<< 56)))))))))

def crcFrom (r : Dword) (bs : List Byte) : Dword := bs.foldl crcByte r

/-- The running register before any byte, and the final xor. -/
def crcOnes : Dword := 0xFFFFFFFFFFFFFFFF

/-- Crc of R161. -/
def crc64 (bs : List Byte) : Dword := crcFrom crcOnes bs ^^^ crcOnes

/-- One record's bytes (R160). -/
def recordBytes (kind va : Nat) (data : List Byte) : List Byte :=
  BitVec.ofNat 8 kind :: (leBytes 7 va ++ BitVec.ofNat 8 (data.length - 1) :: data)

/-- KIND of an atomic or reduction. -/
def redKind (aop atype : Nat) : Nat := 0x80 + 8 * aop + atype

/-- A record enters a thread's digest (R147, R160). -/
def Thread.addRecord (th : Thread) (kind va : Nat) (data : List Byte) : Thread :=
  { th with crc := crcFrom th.crc (recordBytes kind va data), records := (th.records + 1) % 2 ^ 32 }

/-- The pieces of a write between 64-byte line boundaries (R148). -/
def linePieces (va : Nat) (bs : List Byte) : List (Nat × List Byte) :=
  (List.range ((va % 64 + bs.length + 63) / 64)).map (fun i =>
    let lo := if i = 0 then va else (va / 64 + i) * 64
    (lo, (bs.drop (lo - va)).take ((va / 64 + i + 1) * 64 - lo)))

/-- The records of one write of a thread of a DET launch. -/
def State.recordWrite (s : State) (t : Nat) (m : Member) (kind va : Nat) (bs : List Byte) : State :=
  if (s.lpbOf t).det then
    s.updThread t m.1 m.2 (fun th => (linePieces va bs).foldl (fun th p => th.addRecord kind p.1 p.2) th)
  else s

/-- Crc over the records so far: 0 for none (R387). -/
def Thread.digest (th : Thread) : Dword := th.crc ^^^ crcOnes

/-- The team digest (R162). -/
def State.teamDigest (s : State) (t : Nat) : Dword :=
  let w := (s.lpbOf t).w
  crc64 ((List.range (s.lpbOf t).t).map (fun tid =>
    let th := s.thread t (tid / w) (tid % w)
    if th.records = 0 then [] else leBytes 4 tid ++ leBytes 4 th.records ++ leBytes 8 th.digest.toNat)).flatten

/-- The launch digest over teams 0 to n − 1 (R162). -/
def launchDigest (ds : Sparse Dword) (n : Nat) : Dword :=
  crc64 ((List.range n).map (fun i => leBytes 8 i ++ leBytes 8 (ds.get 0 i).toNat)).flatten

/-! ### The ticket (R146) -/

def State.isDet (s : State) (t : Nat) : Bool := (s.lpbOf t).det

def State.holdsTicket (s : State) (t : Nat) : Bool := (s.launchOf t).ticket == (s.team t).index

/-- The word waits for the ticket (R150); in trap state it traps instead (R401). -/
def waitTicket (c : Ctx) (s : State) : Res :=
  if c.mems.any (fun m => (s.thread c.team m.1 m.2).inTrap) then c.all s .illegalInstruction
  else { s := s, after := .block .ticket }

/-! ### Staging (R148) -/

/-- The bytes a staging entry occupies. -/
def stageSize (n : Nat) : Nat := 16 + roundUp n 8

/-- STGUSED (R147). -/
def Team.stgUsed (x : Team) : Nat := (x.staging.map (fun e => stageSize e.data.length)).sum

/-- The bytes that entries of the given lengths need. -/
def stageNeed (ps : List (Nat × List Byte)) : Nat := (ps.map (fun p => stageSize p.2.length)).sum

def State.stageFits (s : State) (t need : Nat) : Bool := decide ((s.team t).stgUsed + need ≤ (s.lpbOf t).stgBytes)

def State.stage (s : State) (t : Nat) (e : Stage) : State := s.updTeam t (fun x => { x with staging := x.staging ++ [e] })

/-- A staging entry as it stands in the buffer: two words, then the data padded to 8 bytes. -/
def Stage.image (e : Stage) : List Byte :=
  leBytes 8 (e.va + (e.data.length - 1) * 2 ^ 52) ++ leBytes 8 (Bool.bit e.red + 2 * e.aop + 32 * e.atype) ++ e.data ++
    List.replicate (roundUp e.data.length 8 - e.data.length) 0

/-- Where a global virtual byte lies now, without a change of state. -/
def State.peek (s : State) (c tn va : Nat) : Option Loc :=
  match (s.translate c tn va).1 with
  | .ok (e, l) => match leafLoc (vfOf c) e l va .read true with
    | .ok x => some x
    | .error _ => none
  | .error _ => none

/-- What a read of one byte sees in staging. -/
inductive Seen where
  | none | byte (b : Byte) (poison : Bool) | reduction
  deriving DecidableEq, Repr

/-- The offset of a location in a staging entry, if the entry covers it. -/
def State.stageHit (s : State) (c tn : Nat) (e : Stage) (l : Loc) : Option Nat :=
  match s.peek c tn e.va with
  | none => Option.none
  | some x => if x.key.1 = l.key.1 ∧ x.key.2 ≤ l.key.2 ∧ l.key.2 < x.key.2 + e.data.length then some (l.key.2 - x.key.2) else Option.none

/-- The youngest staged write to a byte; a staged reduction of it prevails (R149). -/
def State.seenIn (s : State) (c tn : Nat) (es : List Stage) (l : Loc) : Seen :=
  es.foldl (fun r e => match s.stageHit c tn e l with
    | Option.none => r
    | some o => if e.red || r == .reduction then .reduction else .byte (e.data.getD o 0) (NatSet.has e.poison (o / 8))) .none

/-- The plain ones among staged entries. A read that is still in flight when a reduction is staged came before it, since a read that comes
after waits for the ticket at its issue (R149, R154): it sees these. -/
def plainStages (es : List Stage) : List Stage := es.filter (fun e => !e.red)

/-! ### Points of a seam space (R202, R203) -/

abbrev Point := Int × Int × Int

def Point.at (p : Point) (a : Nat) : Int := if a = 0 then p.1 else if a = 1 then p.2.1 else p.2.2

def Point.set (p : Point) (a : Nat) (v : Int) : Point :=
  if a = 0 then (v, p.2.1, p.2.2) else if a = 1 then (p.1, v, p.2.2) else (p.1, p.2.1, v)

def Lpb.ext (b : Lpb) (a : Nat) : Nat := if a = 0 then b.e0 else if a = 1 then b.e1 else b.e2

/-- The face of a boundary point (R203): f = 2a + h. -/
def faceOf (b : Lpb) (q : Point) : Option Nat :=
  (List.range 3).findSome? (fun a =>
    if Point.at q a < 0 then some (2 * a) else if (b.ext a : Int) ≤ Point.at q a then some (2 * a + 1) else none)

/-- The point of a linked space of the given extents that stands for a boundary point. -/
def linkedPoint (b : Lpb) (ext : Nat → Nat) (f : Nat) (q : Point) : Point :=
  let a := f / 2
  Point.set q a (if f % 2 = 0 then Point.at q a + ext a else Point.at q a - b.ext a)

def seamIndex (b : Lpb) (p : Point) : Nat := ((p.1 * b.e1 + p.2.1) * b.e2 + p.2.2).toNat

def seamPoint (b : Lpb) (n : Nat) : Point :=
  let x := seamCoords b.e1 b.e2 n
  ((x.1 : Int), (x.2.1 : Int), (x.2.2 : Int))

/-- The points a point depends on, in the space or beyond its faces. -/
def Seam.preds (u : Seam) (p : Point) : List Point := u.vecs.map (fun d => (p.1 - d.1, p.2.1 - d.2.1, p.2.2 - d.2.2))

/-- Whether a face is LINKED. -/
def Seam.linked (u : Seam) (f : Nat) : Bool := u.faces / 2 ^ f % 2 == 1

/-- The record a face is linked to. -/
def Seam.linkOf (u : Seam) (f : Nat) : Nat := leNat ((u.bytes.drop (0x30 + 8 * f)).take 8)

/-! ### Forwarding (R154, R212, R216) -/

/-- A seam launch, in progress or given up. -/
def State.space (s : State) (n : Nat) : Launch := if (s.launch n).live then s.launch n else s.spaces.get {} n

/-- The launch whose frontier record a face of a launch is linked to, in progress or given up, deterministic or not. -/
def State.linkedLaunch (s : State) (n f : Nat) : Option Nat :=
  let x := s.space n
  if x.seamUnit.linked f then
    ((s.launches ++ s.spaces).find? (fun e => e.2.live && e.2.lpb.seam && e.2.tenant == x.tenant &&
      e.2.seamUnit.record == x.seamUnit.linkOf f)).map (·.1)
  else none

def State.hasLinks (s : State) (n : Nat) : Bool := (List.range 6).any (fun f => (s.linkedLaunch n f).isSome)

/-- The points that precede a point directly, in its launch or, through a linked record, in another: launch and linear index. -/
def State.seamPreds (s : State) (x : Nat × Nat) : List (Nat × Nat) :=
  let l := s.space x.1
  (l.seamUnit.preds (seamPoint l.lpb x.2)).filterMap (fun q =>
    match faceOf l.lpb q with
    | none => some (x.1, seamIndex l.lpb q)
    | some f => match s.linkedLaunch x.1 f with
      | none => none
      | some m =>
        let r := linkedPoint l.lpb (s.space m).lpb.ext f q
        if (faceOf (s.space m).lpb r).isNone then some (m, seamIndex (s.space m).lpb r) else none)

/-- The points that precede those of a front, in fuel layers. Behind a released point of a DET
launch without links stand released ones. -/
def State.seamBefore (s : State) : Nat → List (Nat × Nat) → List (Nat × Nat) → List (Nat × Nat)
  | 0, _, acc => acc
  | fuel + 1, front, acc =>
    let next := ((front.map s.seamPreds).flatten.filter (fun y =>
      (!(s.space y.1).lpb.det || decide ((s.space y.1).ticket ≤ y.2) || s.hasLinks y.1) && !acc.contains y)).dedup
    if next.isEmpty then acc else s.seamBefore fuel next (acc ++ next)

/-- The completed, unreleased points that precede a point: those of its own launch by falling index, then those of linked launches
(R154, R212, log 78). -/
def State.forwarders (s : State) (t : Nat) : List Nat :=
  let x := s.team t
  let ok (u : Nat) : Bool := u != t && s.isDet u && (s.lpbOf u).seam && (s.team u).tenant == x.tenant && (s.team u).pointDone && !(s.team u).releasedDet
  let ts := s.liveTeams.filter ok
  if !(s.lpbOf t).seam || ts.isEmpty then []
  else
    let fuel := ((s.launches ++ s.spaces).map (fun e => e.2.total)).sum + 1
    let before := s.seamBefore fuel [(x.launch, x.index)] []
    let us := ts.filter (fun u => before.contains ((s.team u).launch, (s.team u).index))
    let sorted (us : List Nat) : List Nat := sortBy (fun a b => decide ((s.team b).index ≤ (s.team a).index)) us
    sorted (us.filter (fun u => (s.team u).launch == x.launch)) ++ sorted (us.filter (fun u => (s.team u).launch != x.launch))

/-- What a read of one global byte by a team of a DET launch sees in staging: its own writes, else those forwarded to it. -/
def State.detSeen (s : State) (t : Nat) (l : Loc) : Seen :=
  let x := s.team t
  match s.seenIn x.cluster x.tenant x.staging l with
  | .none => (s.forwarders t).foldl (fun r u => match r with
      | .none => s.seenIn x.cluster x.tenant (s.team u).staging l
      | r => r) .none
  | r => r

/-- A read that must wait for the ticket (R149, R154). -/
def State.detReadWaits (s : State) (t : Nat) (l : Loc) (n : Nat) : Bool :=
  s.isDet t && !s.holdsTicket t && !l.isFabric && (List.range n).any (fun i => s.detSeen t (l.plus i) == .reduction)

/-- One staged plain write that the team observes covers the whole HBM line of a location, so the line's own poison is not seen (R58,
R149). -/
def State.stagedLine (s : State) (t : Nat) (l : Loc) : Bool :=
  match l with
  | .hbm pa _ =>
    let x := s.team t
    (t :: s.forwarders t).any (fun u => (s.team u).staging.any (fun e => !e.red && e.data.length == 64 &&
      match s.peek x.cluster x.tenant e.va with
      | some q => q.key == (1, pa / 64 * 64)
      | none => false))
  | _ => false

/-- What a read in flight sees of one byte: the staged plain writes, its own team's first. -/
def State.plainSeen (s : State) (t : Nat) (l : Loc) : Seen :=
  let x := s.team t
  match s.seenIn x.cluster x.tenant (plainStages x.staging) l with
  | .none => (s.forwarders t).foldl (fun r u => match r with
      | .none => s.seenIn x.cluster x.tenant (plainStages (s.team u).staging) l
      | r => r) .none
  | r => r

/-- The location n bytes lower. -/
def Loc.minus (l : Loc) (n : Nat) : Loc :=
  match l with
  | .fabric c b => .fabric c (b - n)
  | .hbm pa nc => .hbm (pa - n) nc
  | .host v a => .host v (a - n)
  | .peer m a => .peer m (a - n)

/-- A window of bytes from a location on, with poison, after a staged entry: a plain write of its bytes, or a reduction that lies in it. -/
def State.applyStage (s : State) (c tn : Nat) (l : Loc) (w : List (Byte × Bool)) (e : Stage) : List (Byte × Bool) :=
  let hit (i : Nat) : Option Nat := s.stageHit c tn e (l.plus i)
  if !e.red then
    (List.range w.length).foldl (fun w i => match hit i with
      | some o => w.set i (e.data.getD o 0, NatSet.has e.poison (o / 8))
      | none => w) w
  else match (List.range w.length).find? (fun i => hit i == some 0) with
    | none => w
    | some i =>
      let old := (w.drop i).take e.data.length
      let bad := old.any (·.2) || NatSet.has e.poison 0
      let new := leBytes e.data.length (atomNew e.aop e.atype (leNat (old.map (·.1))) (leNat e.data))
      w.take i ++ (if bad then old else new.map (fun b => (b, false))) ++ w.drop (i + e.data.length)

/-- What the ticket holder's read observes of a linked launch's unreleased points, whose reductions it need wait for no longer (R154): their
entries in order, over the whole 8-byte units it touches (log 78). -/
def State.ticketOverlay (s : State) (t : Nat) (l : Loc) (r : List Byte × Bool) : List Byte × Bool :=
  let x := s.team t
  let es := (((s.forwarders t).reverse ++ [t]).map (fun u => (s.team u).staging)).flatten
  let skip := l.key.2 % 8
  let lo := l.minus skip
  let n := roundUp (skip + r.1.length) 8
  let own (i : Nat) : Bool := decide (skip ≤ i ∧ i < skip + r.1.length)
  let w := (List.range n).map (fun i => if own i then (r.1.getD (i - skip) 0, r.2 && !s.stagedLine t l) else (s.memByte (lo.plus i), s.memPoison (lo.plus i)))
  let w := (es.foldl (fun w e => s.applyStage x.cluster x.tenant lo w e) w).drop skip |>.take r.1.length
  (w.map (·.1), w.any (·.2))

/-- Bytes of a read with the staged writes it observes: bytes, poison. A launch without DET observes none (log 85). -/
def State.detOverlay (s : State) (t : Nat) (l : Loc) (r : List Byte × Bool) : List Byte × Bool :=
  if s.isDet t && !l.isFabric && s.holdsTicket t && (s.forwarders t).any (fun u => (s.team u).staging.any (·.red)) then s.ticketOverlay t l r
  else if s.isDet t && !l.isFabric then
    (List.range r.1.length).foldl (fun q i => match s.plainSeen t (l.plus i) with
      | .byte b p => (q.1.set i b, q.2 || p)
      | _ => q) (r.1, r.2 && !s.stagedLine t l)
  else r

/-! ### Performing staged entries (R151) -/

/-- The clusters of the teams that one team's staged writes are forwarded to (R154). -/
def State.forwardedTo (s : State) (t : Nat) : List Nat :=
  ((s.liveTeams.filter (fun u => (s.forwarders u).contains t)).map (fun u => (s.team u).cluster)).dedup

/-- One staged entry performed at device scope, and where. It is a global write, so only its page is looked up again: an entry whose page no longer
allows the write, or that the host or a peer rejects, is dropped (log 18). A piece of a copy removes the lines it touches from the team's
cluster's cache, as a reduction's result does, which the team's later reads observe (R51, R149). seers: clusters whose teams have observed the write
before it is performed, and go on observing it: the lines leave their caches (R154, R96). -/
def State.performStage (s : State) (t : Nat) (seers : List Nat) (e : Stage) : Option Loc × State :=
  let x := s.team t
  match s.globalNow x.cluster x.tenant e.va .write with
  | (.error .walkPoison, s) => (none, s.walkFault x.tenant)
  | (.error _, s) => (none, s)
  | (.ok l, s) =>
    let s := s.ownWrite x.launch l e.data.length
    let drop (cs : List Nat) (s : State) : State := match l with
      | .hbm pa _ => cs.foldl (fun s c => s.dropTouched c pa e.data.length) s
      | _ => s
    let s := drop seers s
    if e.red then (some l, drop [x.cluster] (s.rmw x.tenant x.cluster l e.data.length (fun old => some (atomNew e.aop e.atype old (leNat e.data)))).2)
    else (some l, if e.copy then drop [x.cluster] (s.putLoc (partOf x.cluster) l e.data) else s.storeLoc x.cluster l e.data)

/-- Staged entries in runs: the pieces of one copy are one write, and every other entry is a write of its own. -/
def stageRuns (es : List Stage) : List (List Stage) :=
  es.foldr (fun e r => match r with
    | (x :: q) :: rest => if e.copy && x.copy && e.op == x.op then (e :: x :: q) :: rest else [e] :: r
    | _ => [e] :: r) []

/-- The entries of one write: units it covers whole lose their mark, and those that receive a poisoned byte are poisoned (R58). -/
def State.performRun (s : State) (t : Nat) (seers : List Nat) (es : List Stage) : State :=
  let (ls, s) := es.foldl (fun (r : List (Stage × Loc) × State) e => match r.2.performStage t seers e with
    | (some l, s) => (r.1 ++ [(e, l)], s)
    | (none, s) => (r.1, s)) (([], s) : List (Stage × Loc) × State)
  let bytes := ((ls.filter (fun q => !q.1.red)).map (fun q => (List.range q.1.data.length).map (fun i => (q.2.plus i, NatSet.has q.1.poison (i / 8))))).flatten
  (bytes.filter (·.2)).foldl (fun s b => s.poisonLoc b.1 1) (s.clearWhole (bytes.map (·.1.key)))

/-- The Cinch performs a team's staged entries in order and empties the buffer. -/
def State.drainStaging (s : State) (t : Nat) : State :=
  ((stageRuns (s.team t).staging).foldl (fun s es => s.performRun t (s.forwardedTo t) es) s).updTeam t (fun x => { x with staging := [] })

end Sys2Proof.Machine
end

