-- ==== Sys2Proof/Machine/Image.lean ====
section
/-! DEFINITION. A team's image and Cinch area as words (R67 to R73, R78, R80, R147, R213, R398, R458): what each 32-bit word of the
guarded part of a fabric region reads as, and what a write of a word does. The state they show is held in Team, Group and Thread. -/

namespace Sys2Proof.Machine

/-- Little-endian word at a byte offset of a list. -/
def wordIn (bs : List Byte) (off : Nat) : Word := leWord ((bs.drop off).take 4)

/-- 64 bits of a register set: bit i is n + i. -/
def setMask (f : Nat → Bool) : Nat := ((List.range 32).map (fun i => if f i then 2 ^ i else 0)).sum

/-- One of the two words of a 64-bit value. -/
def halfOf (x : Dword) (hi : Bool) : Word := if hi then hiWord x else loWord x

def withHalf (x : Dword) (hi : Bool) (w : Word) : Dword := if hi then joinWords (loWord x) w else joinWords w (hiWord x)

/-! ### Reading -/

/-- The team header (R68, R147, R213). -/
def State.headerWord (s : State) (t off : Nat) : Word :=
  let x := s.team t
  let n := s.launch x.launch
  let p := n.lpb
  let w (n : Nat) : Word := BitVec.ofNat 32 n
  if off < 0x08 then w (x.index / 2 ^ (8 * off))
  else if off = 0x08 then w p.groups
  else if off = 0x0C then w (Bool.bit x.suspended + 2 * Bool.bit x.complete + 4 * Bool.bit x.sbSaved)
  else if off = 0x10 then w p.sbb
  else if off = 0x14 then w p.gimgsz
  else if p.det && off = 0x40 then w p.imageSize
  else if p.det && off = 0x44 then w p.stgBytes
  else if p.det && off = 0x48 then w x.stgUsed
  else if p.det && off = 0x4C then
    w (Bool.bit (s.holdsTicket t) + 2 * Bool.bit x.releasedDet + 4 * Bool.bit (x.exited || x.pointDone) +
      8 * Bool.bit ((s.groupsOf t).any (fun g => (List.range p.w).any (fun l => (s.thread t g l).status == .blocked .ticket))))
  else if p.det && (off = 0x50 || off = 0x54) then halfOf (if x.releasedDet then x.tdigest else 0) (off == 0x54)
  else if p.seam && 0x80 ≤ off && off < 0x8C then
    let q := seamCoords p.e1 p.e2 x.index
    w (if off = 0x80 then q.1 else if off = 0x84 then q.2.1 else q.2.2)
  else if p.seam && off = 0x8C then w (Bool.bit x.pointDone)
  else if p.seam && (off = 0x90 || off = 0x94) then halfOf (BitVec.ofNat 64 n.seamUnit.record) (off == 0x94)
  else if p.seam && 0xA0 ≤ off && off < 0xB0 then w (setMask (fun i => (s.group t (8 * (off - 0xA0) + i)).done))
  else 0

/-- A reservation-table entry (R78): the record, then its place, whose layout the spec does not give (log 16). -/
def State.resvWord (s : State) (t off : Nat) : Word :=
  let r := (s.team t).resv.get {} (off / 32 + 1)
  if !r.live then 0
  else match off % 32 / 4 with
    | 0 => r.r0 | 1 => r.r1 | 2 => r.r2 | 3 => r.r3
    | k => Config.placeWord r.unit k

/-- The Saddlebag save area (R80, R458). -/
def State.saveWord (s : State) (t off : Nat) : Word × Bool :=
  let v := (s.team t).sbSave
  (leWord (v.bytes.getList 0 off 4), NatSet.has v.poison (off / 8))

/-- The group header (R70). -/
def State.groupWord (s : State) (t g off : Nat) : Word :=
  let x := s.group t g
  let p := s.lpbOf t
  let w (n : Nat) : Word := BitVec.ofNat 32 n
  let bit (f : Nat → Bool) : Word := w ((List.range 16).map (fun i => if f i then 2 ^ i else 0)).sum
  if off = 0 then 0x401
  else if off = 4 then w (p.wcode + (p.nv - 1) * 2 ^ 2 + (p.nu - 1) * 2 ^ 9 + p.nt * 2 ^ 18 + p.d8 * 2 ^ 23)
  else if off = 8 then w g
  else if off = 0xC then
    w (Bool.bit x.suspended + 2 * Bool.bit ((List.range p.w).any (fun l =>
      !(x.thread l).ySaved.valid.isEmpty || (x.suspended && !(x.thread l).y.valid.isEmpty))))
  else if off = 0x10 || off = 0x14 then halfOf p.entry (off == 0x14)
  else if off = 0x18 then w (x.counters.get 0 0 + x.counters.get 0 1 * 2 ^ 6 + x.counters.get 0 2 * 2 ^ 12 + x.counters.get 0 3 * 2 ^ 18)
  else if off = 0x20 || off = 0x24 then halfOf x.g (off == 0x24)
  else if off = 0x28 then bit (fun n => (x.tiles.get {} n).v)
  else if off = 0x2C then bit (fun n => (x.tiles.get {} n).d)
  else if 0x40 ≤ off && off < 0x80 then halfOf (x.joins.get 0 ((off - 0x40) / 8)) (off % 8 == 4)
  else 0

/-- The latches an image shows for a thread: those saved at a trap while it is in trap state or stopped (R401, R458). -/
def Thread.imageLatches (th : Thread) : Latches := if th.status == .handler || th.status == .stopped then th.ySaved else th.y

/-- The position of a thread in its clause: that of its bundle while it stands in one, else where it stopped (R71, log 31). -/
def State.posOf (s : State) (t g l : Nat) : Nat :=
  match (s.core (s.group t g).core).bundle with
  | some b => if b.team == t && b.members.contains (g, l) then b.pos else (s.thread t g l).pos
  | none => (s.thread t g l).pos

/-- The valid bits POS shows: those of the latches a stopped thread was saved with (R72), else the live ones. -/
def Thread.validBits (th : Thread) : Nat := if th.status == .stopped && !th.trap.nest then th.trap.lval.toNat else th.y.bits

/-- A lane's state block (R71, R398), for a thread at a position. -/
def laneWord (pos : Nat) (th : Thread) (off : Nat) : Word :=
  let w (n : Nat) : Word := BitVec.ofNat 32 n
  match off / 4 with
  | 0 => loWord th.pc | 1 => hiWord th.pc
  | 2 => w (pos + 16 * th.validBits)
  | 3 => w th.status.code
  | 4 => th.mode
  | 5 => th.flags.setWidth 32
  | 6 => loWord th.draws | 7 => hiWord th.draws
  | 8 => w th.depth
  | 9 => th.trap.tcause
  | 10 => loWord th.trap.tva | 11 => hiWord th.trap.tva
  | 12 => loWord th.trap.trpc | 13 => hiWord th.trap.trpc
  | 14 => th.trap.tsave0
  | _ => th.trap.tsave1

/-- The poison map (R73). -/
def State.mapWord (s : State) (t g off : Nat) : Word :=
  let x := s.group t g
  let p := s.lpbOf t
  let w (n : Nat) : Word := BitVec.ofNat 32 n
  let lane (k : Nat) (f : Thread → Bool) : Word := w (setMask (fun i => decide (32 * k + i < p.w) && f (x.thread (32 * k + i))))
  if off < 64 then w (setMask (fun i => NatSet.has x.sPoison (8 * off + i)))
  else if off < 96 then lane (off / 4 % 2) (fun th => NatSet.has th.imageLatches.poison ((off - 64) / 8))
  else if off < 96 + 8 * p.nv then lane (off / 4 % 2) (fun th => NatSet.has th.vPoison ((off - 96) / 8))
  else
    let o := off - 96 - 8 * p.nv
    w (setMask (fun i => NatSet.has (x.tiles.get {} (o / 64)).val.poison (8 * (o % 64) + i)))

/-- A word of a group image: value, poison. -/
def State.groupImageWord (s : State) (t g off : Nat) : Word × Bool :=
  let x := s.group t g
  let p := s.lpbOf t
  if off < 256 then (s.groupWord t g off, false)
  else if off < 256 + 4 * p.nu then (x.sGet ((off - 256) / 4), x.sBad ((off - 256) / 4))
  else if off < p.laneOff then (0, false)
  else if off < p.laneOff + 64 * p.w then
    let o := off - p.laneOff
    (laneWord (s.posOf t g (o / 64)) (x.thread (o / 64)) (o % 64), false)
  else if off < p.latchOff then (0, false)
  else if off < p.latchOff + 4 * p.line then
    let o := off - p.latchOff
    let y := (x.thread (o % p.line / 4)).imageLatches
    (y.val.get 0 (o / p.line), NatSet.has y.poison (o / p.line))
  else if off < p.mapOff then (0, false)
  else if off < p.mapOff + 96 + 8 * p.nv + 64 * p.nt then (s.mapWord t g (off - p.mapOff), false)
  else if off < p.vecOff then (0, false)
  else if off < p.vecOff + p.nv * p.line then
    let o := off - p.vecOff
    let th := x.thread (o % p.line / 4)
    (th.vGet (o / p.line), NatSet.has th.vPoison (o / p.line))
  else if off < p.stackOff then (0, false)
  else if off < p.stackOff + 8 * p.d * p.w then
    let o := off - p.stackOff
    (halfOf ((x.thread (o / 8 % p.w)).frames.get 0 (o / 8 / p.w)) (o % 8 == 4), false)
  else if off < p.tileOff then (0, false)
  else
    let o := off - p.tileOff
    let a := x.tiles.get {} (o / 4096)
    (if a.v then a.val.elems.get 0 (o % 4096 / 4) else 0, NatSet.has a.val.poison (o % 4096 / 8))

/-- The Cinch area (R147, R148): the thread digest table, then the staging entries. -/
def State.cinchWord (s : State) (t off : Nat) : Word × Bool :=
  let x := s.team t
  let p := s.lpbOf t
  if off < 16 * p.t then
    let th := s.thread t (off / 16 / p.w) (off / 16 % p.w)
    (match off % 16 / 4 with
      | 0 => loWord th.crc | 1 => hiWord th.crc | 2 => BitVec.ofNat 32 th.records | _ => 0, false)
  else if off < p.tableSize then (0, false)
  else
    let o := off - p.tableSize
    let bytes := (x.staging.map Stage.image).flatten
    let bad := (x.staging.map (fun e => false :: false :: (List.range ((e.data.length + 7) / 8)).map (fun i => NatSet.has e.poison i))).flatten
    (wordIn bytes o, bad.getD (o / 8) false)

/-- A word of the guarded part of a team's region, by byte offset (a multiple of 4): value, poison. -/
def State.imageWord (s : State) (t off : Nat) : Word × Bool :=
  let p := s.lpbOf t
  if off < 0x100 then (s.headerWord t off, false)
  else if off < 0x300 then
    if off < 0x100 + 480 then (s.resvWord t (off - 0x100), false) else (0, false)
  else if off < p.groupOff 0 then s.saveWord t (off - 0x300)
  else if off < p.imageSize then s.groupImageWord t ((off - p.groupOff 0) / p.gimgsz) ((off - p.groupOff 0) % p.gimgsz)
  else s.cinchWord t (off - p.imageSize)

/-- Bytes of the guarded part: value, whether a word among them is poisoned. -/
def State.imageBytes (s : State) (t off n : Nat) : List Byte × Bool :=
  ((List.range n).map (fun i => BitVec.ofNat 8 ((s.imageWord t ((off + i) / 4 * 4)).1.toNat / 2 ^ (8 * ((off + i) % 4)))),
    (List.range n).any (fun i => (s.imageWord t ((off + i) / 4 * 4)).2))

/-! ### Writing -/

/-- The trap state with TCAUSE replaced. -/
def TrapState.withCause (k : TrapState) (w : Word) : TrapState :=
  let n := w.toNat
  { k with cause := n % 256, rpos := bitsOf n 11 8, lval := BitVec.ofNat 4 (bitsOf n 15 12), code := bitsOf n 23 16,
           nest := w.getLsbD 24, dbg := w.getLsbD 25 }

/-- Whether a lane-state field can hold a word (R458). -/
def laneHolds (p : Lpb) (off : Nat) (w : Word) : Bool :=
  match off / 4 with
  | 2 => decide (w.toNat < 256)
  | 4 => decide (w.toNat < 8)
  | 5 => decide (w.toNat < 256)
  | 8 => decide (w.toNat ≤ p.d)
  | 9 => decide (w.toNat < 2 ^ 26)
  | _ => true

/-- POS replaced: the position, and the valid bits of the latches where they are held. -/
def Thread.withPos (th : Thread) (w : Word) : Thread :=
  let th := { th with pos := w.toNat % 16 }
  if th.status == .stopped && !th.trap.nest then { th with trap := { th.trap with lval := BitVec.ofNat 4 (bitsOf w.toNat 7 4) } }
  else { th with y := { th.y with valid := (List.range 4).foldl (fun v n => NatSet.set v n (w.getLsbD (4 + n))) [] } }

/-- A lane-state word replaced. STATE is not written here. -/
def laneSet (th : Thread) (off : Nat) (w : Word) : Thread :=
  match off / 4 with
  | 0 => { th with pc := withHalf th.pc false w }
  | 1 => { th with pc := withHalf th.pc true w }
  | 2 => th.withPos w
  | 3 => th
  | 4 => { th with mode := w }
  | 5 => { th with flags := w.setWidth 8 }
  | 6 => { th with draws := withHalf th.draws false w }
  | 7 => { th with draws := withHalf th.draws true w }
  | 8 => { th with depth := w.toNat }
  | 9 => { th with trap := th.trap.withCause w }
  | 10 => { th with trap := { th.trap with tva := withHalf th.trap.tva false w } }
  | 11 => { th with trap := { th.trap with tva := withHalf th.trap.tva true w } }
  | 12 => { th with trap := { th.trap with trpc := withHalf th.trap.trpc false w } }
  | 13 => { th with trap := { th.trap with trpc := withHalf th.trap.trpc true w } }
  | 14 => { th with trap := { th.trap with tsave0 := w } }
  | _ => { th with trap := { th.trap with tsave1 := w } }

/-- A latch word replaced and its poison cleared; validity is kept. -/
def Latches.replace (y : Latches) (n : Nat) (w : Word) : Latches :=
  { y with val := y.val.put 0 n w, poison := NatSet.set y.poison n false }

def Thread.setImageLatch (th : Thread) (n : Nat) (w : Word) : Thread :=
  if th.status == .handler || th.status == .stopped then { th with ySaved := th.ySaved.replace n w }
  else { th with y := th.y.replace n w }

/-- One 32-bit word of a tile replaced: the tile is written (V, D). A 64-bit poisoned word is cleared only when both its words
are written, so the mark stays for one of them. -/
def Tile.putWord (a : Tile) (n : Nat) (w : Word) (clear : Bool) : Tile :=
  let base : Sparse Word := if a.v then a.val.elems else []
  { a with val := ⟨base.put 0 n w, if clear then NatSet.set a.val.poison (n / 2) false else a.val.poison⟩, v := true, d := true }

/-- What a word of a group image is. -/
inductive Area where
  | fixed                       -- header, maps, gaps
  | uniform (n : Nat)
  | lane (l off : Nat)
  | latch (l n : Nat)
  | vector (l n : Nat)
  | frame (l f : Nat) (hi : Bool)
  | tile (a n : Nat)
  deriving DecidableEq, Repr

def Lpb.areaOf (p : Lpb) (off : Nat) : Area :=
  if off < 256 then .fixed
  else if off < 256 + 4 * p.nu then .uniform ((off - 256) / 4)
  else if off < p.laneOff then .fixed
  else if off < p.laneOff + 64 * p.w then .lane ((off - p.laneOff) / 64) ((off - p.laneOff) % 64)
  else if off < p.latchOff then .fixed
  else if off < p.latchOff + 4 * p.line then .latch ((off - p.latchOff) % p.line / 4) ((off - p.latchOff) / p.line)
  else if off < p.vecOff then .fixed
  else if off < p.vecOff + p.nv * p.line then .vector ((off - p.vecOff) % p.line / 4) ((off - p.vecOff) / p.line)
  else if off < p.stackOff then .fixed
  else if off < p.stackOff + 8 * p.d * p.w then
    .frame ((off - p.stackOff) / 8 % p.w) ((off - p.stackOff) / 8 / p.w) ((off - p.stackOff) % 8 == 4)
  else if off < p.tileOff then .fixed
  else .tile ((off - p.tileOff) / 4096) ((off - p.tileOff) % 4096 / 4)

/-- The group and area of a word of the guarded part, if it lies in a group image. -/
def Lpb.place (p : Lpb) (off : Nat) : Option (Nat × Area) :=
  if p.groupOff 0 ≤ off ∧ off < p.imageSize then
    some ((off - p.groupOff 0) / p.gimgsz, p.areaOf ((off - p.groupOff 0) % p.gimgsz))
  else none

/-- Replace a word of a group image; both: the whole 64-bit unit is written with it. -/
def State.putArea (s : State) (t g : Nat) (a : Area) (w : Word) (both : Bool) : State :=
  match a with
  | .fixed => s
  | .uniform n => s.updGroup t g (fun x => x.sSet n w)
  | .lane l off => s.updThread t g l (fun th => { laneSet th off w with modeWas := if off = 16 then some th.modeNow else th.modeWas })
  | .latch l n => s.updThread t g l (fun th => th.setImageLatch n w)
  | .vector l n => s.updThread t g l (fun th => th.vSet n w)
  | .frame l f hi => s.updThread t g l (fun th => { th with frames := th.frames.put 0 f (withHalf (th.frames.get 0 f) hi w) })
  | .tile a n => s.updGroup t g (fun x => { x with tiles := x.tiles.upd {} a (fun y => y.putWord n w both) })

/-- Whether a thread in trap state may write a word with this value (R458). -/
def State.areaWritable (s : State) (t : Nat) (m : Member) (g : Nat) (a : Area) (w : Word) : Bool :=
  match a with
  | .fixed => false
  | .uniform _ | .latch _ _ | .vector _ _ | .tile _ _ => true
  | .lane l off => g == m.1 && l == m.2 && decide (0x10 ≤ off) && laneHolds (s.lpbOf t) off w
  | .frame l _ _ => g == m.1 && l == m.2

/-- The words a write of n bytes at an offset gives: offset and merged value. -/
def State.mergedWords (s : State) (t off : Nat) (bs : List Byte) : List (Nat × Word) :=
  (List.range ((off + bs.length + 3) / 4 - off / 4)).map (fun k =>
    let o := (off / 4 + k) * 4
    (o, leWord ((List.range 4).map (fun i =>
      if off ≤ o + i ∧ o + i < off + bs.length then bs.getD (o + i - off) 0
      else BitVec.ofNat 8 ((s.imageWord t o).1.toNat / 2 ^ (8 * i))))))

/-- A write by a thread in trap state: none traps ACCESS and changes nothing. A part of a word that is poisoned keeps its mark.
A register with a pending write-back is written at once (log 69). -/
def State.imageStore (s : State) (t : Nat) (m : Member) (off : Nat) (bs : List Byte) : Option State :=
  let p := s.lpbOf t
  let ws := s.mergedWords t off bs
  if ws.all (fun q => match p.place q.1 with
      | some (g, a) => s.areaWritable t m g a q.2
      | none => false) then
    some (ws.foldl (fun s q => match p.place q.1 with
      | some (g, a) => if bs.length < 4 && (s.imageWord t q.1).2 then s else s.putArea t g a q.2 (bs.length == 8)
      | none => s) s)
  else none

/-- A register word of the image with a pending write-back (R65). -/
def State.areaPending (s : State) (t g : Nat) (a : Area) : Bool :=
  match a with
  | .uniform n => s.isPending t (g, 0) [(true, n)]
  | .vector l n => s.isPending t (g, l) [(false, n)]
  | _ => false

def State.imagePending (s : State) (t off n : Nat) : Bool :=
  (List.range n).any (fun i => match (s.lpbOf t).place ((off + i) / 4 * 4) with
    | some (g, a) => s.areaPending t g a
    | none => false)

/-- Whether a write touches a tile whose F bit is set (R458). -/
def State.imageTileBusy (s : State) (t off n : Nat) : Bool :=
  (List.range n).any (fun i => match (s.lpbOf t).place ((off + i) / 4 * 4) with
    | some (g, .tile a _) => ((s.group t g).tiles.get {} a).f
    | _ => false)

end Sys2Proof.Machine
end

