-- ==== Sys2Proof/Machine/Issue.lean ====
section
/-! DEFINITION. Issuing memory accesses: where each thread's access goes (R36, R66, R135, R221, R458), counted operations (R52,
R55), writes of a DET launch (R148 to R150, R216), and performing what has been issued (R336, R346). -/

namespace Sys2Proof.Machine

/-! ### Guards over addresses -/

/-- Bytes of a lacing store (R221). -/
def IslDesc.linkOff (d : IslDesc) : Nat := roundUp (64 + 4 * d.nbody) 4096
def IslDesc.logOff (d : IslDesc) : Nat := roundUp (d.linkOff + 8 * d.lmax) 4096
def IslDesc.storeSize (d : IslDesc) : Nat := d.logOff + 8 * d.rptmax

/-- A place in memory lies in the store of a set, through whatever mapping it was reached. -/
def State.inStore (s : State) (tn : Nat) (x : IslSlot) (l : Loc) (n : Nat) : Bool :=
  (List.range ((x.desc.storeSize + 4095) / 4096)).any (fun i => match s.peek (s.engineCluster tn) tn (x.desc.lstore + 4096 * i) with
    | some p => p.overlaps (min 4096 (x.desc.storeSize - 4096 * i)) l n
    | none => false)

/-- An access of n bytes touches the lacing store of an active set: by its address, or by the bytes themselves. -/
def State.lacingGuard (s : State) (tn va : Nat) (l : Loc) (n : Nat) : Bool :=
  s.tenants.any (fun e => e.2.slots.any (fun q =>
    let x := q.2
    x.active && ((e.1 == tn && decide (va < x.desc.lstore + x.desc.storeSize ∧ x.desc.lstore < va + n)) || s.inStore e.1 x l n)))

/-- Bytes that no thread's ordinary access may touch. -/
def State.guardedLoc (s : State) (tn va : Nat) (l : Loc) (n : Nat) : Bool :=
  match l with
  | .fabric c b => s.guardedRange c b n
  | _ => s.lacingGuard tn va l n

/-- Where one access goes: to memory, or, from a thread in trap state, to a word of its own team's image (R66). -/
inductive Place where
  | mem (l : Loc)
  | image (off : Nat)
  deriving DecidableEq, Repr

/-- Guards on a fabric access of n bytes: none traps ACCESS. plain: an access R66 admits in trap state. -/
def State.fabricPlace (s : State) (t : Nat) (inTrap plain write : Bool) (c b n : Nat) : Option Place :=
  let x := s.team t
  let own := inTrap && plain && c == x.cluster && decide (x.base ≤ b ∧ b < x.base + x.region)
  if own && decide (b < x.base + (s.lpbOf t).declOff) then some (.image (b - x.base))
  else if !s.guardedRange c b n then some (.mem (.fabric c b))
  else if own && !write then some (.mem (.fabric c b))
  else none

/-- The checks on one thread's access, R36 first, then the guards. -/
def State.place (s : State) (c : Ctx) (m : Member) (ea : Int) (size : Nat) (k : AccKind) (fabricOnly plain hostOk : Bool)
    (seen : Lookups := []) : Except Bad Place × State :=
  let tn := (s.team c.team).tenant
  match s.access c.cluster tn ea size k fabricOnly hostOk seen with
  | (.error r, s) => (.error r, s)
  | (.ok (.fabric cl b), s) =>
    match s.fabricPlace c.team (s.thread c.team m.1 m.2).inTrap plain k.writes cl b size with
    | some p => (.ok p, s)
    | none => (.error (.trap .access), s)
  | (.ok l, s) => if s.lacingGuard tn ea.toNat l size then (.error (.trap .access), s) else (.ok (.mem l), s)

/-- One thread's access that passed. -/
structure Acc where
  m : Member
  va : Nat
  place : Place
  deriving DecidableEq, Repr

/-- The threads of a word after their checks. -/
structure Plan where
  s : State
  accs : List Acc := []
  traps : List TrapAt := []
  walkPoison : Bool := false
  seen : Lookups := []

/-- Check every thread's access; lanes that name one page share its lookup. kind is the access kind of R398. -/
def State.planAll (s : State) (c : Ctx) (addr : Member → Int) (size : Nat) (k : AccKind) (fabricOnly plain hostOk : Bool)
    (kind : Nat) : Plan :=
  c.mems.foldl (fun r m =>
    let seen := r.s.noteLookup c.cluster (s.team c.team).tenant (addr m) size fabricOnly r.seen
    match r.s.place c m (addr m) size k fabricOnly plain hostOk r.seen with
    | (.ok p, s) => { r with s := s, seen := seen, accs := r.accs ++ [⟨m, (addr m).toNat, p⟩] }
    | (.error (.trap cause), s) =>
      { r with s := s, seen := seen, traps := r.traps ++ [⟨m, cause, kind, BitVec.ofInt 64 (addr m)⟩] }
    | (.error .walkPoison, s) => { r with s := s, seen := seen, walkPoison := true }) ({ s := s } : Plan)

/-- A walk met a poisoned entry: nothing happens and the word waits (R408). -/
def poisonedWalk (s : State) : Res := { s := s, after := .stall, walkPoison := true }

/-- The word waits at issue and holds the slice. -/
def stalled (s : State) : Res := { s := s, after := .stall }

/-- The address of R13 in one thread. -/
def State.eaOf (s : State) (c : Ctx) (p ix : BitVec 8) (size : Nat) (off : Int) (m : Member) : Int :=
  let g := s.group c.team m.1
  (((s.group c.team c.g).sPair (2 * p.toNat)).toNat : Int) +
    (readSrc g (g.thread m.2) (s.env c.team m.1 m.2) none ix 32 * size : Nat) + off

/-! ### Counted operations (R52, R55) -/

def Group.count (g : Group) (k : Nat) : Nat := g.counters.get 0 k

/-- The counter codes of R52. -/
def cCpy : Nat := 0
def cGth : Nat := 1
def cAto : Nat := 2
def cCol : Nat := 3

/-- Whether an operation would raise a counter of one of the groups above 63. -/
def State.counterFull (s : State) (t : Nat) (gs : List Nat) (k : Nat) : Bool := gs.any (fun g => decide (63 ≤ (s.group t g).count k))

/-- A wait on c.cpy with threshold n covers a copy that waits for the ticket with part of its writes: the copy is not among the n youngest
of a group (R54, R55, R150). -/
def State.pausedCopy (s : State) (t : Nat) (gs : List Nat) (n : Nat) : Bool :=
  gs.any (fun g =>
    let os := s.ops.filter (fun o => o.team == t && o.counter == cCpy && o.groups.contains g)
    (os.take (os.length - n)).any (fun o => !o.rest.isEmpty))

/-- A wait at issue on c.cpy with threshold n: one that covers a copy paused for the ticket frees the slice (R55), any other holds it; in
trap state, where no thread may block, it traps instead (R401, log 24). -/
def waitCopy (c : Ctx) (n : Nat) (s : State) : Res :=
  if s.pausedCopy c.team c.b.groups n then
    (if c.mems.any (fun m => (s.thread c.team m.1 m.2).inTrap) then c.all s .illegalInstruction
    else { s := s, after := .block (.copy n) })
  else stalled s

/-- A counted operation issues. Its number. -/
def State.startOp (s : State) (t : Nat) (gs : List Nat) (k : Nat) (kind : OpKind) (remote : Bool) (mems : List Member) :
    Nat × State :=
  let id := s.nextId
  let s := { s with
    nextId := id + 1
    ops := s.ops ++ [{ id := id, team := t, groups := gs, counter := k, kind := kind, remote := remote, mems := mems }] }
  (id, gs.foldl (fun s g => s.updGroup t g (fun x => { x with counters := x.counters.upd 0 k (· + 1) })) s)

/-- The global lines an operation's atomics touch. -/
def State.setOpLines (s : State) (id : Nat) (ls : List Nat) : State :=
  { s with ops := s.ops.map (fun o => if o.id == id then { o with lines := ls.dedup } else o) }

/-- Groups of a list of accesses, rising. -/
def accGroups (as : List Acc) : List Nat := (as.map (·.m.1)).dedup

/-! ### Performing flights -/

/-- The registers an access's data fills: the low word, and the second of a 64-bit access (R336). -/
def loadWrites (reg size : Nat) (sx : Bool) (bs : List Byte) (bad : Bool) : List RegWrite :=
  let n := leNat bs
  if size = 8 then [⟨reg, BitVec.ofNat 32 n, bad⟩, ⟨reg + 1, BitVec.ofNat 32 (n / 2 ^ 32), bad⟩]
  else [⟨reg, if sx then BitVec.ofInt 32 (intOf true (8 * size) n) else BitVec.ofNat 32 n, bad⟩]

/-- Flight g must be performed before flight f of the same bytes: one thread's own order, the lanes of one store word, or two
counted operations of one group (R92, R96, R336, R339). -/
def Flight.before (g f : Flight) : Bool :=
  decide (g.id < f.id) && !g.performed && g.kind != .result && g.loc.overlaps g.size f.loc f.size && g.team == f.team &&
    g.group == f.group &&
    ((g.lane == f.lane && (g.op.isNone || f.op.isSome)) || (g.word == f.word && g.kind == .store) ||
      (g.op.isSome && f.op.isSome))

def State.op (s : State) (id : Nat) : Option Op := s.ops.find? (fun o => o.id == id)

/-- The uncounted loads and stores that the threads of a counted operation made before it (R49, R92: eo, issue). -/
def State.issuersBefore (s : State) (o : Op) : List Flight :=
  s.flights.filter (fun f => f.team == o.team && o.mems.contains (f.group, f.lane) && decide (f.id < o.id) && !f.performed &&
    f.op.isNone && (f.kind == .load || f.kind == .store))

/-- What a counted lane's access comes after. -/
def State.opBefore (s : State) (f : Flight) : List Flight :=
  match f.op with
  | none => []
  | some id => ((s.op id).map s.issuersBefore).getD []

def State.flight (s : State) (id : Nat) : Option Flight := s.flights.find? (fun f => f.id == id)

def State.dropFlight (s : State) (id : Nat) : State := { s with flights := s.flights.filter (fun f => f.id != id) }

def State.setFlight (s : State) (f : Flight) : State := { s with flights := s.flights.map (fun g => if g.id == f.id then f else g) }

/-- The cluster an access of a group leaves from. -/
def State.clusterOfGroup (s : State) (t g : Nat) : Nat := clusterOf (s.group t g).core

/-- One flight performed now: a store writes, a load reads what it will write back, with the staged writes it observes. -/
def State.performOne (s : State) (f : Flight) : State :=
  let c := s.clusterOfGroup f.team f.group
  match f.kind with
  | .store => ((s.storeLoc c f.loc f.data).ownWrite (s.team f.team).launch f.loc f.data.length).dropFlight f.id
  | .load =>
    let (r, s) := s.loadLoc c f.loc f.size f.fill
    let r := s.detOverlay f.team f.loc r
    let s := if r.2 then s.count (partOf c) 9 1 else s
    s.setFlight { f with performed := true, writes := loadWrites f.reg f.size f.sx r.1 r.2 }
  | _ => s

/-- Perform a flight after those that must come before it. -/
def State.performFlight : Nat → Nat → State → State
  | 0, _, s => s
  | fuel + 1, id, s =>
    match s.flight id with
    | none => s
    | some f =>
      if f.performed || f.kind == .result || f.kind == .sweep then s
      else ((s.flights.filter (fun g => g.before f) ++ s.opBefore f).foldl (fun s g => s.performFlight fuel g.id) s).performOne f

def State.perform (s : State) (id : Nat) : State := State.performFlight 64 id s

/-- The loads and stores that the threads of a counted operation issued before it are performed first (R49, R92). -/
def State.performBefore (s : State) (o : Op) : State := (s.issuersBefore o).foldl (fun s f => s.perform f.id) s

def State.performIssuers (s : State) (id : Nat) : State :=
  match s.op id with
  | none => s
  | some o => s.performBefore o

/-- Perform the unperformed flights of a thread that touch a range and were issued before number lim. -/
def State.performThreadAt (s : State) (t : Nat) (m : Member) (l : Loc) (n lim : Nat) : State :=
  (s.flights.filter (fun f => decide (f.id < lim) && f.team == t && f.group == m.1 && f.lane == m.2 && !f.performed && f.op.isNone &&
    f.kind != .result && f.loc.overlaps f.size l n)).foldl (fun s f => s.perform f.id) s

/-! ### Global writes of a DET launch -/

/-- A team that stages its global writes. -/
def State.stages (s : State) (t : Nat) : Bool := s.isDet t && !s.holdsTicket t

/-- A group of a DET seam launch that is done may write no global byte (R216). -/
def State.doneGuard (s : State) (t g : Nat) : Bool := s.isDet t && (s.lpbOf t).seam && (s.group t g).done

/-- Accesses that R216 forbids a done group become ACCESS traps: those at the places p. -/
def Plan.forbid (r : Plan) (t kind : Nat) (p : Place → Bool) : Plan :=
  let bad (a : Acc) : Bool := r.s.doneGuard t a.m.1 && p a.place
  { r with
    accs := r.accs.filter (fun a => !bad a)
    traps := r.traps ++ (r.accs.filter bad).map (fun a => ⟨a.m, .access, kind, BitVec.ofNat 64 a.va⟩) }

def Place.isGlobal : Place → Bool
  | .mem l => !l.isFabric
  | .image _ => false

/-- A store or a scatter: its global writes are forbidden. -/
def Plan.afterDone (r : Plan) (t kind : Nat) : Plan := r.forbid t kind Place.isGlobal

/-- An atomic or a reduction is forbidden wherever it goes. -/
def Plan.atomicDone (r : Plan) (t kind : Nat) : Plan := r.forbid t kind (fun _ => true)

/-- Stage a plain write of one thread, after the thread's older accesses to those bytes. -/
def State.stageWrite (s : State) (t : Nat) (m : Member) (l : Loc) (va : Nat) (bs : List Byte) : State :=
  let s := s.performThreadAt t m l bs.length s.nextId
  (linePieces va bs).foldl (fun s p => s.stage t { va := p.1, red := false, aop := 0, atype := 0, data := p.2, poison := [] }) s

/-- Stage a reduction of one lane. -/
def State.stageRed (s : State) (t : Nat) (m : Member) (l : Loc) (va aop atype : Nat) (bs : List Byte) : State :=
  (s.performThreadAt t m l bs.length s.nextId).stage t { va := va, red := true, aop := aop, atype := atype, data := bs, poison := [] }

/-- A host page makes a storing team exposed (R409). -/
def State.exposeIf (s : State) (t : Nat) (b : Bool) : State := if b then s.updTeam t (fun x => { x with exposed := true }) else s

def Place.isHost : Place → Bool
  | .mem (.host _ _) => true
  | _ => false

/-- A read of an image word waits for the word's pending write-back (R458, R169). -/
def State.placePending (s : State) (t : Nat) (p : Place) (n : Nat) : Bool :=
  match p with
  | .mem _ => false
  | .image off => s.imagePending t off n

def Place.loc : Place → Loc
  | .mem l => l
  | .image off => .fabric 0 off

end Sys2Proof.Machine
end

