-- ==== Sys2Proof/Machine/Atomics.lean ====
section
/-! DEFINITION. Atomics and reductions at memory (R122 to R132, R347, R348): requests to the owners' Awl groups, their queues, and
what performing a request does. -/

namespace Sys2Proof.Machine

/-- What an atomic word asks of each lane. -/
structure AtomSpec where
  red : Bool
  cas : Bool
  nw : Bool
  size : Nat
  aop : Nat
  atype : Nat
  d : Nat
  vb : Nat
  off : Int
  p : BitVec 8
  ix : BitVec 8
  deriving DecidableEq, Repr

/-- The operations a PCIe AtomicOp carries (R31). -/
def AtomSpec.hostOk (a : AtomSpec) : Bool := !a.red && (a.cas || a.aop == 0 || a.aop == 6)

/-- The lane operation of one access, its registers read at issue (R348). -/
def AtomSpec.lane (a : AtomSpec) (th : Thread) (x : Acc) (l : Loc) : AwlLane :=
  let rd (n : Nat) : Dword := if a.size = 8 then th.vPair n else (th.vGet n).setWidth 64
  AwlLane.mk x.m.1 x.m.2 l x.va a.aop a.atype a.cas a.size (rd a.vb) (if a.cas then rd (a.vb + a.size / 4) else 0) []

/-- Granted entries of an owner's queue. -/
def State.awlHeld (s : State) (owner : Nat) : Nat := (s.awl.filter (fun q => q.owner == owner && q.granted)).length

/-- A new request of a core's cluster: granted if the queue has room and no request waits there before it (R125); beyond this module no
queue of it is concerned. -/
def State.askAwl (s : State) (c : Ctx) (owner : Nat) : Nat × State :=
  let id := s.nextId
  let free := decide (s.awlHeld owner < 256) && !s.awl.any (fun q => q.owner == owner && !q.granted)
  (id, { s with
    nextId := id + 1
    awl := s.awl ++ [AwlReq.mk id owner c.cluster 0 c.team none [] (decide (320 ≤ owner) || free) 0 0] })

/-- The requests a waiting atomic already has at an owner. -/
def State.awlOf (s : State) (ids : List Nat) (owner : Nat) : Option AwlReq :=
  s.awl.find? (fun q => ids.contains q.id && q.owner == owner)

/-- Requests for every owner: those asked for before, and new ones. -/
def State.askAll (s : State) (c : Ctx) (owners : List Nat) : List Nat × State :=
  owners.foldl (fun r o => match r.2.awlOf c.b.awl o with
    | some q => (r.1 ++ [q.id], r.2)
    | none => let (id, s) := r.2.askAwl c o; (r.1 ++ [id], s)) ([], s)

/-- A request takes its lane operations as the instruction issues, which is when it takes its place in the queue (R125). -/
def State.fillAwl (s : State) (id op : Nat) (dest : Option Nat) (ls : List AwlLane) (pc : Dword) (pos : Nat) : State :=
  { s with awl := s.awl.filter (fun q => q.id != id) ++ (s.awl.filter (fun q => q.id == id)).map (fun q =>
      { q with op := op, dest := dest, lanes := ls, pc := pc, pos := pos }) }

/-- A digest record of a global atomic or reduction other than a compare-and-swap (R160). -/
def recordAtom (c : Ctx) (a : AtomSpec) (s : State) (l : AwlLane) : State :=
  if a.cas || l.loc.isFabric then s
  else s.recordWrite c.team (l.group, l.lane) (redKind a.aop a.atype) l.va (leBytes a.size l.operand.toNat)

/-- The common path of ATOM, RED and the compare-and-swaps. -/
def atomicWord (i : Instr) (a : AtomSpec) (s : State) : Host.Outcome State Fault Refusal :=
  runWord i s fun c s =>
    let r := (s.planAll c (s.eaOf c a.p a.ix a.size a.off) a.size .atomic false false a.hostOk 3).atomicDone c.team 3
    let lanes := r.accs.map (fun x => a.lane (r.s.thread c.team x.m.1 x.m.2) x x.place.loc)
    let staged := if r.s.stages c.team then lanes.filter (fun l => !l.loc.isFabric) else []
    let sent := lanes.filter (fun l => !staged.contains l)
    let gs := accGroups r.accs
    if r.walkPoison then poisonedWalk r.s
    else if r.accs.isEmpty then { done (r.s.dropAwl c.b.awl) with traps := r.traps }
    else if r.s.counterFull c.team gs cAto then stalled r.s
    else if r.s.isDet c.team && !a.red && !r.s.holdsTicket c.team then waitTicket c r.s
    else if !r.s.stageFits c.team ((staged.map (fun _ => stageSize a.size)).sum) then waitTicket c r.s
    else
      let owners := (sent.map (fun l => r.s.ownerOf (r.s.team c.team).tenant l.loc)).dedup
      let (ids, s) := r.s.askAll c owners
      if !(s.awl.filter (fun q => ids.contains q.id)).all (·.granted) then
        stalled (s.updCore c.core (fun x => { x with bundle := x.bundle.map (fun b => { b with awl := ids }) }))
      else
        let (op, s) := s.startOp c.team gs cAto .atomics (sent.any (·.loc.remote)) (lanes.map (fun l => (l.group, l.lane)))
        let s := s.setOpLines op (sent.filterMap (fun l => l.loc.line))
        let s := lanes.foldl (recordAtom c a) s
        let s := if staged.isEmpty then s else s.performIssuers op
        let s := staged.foldl (fun s l =>
          s.stageRed c.team (l.group, l.lane) l.loc l.va a.aop a.atype (leBytes a.size l.operand.toNat)) s
        let s := (ids.zip owners).foldl (fun s q => s.fillAwl q.1 op (if a.red || a.nw then none else some a.d)
          (sent.filter (fun l => s.ownerOf (s.team c.team).tenant l.loc == q.2)) c.b.pc c.b.pos) s
        let s := s.dropAwl (c.b.awl.filter (fun x => !ids.contains x))
        let s := s.exposeIf c.team (!a.red || r.accs.any (fun x => x.place.isHost))
        { done s with traps := r.traps }

def atomSpec (nw : Bool) (d : BitVec 7) (p i : BitVec 8) (e : AExt) : AtomSpec :=
  { red := false, cas := false, nw := nw, size := atypeSize e.atype.toNat, aop := e.aop.toNat, atype := e.atype.toNat, d := d.toNat,
    vb := e.vb.toNat, off := e.off.toInt, p := p, ix := i }

def execAtom (nw : Bool) (d : BitVec 7) (p i : BitVec 8) (e : AExt) (s : State) : Host.Outcome State Fault Refusal :=
  atomicWord (.atom nw d p i e) (atomSpec nw d p i e) s

def execRed (p i : BitVec 8) (e : AExt) (s : State) : Host.Outcome State Fault Refusal :=
  atomicWord (.red p i e) { atomSpec false 0 p i e with red := true } s

/-- ATOM.CAS. NW is 0 in every word that decodes (R336, log 76). -/
def execAtomCas (nw : Bool) (d : BitVec 7) (p i : BitVec 8) (e : AExt) (s : State) : Host.Outcome State Fault Refusal :=
  atomicWord (.atomCas nw d p i e) { atomSpec nw d p i e with cas := true, size := 4 } s

/-- ATOM.CAS64. -/
def execAtomCas64 (nw : Bool) (d : BitVec 7) (p i : BitVec 8) (e : AExt) (s : State) : Host.Outcome State Fault Refusal :=
  atomicWord (.atomCas64 nw d p i e) { atomSpec nw d p i e with cas := true, size := 8 } s

/-! ### Grants (R125) -/

/-- AWL_GRANT: the owner grants one entry to a waiting cluster, the first at or after its round-robin position. -/
def execAwlGrant (owner : Nat) (s : State) : Host.Outcome State Fault Refusal :=
  let waiting := s.awl.filter (fun q => q.owner == owner && !q.granted)
  let turn := s.awlTurn.get 0 owner
  let order (q : AwlReq) : Nat := (q.cluster + 320 - turn) % 320
  let best := waiting.foldl (fun (r : Option AwlReq) q => match r with
    | none => some q
    | some x => if order q < order x then some q else some x) none
  match best with
  | none => s.idle
  | some q =>
    if s.awlHeld owner < 256 then
      .next { s with
        awl := s.awl.map (fun x => if x.id == q.id then { x with granted := true } else x)
        awlTurn := s.awlTurn.put 0 owner ((q.cluster + 1) % 320) }
    else s.idle

/-! ### Performing requests (R126, R127, R130) -/

/-- One lane operation, after the issuing threads' earlier accesses (R92), and its result's way back. -/
def performLane (q : AwlReq) (s : State) (l : AwlLane) : State :=
  let x := s.team q.team
  let m : Member := (l.group, l.lane)
  let s := s.performIssuers q.op
  let f (old : Nat) : Option Nat :=
    if l.cas then (if old = l.operand.toNat then some l.newVal.toNat else none)
    else some (atomNew l.aop l.atype old (l.operand.toNat % 2 ^ (8 * l.size)))
  let ((old, bad), s) := s.rmw x.tenant q.cluster l.loc l.size f
  let s := if bad || (l.cas && old != l.operand.toNat) then s else s.ownWrite x.launch l.loc l.size
  let s := if l.cas && !bad && old == l.operand.toNat && !l.loc.isFabric then
      s.recordWrite q.team m 0 l.va (leBytes l.size l.newVal.toNat) else s
  match q.dest with
  | none => s
  | some d => s.addResult q.team l.group l.lane false (some q.op)
      ((loadWrites d l.size false (leBytes l.size old) bad).filter (fun w => !l.cancel.contains w.reg))

/-- Every lane operation of a request, in increasing logical index; the entry is freed. -/
def performRequest (q : AwlReq) (s : State) : State :=
  (q.lanes.foldl (performLane q) { s with awl := s.awl.filter (fun x => x.id != q.id) })

/-- Lines a request touches. -/
def AwlReq.lines (q : AwlReq) : List (Nat × Nat) := q.lanes.map (fun l => (l.loc.key.1, l.loc.key.2 / 64))

/-- AWL_PERFORM: a request of an owner of this module, unless an older one of its queue names one of its lines. -/
def execAwlPerform (owner index : Nat) (s : State) : Host.Outcome State Fault Refusal :=
  let queue := s.awl.filter (fun q => q.owner == owner && q.op != 0)
  match queue[index]? with
  | none => s.idle
  | some q =>
    if 320 ≤ owner || (queue.take index).any (fun x => x.lines.any (fun l => q.lines.contains l)) then s.idle
    else .next (performRequest q s)

end Sys2Proof.Machine
end

