-- ==== Sys2Proof/Machine/Complete.lean ====
section
/-! DEFINITION. Copies as the engine carries them out (R47 to R51, R148), and the completion of counted operations in issue order
(R52, R53). -/

namespace Sys2Proof.Machine

/-! ### The Saddlebag's logical contents (R360) -/

/-- Bytes written at a logical offset; poison per 64-bit word, cleared where a word is covered whole. -/
def Team.putSb (x : Team) (off : Nat) (bs : List Byte) : Team :=
  { x with
    sb := x.sb.putList 0 off bs
    sbWritten := (List.range bs.length).foldl (fun m i => NatSet.set m (off + i) true) x.sbWritten
    sbPoison := clearCovered x.sbPoison 8 off bs.length }

/-- A byte of a reservation that nothing has written: a free value of its grant, zero or a value that a team of the tenant has written to
the partition's Saddlebags (R360, log 5). -/
def Resv.unwritten (r : Resv) (o : Nat) : Byte :=
  let b := Config.saddlebagByte r.grant o
  if NatSet.has r.past b.toNat then b else 0

/-- A byte of a reservation. -/
def Team.sbByte (x : Team) (r : Resv) (o : Nat) : Byte :=
  if NatSet.has x.sbWritten (64 * r.unit + o) then x.sb.get 0 (64 * r.unit + o) else r.unwritten o

/-- Byte values written to the Saddlebags of a partition. -/
def State.noteSb (s : State) (part : Nat) (bs : List Byte) : State :=
  s.updPartition part (fun p => { p with sbPast := bs.foldl (fun m b => NatSet.set m b.toNat true) p.sbPast })

def Team.sbBad (x : Team) (r : Resv) (o : Nat) : Bool := NatSet.has x.sbPoison ((64 * r.unit + o) / 8)

/-! ### Segments -/

/-- The pieces of len bytes between 4 KiB boundaries of either side: source address, destination address, length. -/
def pieces (toSb : Bool) : Nat → Nat → Nat → Nat → List (Nat × Nat × Nat)
  | 0, _, _, _ => []
  | fuel + 1, src, dst, len =>
    if len = 0 then []
    else
      let n := min len (min (4096 - src % 4096) (if toSb then 4096 else 4096 - dst % 4096))
      (src, dst, n) :: pieces toSb fuel (src + n) (dst + n) (len - n)

/-- One byte as the engine reads it: memory, not the cache (R51), with the staged writes of a DET team (R149). -/
def State.engineByte (s : State) (t : Nat) (l : Loc) : Byte × Bool :=
  let r := s.detOverlay t l ([s.memByte l], s.memPoison l)
  (r.1.getD 0 0, r.2)

def State.segRead (s : State) (t : Nat) (g : Segment) : List (Byte × Bool) :=
  (List.range g.len).map (fun i => s.engineByte t (g.src.plus i))

/-- A byte that a copy moves: where it comes from, where it goes (a location, or a Saddlebag offset), and its value and poison as read. -/
structure Moved where
  src : Loc
  dst : Loc
  sb : Option Nat
  val : Byte × Bool
  deriving DecidableEq, Repr

/-- The bytes of a copy, as its engine reads them before it writes any. spoiled: those its staging buffer has spoiled (R57). -/
def State.moved (s : State) (t : Nat) (segs : List Segment) (spoiled : NatSet) : List Moved :=
  let bs := (segs.map (fun g => (List.range g.len).map (fun i =>
    Moved.mk (g.src.plus i) (g.dst.plus i) (g.sb.map (· + i)) (s.engineByte t (g.src.plus i))))).flatten
  bs.zipIdx.map (fun q => { q.1 with val := (q.1.val.1, q.1.val.2 || NatSet.has spoiled q.2) })

/-- The poisoned units that a copy's source reads find (R58, R390). -/
def poisonedUnits (bs : List Moved) : Nat :=
  (((bs.filter (·.val.2)).map (·.src.unit)).dedup).length

/-- The byte of a copy that changes the source byte of byte i, where byte i takes its source's value after the copy. -/
def afterOf (bs : List (Moved × Bool)) (i : Nat) : Option Nat :=
  match bs[i]? with
  | some (b, true) => bs.findIdx? (fun x => x.1.sb.isNone && b.sb.isNone && x.1.dst.key == b.src.key)
  | _ => none

/-- The bytes that the value of byte i comes by, in fuel steps. -/
def afterPath (bs : List (Moved × Bool)) : Nat → Nat → List Nat
  | 0, _ => []
  | fuel + 1, i => match afterOf bs i with
    | none => []
    | some j => j :: afterPath bs fuel j

/-- Byte i is the lowest of a cycle of bytes each of which would take the value of the next after the copy: it takes its value before. -/
def cycleHead (bs : List (Moved × Bool)) (i : Nat) : Bool :=
  let p := afterPath bs bs.length i
  p.contains i && p.all (fun j => decide (i ≤ j))

/-- What a byte holds after a copy some of whose source bytes it changes itself: where a source byte is a destination of the copy too, the
value before the copy or the one after it, a free choice of each byte (R48, log 7). -/
def afterValue (bs : List (Moved × Bool)) : Nat → Nat → Byte × Bool
  | 0, i => ((bs[i]?).map (·.1.val)).getD (0, false)
  | fuel + 1, i => match (if cycleHead bs i then none else afterOf bs i) with
    | none => ((bs[i]?).map (·.1.val)).getD (0, false)
    | some j => afterValue bs fuel j

/-- Of the bytes of a copy that reach one byte of memory through two addresses one is the last, a free choice (R50, log 80). -/
def State.lastWriters (s : State) (bs : List Moved) : List Moved × State :=
  bs.foldl (fun (r : List Moved × State) b =>
    if b.sb.isNone && r.1.any (fun x => x.sb.isNone && x.dst.key == b.dst.key) then
      let (i, s) := r.2.choose 2
      if i = 0 then (r.1.filter (fun x => !(x.sb.isNone && x.dst.key == b.dst.key)) ++ [b], s) else (r.1, s)
    else (r.1 ++ [b], r.2)) ([], s)

/-- A copy changes bytes that it reads, or one byte through two addresses. -/
def aliased (segs : List Segment) : Bool :=
  segs.any (fun a => segs.any (fun b => b.sb.isNone && a.src.overlaps a.len b.dst b.len)) ||
    !(segs.filter (·.sb.isNone)).Pairwise (fun a b => !a.dst.overlaps a.len b.dst b.len)

/-- The values the destination bytes receive. -/
def State.settleMoved (s : State) (bs : List Moved) : List Moved × State :=
  let (bs, s) := s.lastWriters bs
  let dsts := (bs.filter (·.sb.isNone)).map (·.dst.key)
  let (cs, s) := bs.foldl (fun (r : List (Moved × Bool) × State) b =>
    if b.sb.isNone && dsts.contains b.src.key then
      let (i, s) := r.2.choose 2
      (r.1 ++ [(b, decide (i = 1))], s)
    else (r.1 ++ [(b, false)], r.2)) (([], s) : List (Moved × Bool) × State)
  (cs.zipIdx.map (fun b => { b.1.1 with val := afterValue cs cs.length b.2 }), s)

/-- One byte stored where it goes. -/
def State.putMoved (s : State) (t c : Nat) (b : Moved) : State :=
  match b.sb with
  | some o => s.updTeam t (fun x => x.putSb o [b.val.1])
  | none =>
    let s := (match b.dst with
      | .hbm pa _ => s.dropTouched c pa 1
      | _ => s)
    (s.putLoc (partOf c) b.dst [b.val.1]).ownWrite (s.team t).launch b.dst 1

/-- Units that the copy covers whole lose their mark, and every destination unit that receives a poisoned byte is poisoned (R58). wrote: what
earlier parts of it have written. -/
def State.markMoved (s : State) (t : Nat) (bs : List Moved) (wrote : List (Loc × Bool)) : State :=
  let sb := bs.filterMap (·.sb)
  let keys := (bs.filter (·.sb.isNone)).map (·.dst.key) ++ wrote.map (·.1.key)
  let s := (s.clearWhole keys).updTeam t (fun x => { x with sbPoison := x.sbPoison.filter (fun e => !(List.range 8).all (fun i => sb.contains (8 * e.1 + i))) })
  (bs.filter (·.val.2)).foldl (fun s b => match b.sb with
    | some o => s.updTeam t (fun x => { x with sbPoison := NatSet.set x.sbPoison (o / 8) true })
    | none => s.poisonLoc b.dst 1) ((wrote.filter (·.2)).foldl (fun s w => s.poisonLoc w.1 1) s)

/-- A whole copy: every source byte is read, then every destination byte written (R48, R51, R58), all in one step (log 80). -/
def State.moveSegs (s : State) (t c : Nat) (segs : List Segment) (spoiled : NatSet) (wrote : List (Loc × Bool)) : State :=
  let read := s.moved t segs spoiled
  let s := s.count (partOf c) 9 (poisonedUnits (s.moved t segs []))
  let (bs, s) := if aliased segs then s.settleMoved read else (read, s)
  let s := (bs.foldl (fun s b => s.putMoved t c b) s).noteSb (partOf c) ((bs.filter (·.sb.isSome)).map (·.val.1))
  s.markMoved t bs wrote

/-- Segments without their first n bytes. -/
def dropSegs : Nat → List Segment → List Segment
  | _, [] => []
  | n, g :: r =>
    if n = 0 then g :: r
    else if g.len ≤ n then dropSegs (n - g.len) r
    else Segment.mk (g.srcVa + n) (g.dstVa + n) (g.len - n) (g.src.plus n) (g.dst.plus n) (g.sb.map (· + n)) :: r

/-! ### Finishing an operation -/

def State.setOp (s : State) (o : Op) : State := { s with ops := s.ops.map (fun x => if x.id == o.id then o else x) }

def State.finish (s : State) (id : Nat) : State := { s with ops := s.ops.map (fun x => if x.id == id then { x with finished := true } else x) }

/-- The segments of an operation. -/
def OpKind.segs : OpKind → List Segment
  | .copy g _ => g
  | .xcpy g => g
  | .xred g _ _ _ => g
  | _ => []

def OpKind.isXred : OpKind → Bool
  | .xred _ _ _ _ => true
  | _ => false

/-- Two segments share a byte that one of them writes. -/
def Segment.meets (a b : Segment) : Bool :=
  (a.sb.isNone && (a.dst.overlaps a.len b.src b.len || (b.sb.isNone && a.dst.overlaps a.len b.dst b.len))) ||
    (b.sb.isNone && a.src.overlaps a.len b.dst b.len) ||
    (match a.sb, b.sb with
      | some x, some y => decide (x < y + b.len ∧ y < x + a.len)
      | _, _ => false)

/-- The unfinished operations of an operation's groups and counter that issued before it and share bytes with it: they come first
(R50, R92). Reductions combine at the peer in the order of their source indices instead (R353). -/
def State.olderOps (s : State) (o : Op) : List Op :=
  s.ops.filter (fun x => decide (x.id < o.id) && !x.finished && x.team == o.team && x.counter == o.counter &&
    x.groups.any (fun g => o.groups.contains g) &&
    !(x.kind.isXred && o.kind.isXred) && (x.kind.segs ++ x.rest).any (fun a => (o.kind.segs ++ o.rest).any (fun b => a.meets b)))

/-- An operation waits for the ticket: a part of it does, or one that comes first (R150). -/
def State.opPaused : Nat → Op → State → Bool
  | 0, _, _ => true
  | fuel + 1, o, s => (!o.rest.isEmpty && !s.holdsTicket o.team) || (s.olderOps o).any (fun x => State.opPaused fuel x s)

/-- An operation cannot end yet: a part of it, or of one that comes first, waits for the ticket (R150), or one that comes first waits for a
remote side. -/
def State.opHeld : Nat → Op → State → Bool
  | 0, _, _ => true
  | fuel + 1, o, s =>
    (!o.rest.isEmpty && !s.holdsTicket o.team) || (s.olderOps o).any (fun x => x.remote || State.opHeld fuel x s)

/-- The elements of an XRED: value and destination address. -/
def xredElems (size : Nat) (dst : Nat) (bs : List Byte) : List (Nat × List Byte) :=
  (List.range (bs.length / size)).map (fun e => (dst + e * size, (bs.drop (e * size)).take size))

/-- XRED at the peer: its elements combine in address order (R353). -/
def State.runXred (s : State) (o : Op) (segs : List Segment) (aop atype : Nat) : State :=
  let size := atypeSize atype
  let x := s.team o.team
  let s := s.count (partOf x.cluster) 9 (poisonedUnits (s.moved o.team segs []))
  segs.foldl (fun s g =>
    (xredElems size 0 ((s.segRead o.team g).map (·.1))).foldl (fun s q =>
      ((s.rmw x.tenant x.cluster (g.dst.plus q.1) size (fun old => some (atomNew aop atype old (leNat q.2)))).2).ownWrite x.launch
        (g.dst.plus q.1) size) s) s

/-- An operation's own bytes move. -/
def State.runOwn (s : State) (o : Op) : State :=
  let s := s.performBefore o
  let c := (s.team o.team).cluster
  match o.kind with
  | .xred segs aop atype _ => s.runXred o segs aop atype
  | k => s.moveSegs o.team c (k.segs ++ o.rest) o.spoiled o.wrote

/-- A copy or transfer ends, after those that come first. -/
def State.runOp : Nat → Nat → State → State
  | 0, _, s => s
  | fuel + 1, id, s =>
    match s.op id with
    | none => s
    | some o =>
      if o.finished then s
      else (((s.olderOps o).foldl (fun s x => s.runOp fuel x.id) s).runOwn o).finish id

/-- What of a paused copy need not wait for the ticket, after the operations that come before that. -/
def State.runUnpaused (s : State) (o : Op) : State :=
  let n := (o.kind.segs.map (·.len)).sum
  ((((s.olderOps { o with rest := [] }).foldl (fun s x => s.runOp 64 x.id) s).runOwn { o with rest := [] })).setOp
    { o with kind := .copy [] none, spoiled := (o.spoiled.filter (fun e => decide (n ≤ e.1))).map (fun e => (e.1 - n, e.2)) }

/-! ### Recording completions (R53) -/

/-- The operations of one counter of one group, in issue order. -/
def State.groupOps (s : State) (t g k : Nat) : List Op :=
  s.ops.filter (fun o => o.team == t && o.counter == k && o.groups.contains g)

/-- Record the finished operations of one counter of one group that no unfinished one precedes. What they wrote is visible to the
group's later accesses: lines that its atomics touched leave the issuing cluster's cache (R54, log 17). -/
def State.recordGroup (s : State) (t g k : Nat) : State :=
  let fin := (s.groupOps t g k).takeWhile (·.finished)
  let ids := fin.map (·.id)
  let touched := (fin.map (·.lines)).flatten
  let s := s.dropLines (fun x => x.cluster == (s.team t).cluster && touched.contains x.line)
  let s := s.updGroup t g (fun x => { x with counters := x.counters.upd 0 k (fun n => n - ids.length) })
  let left := s.ops.map (fun o => if ids.contains o.id then { o with groups := o.groups.filter (· != g) } else o)
  { s with ops := left.filter (fun o => !o.groups.isEmpty) }

/-- Record for every group an operation counts in. -/
def State.recordOp (s : State) (id : Nat) : State :=
  match s.op id with
  | none => s
  | some o => o.groups.foldl (fun s g => s.recordGroup o.team g o.counter) s

/-- An operation whose work is done at issue: finished, and recorded if it may be. -/
def State.finishNow (s : State) (id : Nat) : State := (s.finish id).recordOp id

/-! ### Write-backs (R65) -/

/-- A performed flight's registers are written. -/
def State.writeBack (s : State) (f : Flight) : State :=
  let put (s : State) (w : RegWrite) : State :=
    if f.uniform then s.updGroup f.team f.group (fun g => g.sSetP w.reg w.val w.poison)
    else s.updThread f.team f.group f.lane (fun th => th.vSetP w.reg w.val w.poison)
  let s := (f.writes.filter (fun w => !f.cancel.contains w.reg)).foldl put s
  s.dropFlight f.id

/-- The lanes of a load word that lie in one 64-byte line of this module arrive together (R447, log 39). -/
def Flight.sameLine (f g : Flight) : Bool :=
  f.id == g.id || (f.kind == .load && g.kind == .load && f.team == g.team && f.word == g.word && !f.loc.remote && f.loc.key.1 == g.loc.key.1 &&
    f.loc.key.2 / 64 == g.loc.key.2 / 64)

def State.lineMates (s : State) (f : Flight) : List Flight := s.flights.filter (fun g => f.sameLine g)

/-- A flight that has been performed, and those that arrive with it, are written back. -/
def State.arrive (s : State) (f : Flight) : State :=
  let s := (s.lineMates f).foldl (fun s g => s.perform g.id) s
  (s.lineMates f).foldl (fun s g => s.writeBack g) s

/-- PENDING_WRITEBACK. -/
def execPendingWriteback (flight : Nat) (s : State) : Host.Outcome State Fault Refusal :=
  match s.flight flight with
  | none => s.idle
  | some f => if f.performed then .next (s.arrive f) else s.idle

/-- ACCESS_PERFORMED: a store or load of this module is performed (R346). -/
def execAccessPerformed (flight : Nat) (s : State) : Host.Outcome State Fault Refusal :=
  match s.flight flight with
  | none => s.idle
  | some f =>
    if f.performed || f.kind == .result || f.kind == .sweep || f.loc.remote then s.idle else .next (s.perform flight)

/-- The lanes of a gather or scatter that are left: performed and written back. -/
def State.finishLanes (s : State) (id : Nat) : State :=
  let s := (s.flights.filter (fun f => f.op == some id && !f.performed)).foldl (fun s f => s.perform f.id) s
  (s.flights.filter (fun f => f.op == some id && f.performed)).foldl (fun s f => s.writeBack f) s

/-- Whether the engine can finish an operation now. Those of a remote side wait for its answer. -/
def State.finishable (s : State) (o : Op) : Bool :=
  match o.kind with
  | .copy segs _ => !o.remote && (!s.opHeld 64 o || (!segs.isEmpty && !o.rest.isEmpty && !s.opHeld 64 { o with rest := [] }))
  | .lanes => !s.flights.any (fun f => f.op == some o.id && !f.performed && f.loc.remote)
  | .atomics => !s.awl.any (fun q => q.op == o.id)
  | _ => false

/-- The rest of an operation's work. -/
def State.finishOp (s : State) (o : Op) : State :=
  match o.kind with
  | .copy _ _ => if s.opHeld 64 o then s.runUnpaused o else s.runOp 64 o.id
  | .lanes | .atomics => (s.finishLanes o.id).finish o.id
  | _ => s

/-- COUNTER_COMPLETION: an operation finishes, and what can be recorded is recorded (R53). -/
def execCounterCompletion (op : Nat) (s : State) : Host.Outcome State Fault Refusal :=
  match s.op op with
  | none => s.idle
  | some o =>
    if o.finished then .next (s.recordOp op)
    else if s.finishable o then .next ((s.finishOp o).recordOp op)
    else s.idle

end Sys2Proof.Machine
end

