-- ==== Sys2Proof/Machine/ReinOps.lean ====
section
/-! DEFINITION. Rein blocks (R133 to R139): names, the block in the owner's fabric bytes, its state, and one push or pop. -/

namespace Sys2Proof.Machine

/-- A rein name (R133): byte offset of the block, port, member. -/
structure ReinName where
  off : Nat
  port : Nat
  member : Nat
  deriving DecidableEq, Repr

def reinName (w : Word) : ReinName := ⟨64 * bitsOf w.toNat 15 0, bitsOf w.toNat 19 16, bitsOf w.toNat 31 20⟩

/-- The member index a name means for a team: its own for 0xFFF. -/
def Team.reinMember (x : Team) (n : ReinName) : Nat := if n.member = 0xFFF then x.member else n.member

/-- A MEMBER that is neither 0xFFF nor below the gang's size. -/
def Team.reinBad (x : Team) (n : ReinName) : Bool := n.member != 0xFFF && decide (x.gangSize ≤ n.member)

def Team.reinOwn (x : Team) (n : ReinName) : Bool := x.reinMember n == x.member

/-- The team that is member k of a team's gang, if it stands. -/
def State.memberTeam (s : State) (t k : Nat) : Option Nat :=
  if (s.team t).member = k then some t
  else s.liveTeams.find? (fun u => (s.team u).launch == (s.team t).launch && (s.team u).member == k)

/-- How a rein stands (R137). -/
inductive ReinState where
  | pending | opened | closed
  deriving DecidableEq, Repr

/-- The fabric byte of a block of a team. -/
def State.reinKey (s : State) (t off : Nat) : Nat := (s.team t).base + (s.lpbOf t).declOff + off

def State.reinGet (s : State) (t off field len : Nat) : Nat :=
  leNat (s.fab.getList 0 ((s.team t).cluster * 2 ^ 23 + s.reinKey t off + field) len)

def State.reinPut (s : State) (t off field len v : Nat) : State :=
  s.putFab (s.team t).cluster (s.reinKey t off + field) (leBytes len v)

/-- The state of member k's rein at an offset: the owner's guard and STATE; a member that started and is gone has closed its
reins (R184). -/
def State.reinState (s : State) (t k off : Nat) : ReinState :=
  match s.memberTeam t k with
  | none => if k < (s.launchOf t).next then .closed else .pending
  | some u =>
    let x := s.team u
    if x.exited then .closed
    else if !x.started then .pending
    else if x.guard.contains off then (if s.reinGet u off 0 4 % 4 = 1 then .opened else .closed)
    else .pending

/-- S and NP of a configuration word (R136). -/
def cfgSlots (cfg : Nat) : Nat := bitsOf cfg 8 0
def cfgPorts (cfg : Nat) : Nat := bitsOf cfg 12 9 + 1
def cfgAllow (cfg : Nat) : Nat := bitsOf cfg 21 13

def State.reinCfg (s : State) (u off : Nat) : Nat := s.reinGet u off 4 4
def State.reinCount (s : State) (u off : Nat) : Nat := s.reinGet u off 0x0C 4
def State.reinAllow (s : State) (u off port : Nat) : Nat := s.reinGet u off (0x10 + 2 * port) 2
def State.setAllow (s : State) (u off port v : Nat) : State := s.reinPut u off (0x10 + 2 * port) 2 v

/-- The handle's write into the ring (R138). -/
def State.reinStore (s : State) (u off port : Nat) (h : Word) : State :=
  let n := s.reinCount u off
  let slot := (s.reinGet u off 8 4 + n) % cfgSlots (s.reinCfg u off)
  (s.reinPut u off (0x40 + 8 * slot) 8 (h.toNat + port * 2 ^ 32)).reinPut u off 0x0C 4 (n + 1)

/-- A push with an allowance: the unit is taken and the handle stored. -/
def State.reinPush (s : State) (u off port : Nat) (h : Word) : State :=
  (s.setAllow u off port (s.reinAllow u off port - 1)).reinStore u off port h

/-- A pop of a rein with a handle: the handle, and its port gains an allowance. -/
def State.reinPop (s : State) (u off : Nat) : Word × State :=
  let hd := s.reinGet u off 8 4
  let e := s.reinGet u off (0x40 + 8 * hd) 8
  let p := bitsOf e 35 32
  let s := (s.reinPut u off 8 4 ((hd + 1) % cfgSlots (s.reinCfg u off))).reinPut u off 0x0C 4 (s.reinCount u off - 1)
  (BitVec.ofNat 32 e, s.setAllow u off p (s.reinAllow u off p + 1))

/-- Whether a PUSH can act: the rein is closed (it traps), or open with an allowance or with no such port (it traps). -/
def State.pushReady (s : State) (t k off port : Nat) : Bool :=
  match s.reinState t k off, s.memberTeam t k with
  | .closed, _ => true
  | .opened, some u => decide (cfgPorts (s.reinCfg u off) ≤ port) || decide (0 < s.reinAllow u off port)
  | _, _ => false

/-- Whether a POP can act: a handle stands in the ring, or the rein is closed. -/
def State.popReady (s : State) (t off : Nat) : Bool :=
  match s.reinState t (s.team t).member off with
  | .closed => true
  | .opened => decide (0 < s.reinCount t off)
  | .pending => false

/-- The teams whose threads may name a team's reins: its gang's. -/
def State.reinTeams (s : State) (t : Nat) : List Nat :=
  if (s.team t).gangSize = 1 then [t] else s.liveTeams.filter (fun u => (s.team u).launch == (s.team t).launch)

/-- The order of arrival of the threads that wait at a rein of a team's gang. -/
def State.reinWaiters (s : State) (t : Nat) (w : ReinWait) : List Nat :=
  ((s.reinTeams t).map (fun u =>
    ((s.groupsOf u).map (fun g => (List.range (s.lpbOf u).w).filterMap (fun l =>
      let th := s.thread u g l
      if th.rein = some w then some th.arrived else none))).flatten)).flatten

/-- No other thread has come to the rein before one that came at number a (R138). -/
def State.reinFirst (s : State) (t : Nat) (w : ReinWait) (a : Nat) : Bool := (s.reinWaiters t w).all (fun x => decide (a ≤ x))

/-- Whether the tenant's permissions allow a push, or a pop, of a block of member k: the bits of the cluster it stands on (R22). The
traps' kind and address are those of log 72. -/
def State.reinAllowed (s : State) (t k : Nat) (push : Bool) : Bool :=
  match s.memberTeam t k with
  | none => true
  | some u =>
    let x := s.team u
    let i := s.clusterIndex x.tenant x.cluster
    s.fwPerm x.tenant i false && (!push || s.fwPerm x.tenant i true)

/-- The address of a block in the fabric window. -/
def State.reinVa (s : State) (t k off : Nat) : Dword :=
  match s.memberTeam t k with
  | none => 0
  | some u => let x := s.team u; BitVec.ofNat 64 (s.fwLo x.tenant + s.fabricOffset x.tenant x.cluster (s.reinKey u off))

/-- At team exit every rein is closed and leaves the guard (R137). -/
def State.closeReins (s : State) (t : Nat) : State :=
  ((s.team t).guard.foldl (fun s o => s.reinPut t o 0 4 2) s).updTeam t (fun x => { x with guard := [] })

end Sys2Proof.Machine
end

