-- ==== Sys2Proof/Machine/SeamOps.lean ====
section
/-! DEFINITION. The rows of a seam frontier and the completion of a point (R202, R207, R208, R211), the group's end (R308), and the
writes of the engines to a tenant's memory. -/

namespace Sys2Proof.Machine

/-! ### The space (R202) -/

/-- E(NDIM − 1). -/
def Seam.lastExtent (x : Seam) (b : Lpb) : Nat := if x.ndim = 1 then b.e0 else if x.ndim = 2 then b.e1 else b.e2

/-- The row count. -/
def Seam.rowCount (x : Seam) (b : Lpb) : Nat := b.e0 * b.e1 * b.e2 / x.lastExtent b

def Seam.rowOf (x : Seam) (b : Lpb) (n : Nat) : Nat := n / x.lastExtent b
def Seam.posOf (x : Seam) (b : Lpb) (n : Nat) : Nat := n % x.lastExtent b

/-- Size of the record without its running list, and with it (R207). -/
def Seam.listOff (x : Seam) (b : Lpb) : Nat := roundUp (0x100 + 16 * x.rowCount b) 256
def Seam.recordSize (x : Seam) (b : Lpb) : Nat := x.listOff b + 16 * x.runcap

/-! ### Rows (R208, R209) -/

/-- While bit 0 of the window is set, it moves on. -/
def SeamRow.normalise : Nat → SeamRow → SeamRow
  | 0, r => r
  | fuel + 1, r => if r.window.getLsbD 0 then SeamRow.normalise fuel ⟨r.prefixLen + 1, r.window >>> 1⟩ else r

/-- A position becomes complete. -/
def SeamRow.complete (r : SeamRow) (pos : Nat) : SeamRow :=
  SeamRow.normalise 64 { r with window := r.window ||| (1#64 <<< (pos - r.prefixLen)) }

/-- Whether a position counts as complete. -/
def SeamRow.has (r : SeamRow) (pos : Nat) : Bool :=
  decide (pos < r.prefixLen) || (decide (pos - r.prefixLen < 64) && r.window.getLsbD (pos - r.prefixLen))

def SeamRow.bytes (r : SeamRow) : List Byte := leBytes 4 r.prefixLen ++ leBytes 4 0 ++ leBytes 8 r.window.toNat

/-- The Seam unit writes bytes of a launch's record at scope .sys, as far as its pages still allow. -/
def State.seamWrite (s : State) (n off : Nat) (bs : List Byte) : State :=
  let x := s.launch n
  s.writeVaPart (s.engineCluster x.tenant) x.tenant (x.seamUnit.record + off) bs

/-- The unit's state of a launch changes. -/
def State.updSeam (s : State) (n : Nat) (f : Seam → Seam) : State := s.updLaunch n (fun x => { x with seamUnit := f x.seamUnit })

/-- SEQ counts an update of the record, and is written (R207, log 30). -/
def State.bumpSeq (s : State) (n : Nat) : State :=
  let s := s.updSeam n (fun u => { u with seq := u.seq + 1 })
  s.seamWrite n 0x98 (leBytes 8 (s.launch n).seamUnit.seq)

/-- RSTATE in the unit and in the record. -/
def State.setRstate (s : State) (n v : Nat) : State :=
  ((s.updSeam n (fun u => { u with rstate := v })).seamWrite n 0x80 (leBytes 4 v)).bumpSeq n

/-- The marks of a completed point in the unit's state. -/
def Seam.mark (u : Seam) (b : Lpb) (ix : Nat) : Seam :=
  { u with
    rows := u.rows.upd {} (u.rowOf b ix) (fun r => r.complete (u.posOf b ix))
    doneCount := u.doneCount + 1
    running := u.running.map (fun r => if r.index = ix then { r with done := true } else r) }

/-- A point completes: its row, DONECOUNT and SEQ are updated and written (R208, R211). -/
def State.completePoint (s : State) (t : Nat) : State :=
  let x := s.team t
  let b := (s.launch x.launch).lpb
  let s := (s.updTeam t (fun x => { x with pointDone := true })).updSeam x.launch (fun u => u.mark b x.index)
  let u := (s.launch x.launch).seamUnit
  let row := u.rowOf b x.index
  ((s.seamWrite x.launch (0x100 + 16 * row) (u.rows.get {} row).bytes).seamWrite x.launch 0x90 (leBytes 8 u.doneCount)).bumpSeq x.launch

/-- A group is done; with the last group of a seam point's team the point completes. -/
def State.groupDone (s : State) (t g : Nat) : State :=
  let s := s.updGroup t g (fun x => { x with done := true })
  if (s.lpbOf t).seam && !(s.team t).pointDone && (s.groupsOf t).all (fun k => (s.group t k).done) then s.completePoint t else s

/-! ### The end of a thread (R308) -/

/-- Threads of a group that have not exited, as lanes. -/
def State.liveLanes (s : State) (t g : Nat) : List Nat :=
  (List.range (s.lpbOf t).w).filter (fun l => (s.thread t g l).status != .exited)

/-- A bundle that holds every thread of each of its groups that has not exited (R211, R354). -/
def Ctx.full (c : Ctx) (s : State) : Bool := c.b.groups.all (fun g => (s.liveLanes c.team g).all (fun l => c.mems.contains (g, l)))

/-- The last thread of a group has exited: the group is done, has executed ISL.STEP, and breaks the rendezvous that await it. -/
def State.groupExit (s : State) (t g : Nat) : State :=
  if (s.liveLanes t g).isEmpty then
    let s := State.breakGangs 8 t g ((s.updGroup t g (fun x => { x with arrived := true })).groupDone t g)
    if (s.groupsOf t).all (fun k => (s.liveLanes t k).isEmpty) then
      (s.closeReins t).updTeam t (fun x => { x with exited := true })
    else s
  else s

/-- The accesses of threads of a team performed, as the completion fence of a seam point asks (R92, R211). -/
def State.performThreads (s : State) (t : Nat) (ms : List Member) : State :=
  (s.flights.filter (fun f => f.team == t && ms.contains (f.group, f.lane) && !f.performed && f.op.isNone)).foldl
    (fun s f => s.perform f.id) s

/-- Threads of a team exit: STATE 0, out of every mask, and their groups test their masks. -/
def State.exitThreads (s : State) (t : Nat) (ms : List Member) : State :=
  let s := if (s.lpbOf t).seam then s.performThreads t ms else s
  let s := ms.foldl (fun s m =>
    let s := s.updThread t m.1 m.2 (fun x => { x with status := .exited, y := {}, ySaved := {} })
    s.updGroup t m.1 (fun x => { x with joins := (List.range 8).foldl (fun j n =>
      j.put 0 n (j.get 0 n &&& ~~~(1#64 <<< m.2))) x.joins })) s
  let gs := (ms.map (·.1)).dedup
  gs.foldl (fun s g => (s.joinTest t g).groupExit t g) s

end Sys2Proof.Machine
end

