-- ==== Sys2Proof/Machine/MatrixOps.lean ====
section
/-! DEFINITION. Matrix arithmetic and operands: block dot products and their accumulation (R254 to R258), operands in registers and
in the Saddlebag with their checks (R356 to R358), SMMA masks (R369), tiles (R74, R364). -/

namespace Sys2Proof.Machine

/-! ### Accumulation (R256, R257) -/

def FVal.isNan : FVal → Bool
  | .nan _ _ => true
  | _ => false

/-- RoundF32 of a running element plus an exact number; an infinite element stays, and a sum with 0 changes nothing (R256). -/
def addExact (d : Nat) (i : Dy) : Nat :=
  match fmtF32.decode false d with
  | .inf _ => d
  | v => if i.1 = 0 then d else (fmtF32.roundDy .rne false false (Dy.add v.dy i)).1

/-- The exact sum of products; those with an operand 0 contribute 0. -/
def dotSum (ts : List (FVal × FVal)) : Dy := ts.foldl (fun s p => Dy.add s (Dy.mul p.1.dy p.2.dy)) (0, 0)

/-- One block of a T8 or T6 element; sc is the sum of the scale exponents, none a NaN scale (R256). -/
def blockT (d : Nat) (ts : List (FVal × FVal)) (sc : Option Int) : Nat :=
  if fmtF32.isNan d then fmtF32.quiet d
  else if ts.any (fun p => p.1.isNan || p.2.isNan) then fmtF32.canonNan
  else match sc with
    | none => fmtF32.canonNan
    | some e => addExact d (Dy.mul (dotSum ts) (1, e))

/-- The one block of a BF16 or FP16 element (R257). -/
def blockH (d : Nat) (ts : List (FVal × FVal)) : Nat :=
  if fmtF32.isNan d then fmtF32.quiet d
  else if ts.any (fun p => p.1.isNan || p.2.isNan) then fmtF32.canonNan
  else if ts.any (fun p => (p.1.isInf && p.2.isZero) || (p.1.isZero && p.2.isInf)) then fmtF32.canonNan
  else
    let infs := (ts.filter (fun p => p.1.isInf || p.2.isInf)).map (fun p => p.1.sign != p.2.sign)
    let all := match fmtF32.decode false d with
      | .inf s => s :: infs
      | _ => infs
    if infs.isEmpty then addExact d (dotSum ts)
    else if all.all id then fmtF32.infBits true
    else if all.all (!·) then fmtF32.infBits false
    else fmtF32.canonNan

/-! ### Operands -/

/-- K of a format (R362). -/
def mmaK (fmt : Nat) : Nat := if fmt = 0 then 64 else if fmt = 1 then 128 else 16
/-- Element size in bytes. -/
def mmaE (fmt : Nat) : Nat := if fmt ≤ 1 then 1 else 2

/-- An element by its stored bits (R241, R254). -/
def mmaElem (fmt x : Nat) : FVal :=
  match fmt with
  | 0 => decodeT 7 (x % 256)
  | 1 => decodeT 5 (x % 64)
  | 2 => fmtBf16.decode false x
  | _ => fmtF16.decode false x

/-- A matrix operand: 32 rows of K elements, and per row the scale exponent of each block. -/
structure MatOperand where
  rows : List (List FVal)
  scales : List (List (Option Int))

def rowsOfBytes (fmt : Nat) (rows : List (List Byte)) : List (List FVal) :=
  rows.map (fun r => (List.range (mmaK fmt)).map (fun k => mmaElem fmt (leNat ((r.drop (k * mmaE fmt)).take (mmaE fmt)))))

/-- Whether the lane of a group belongs to a thread that has not exited. -/
def Group.laneLive (g : Group) (l : Nat) : Bool := (g.thread l).status != .exited

/-- The word of a lane that a matrix word reads: 0 in an exited lane (R354). -/
def Group.laneWord (g : Group) (l r : Nat) : Word := if g.laneLive l then (g.thread l).vGet r else 0

/-- An operand in registers from v(f) on (R356). -/
def Group.regRows (g : Group) (w fmt f : Nat) : List (List Byte) :=
  let rw := mmaK fmt * mmaE fmt / 4
  (List.range 32).map (fun i => ((List.range rw).map (fun k =>
    let n := i * rw + k
    leBytes 4 (g.laneWord (n % w) (f + n / w)).toNat)).flatten)

/-- A poisoned word among the registers v(f) to v(f + n − 1) of lanes that live. -/
def Group.regsPoison (g : Group) (w f n : Nat) : Bool :=
  (List.range w).any (fun l => g.laneLive l && (List.range n).any (fun k => NatSet.has (g.thread l).vPoison (f + k)))

/-- An operand in the Saddlebag: its descriptor pair and tile index (R357). -/
structure SbRef where
  even : Nat
  odd : Nat
  qt : Nat
  deriving DecidableEq, Repr

def SbRef.id (x : SbRef) : Nat := bitsOf x.even 7 0
def SbRef.rowp (x : SbRef) : Nat := bitsOf x.odd 11 0
/-- Where row i begins. -/
def SbRef.ro (x : SbRef) (i : Nat) : Nat := bitsOf x.even 25 8 + x.qt * bitsOf x.odd 23 12 * 64 + i * x.rowp

/-- Fields of a reservation record (R77). -/
def Resv.fmt (r : Resv) : Nat := bitsOf r.r0.toNat 3 0
def Resv.blk (r : Resv) : Nat := 16 * 2 ^ bitsOf r.r0.toNat 5 4
def Resv.scl (r : Resv) : Bool := r.r0.getLsbD 6
def Resv.size (r : Resv) : Nat := bitsOf r.r1.toNat 12 0
def Resv.soff (r : Resv) : Nat := bitsOf r.r2.toNat 17 0
def Resv.spitch (r : Resv) : Nat := bitsOf r.r2.toNat 29 18

/-- The reservation a descriptor names; id 0 and ids above 15 name none. -/
def Team.resvOf (x : Team) (id : Nat) : Resv := if id = 0 then {} else x.resv.get {} id

/-- The scale byte of row i for block b. -/
def SbRef.scaleAt (x : SbRef) (r : Resv) (fmt i b : Nat) : Nat :=
  r.soff + x.ro i / x.rowp * r.spitch + ((x.ro i % x.rowp) / mmaE fmt + b * r.blk) / r.blk

def mmaBlocks (fmt blk : Nat) : Nat := if fmt ≤ 1 then mmaK fmt / blk else 1

/-- Every byte an operand reads: elements, then scales. -/
def SbRef.bytes (x : SbRef) (r : Resv) (fmt : Nat) : List Nat :=
  ((List.range 32).map (fun i => (List.range (mmaK fmt * mmaE fmt)).map (fun k => x.ro i + k))).flatten ++
    (if r.scl then ((List.range 32).map (fun i => (List.range (mmaBlocks fmt r.blk)).map (fun b => x.scaleAt r fmt i b))).flatten else [])

/-- The checks of R358 in order, each for every operand before the next. -/
def Team.sbCheck (t : Team) (fmt : Nat) (xs : List SbRef) : Option Cause :=
  let r (x : SbRef) : Resv := t.resvOf x.id
  let rows := List.range 32
  if xs.any (fun x => decide (2 ^ 26 ≤ x.even) || decide (2 ^ 28 ≤ x.odd)) then some .illegalOperand
  else if xs.any (fun x => !(r x).live) then some .access
  else if xs.any (fun x => (r x).fmt != fmt || x.rowp == 0 || rows.any (fun i => x.ro i % mmaE fmt != 0)) then some .illegalOperand
  else if decide (fmt ≤ 1) && xs.any (fun x => rows.any (fun i => (x.ro i % x.rowp / mmaE fmt) % (r x).blk != 0)) then
    some .illegalOperand
  else if xs.any (fun x => xs.any (fun y => (r x).blk != (r y).blk)) then some .illegalOperand
  else if xs.any (fun x => (x.bytes (r x) fmt).any (fun o => decide (64 * (r x).size ≤ o))) then some .access
  else if xs.any (fun x => (x.bytes (r x) fmt).any (fun o => t.sbBad (r x) o)) then some .poisonRead
  else none

/-- An operand in the Saddlebag, read. -/
def Team.sbOperand (t : Team) (fmt : Nat) (x : SbRef) : MatOperand :=
  let r := t.resvOf x.id
  { rows := rowsOfBytes fmt ((List.range 32).map (fun i => (List.range (mmaK fmt * mmaE fmt)).map (fun k => t.sbByte r (x.ro i + k))))
    scales := (List.range 32).map (fun i => (List.range (mmaBlocks fmt r.blk)).map (fun b =>
      if r.scl then
        let e := (t.sbByte r (x.scaleAt r fmt i b)).toNat
        if e = 255 then none else some ((e : Int) - 127)
      else some 0)) }

/-- An operand in registers: scale exponent 0 in every block. -/
def Group.regOperand (g : Group) (w fmt f blk : Nat) : MatOperand :=
  { rows := rowsOfBytes fmt (g.regRows w fmt f), scales := List.replicate 32 (List.replicate (mmaBlocks fmt blk) (some 0)) }

/-! ### SMMA masks (R369) -/

/-- Of four mask bits, at most the two lowest set ones. -/
def keepTwo (b : Nat) : List Bool :=
  (List.range 4).map (fun k => b.testBit k && decide (((List.range k).filter (fun i => b.testBit i)).length < 2))

/-- Elements kept in each row. -/
def Group.kept (g : Group) (w fmt vk : Nat) : List (List Bool) :=
  let k := mmaK fmt
  let n := if w ≤ 32 then 32 / w else 1
  (List.range 32).map (fun i => ((List.range (k / 4)).map (fun q =>
    keepTwo ((g.laneWord (i % w) (vk + q / 8 * n + (if w ≤ 32 then i / w else 0))).toNat / 2 ^ (4 * (q % 8)) % 16))).flatten)

def keepAll (fmt : Nat) : List (List Bool) := List.replicate 32 (List.replicate (mmaK fmt) true)

/-! ### The product (R255, R363) -/

/-- Terms of one element in one block; elements not kept are no terms. -/
def termsOf (kept : List Bool) (a b : List FVal) (lo n : Nat) : List (FVal × FVal) :=
  ((((kept.zip (a.zip b)).drop lo).take n).filter (·.1)).map (·.2)

def elemOf (fmt blk c : Nat) (kept : List Bool) (a b : List FVal) (sa sb : List (Option Int)) : Nat :=
  if fmt ≤ 1 then
    (List.range (mmaBlocks fmt blk)).foldl (fun d n =>
      let e := match sa.getD n (some 0), sb.getD n (some 0) with
        | some x, some y => some (x + y)
        | _, _ => none
      blockT d (termsOf kept a b (n * blk) blk) e) c
  else blockH c (termsOf kept a b 0 16)

/-- A tile's value as it is read: +0.0 while V is 0 (R74). -/
def Tile.read (a : Tile) : TileVal := if a.v then a.val else {}

def Tile.bad (a : Tile) : Bool := a.v && !a.val.poison.isEmpty

/-- A · B added to a tile. -/
def product (fmt blk : Nat) (c : TileVal) (kept : List (List Bool)) (a b : MatOperand) : TileVal :=
  { elems := (List.range 32).foldl (fun m i => (List.range 32).foldl (fun m j =>
      m.put 0 (32 * i + j) (BitVec.ofNat 32 (elemOf fmt blk (c.elems.get 0 (32 * i + j)).toNat (kept.getD i [])
        (a.rows.getD i []) (b.rows.getD j []) (a.scales.getD i []) (b.scales.getD j [])))) m) []
    poison := [] }

/-- dims: none selects the full shape; whether a value breaks R362, and whether the shape is empty. -/
def dimsOf (fmt : Nat) (d : Option Word) : Bool × Bool :=
  match d with
  | none => (false, false)
  | some w =>
    let m := bitsOf w.toNat 7 0
    let n := bitsOf w.toNat 15 8
    let k := bitsOf w.toNat 23 16
    ((m != 0 && m != 32) || (n != 0 && n != 32) || (k != 0 && k != mmaK fmt) || decide (2 ^ 24 ≤ w.toNat), m == 0 || n == 0 || k == 0)

/-- The shared operands of a matrix word, with the group and width they are read in. -/
structure MatWord where
  a : BitVec 8
  b : BitVec 8
  e : XExt
  sparse : Bool
  deriving DecidableEq, Repr

def MatWord.fmt (m : MatWord) : Nat := m.e.fmt.toNat

def Group.ref (g : Group) (p : BitVec 8) (qt : Nat) : SbRef :=
  ⟨(g.sGet (2 * p.toNat)).toNat, (g.sGet (2 * p.toNat + 1)).toNat, qt⟩

/-- Poison of the registers a matrix word reads: descriptor pairs, operands, mask (R81). -/
def MatWord.regsBad (m : MatWord) (g : Group) (w : Nat) : Bool :=
  let side (sb : Bool) (x : BitVec 8) : Bool :=
    if sb then g.sBad (2 * x.toNat) || g.sBad (2 * x.toNat + 1) else g.regsPoison w x.toNat (mmaRegs m.e.fmt w)
  side m.e.asb m.a || side m.e.bsb m.b || (m.sparse && g.regsPoison w m.e.mask.toNat (maskRegs m.e.fmt w))

/-- An operand register of the word is out of range (R356, R357, R369). -/
def MatWord.outside (m : MatWord) (l : Lpb) : Bool := (mmaSets m.a m.b m.e m.sparse l.w).any (·.bad l.nv l.nu)

/-- The Saddlebag operands of a word for tile indices qs of B, A first. -/
def MatWord.refs (m : MatWord) (g : Group) (qs : List Nat) : List SbRef :=
  (if m.e.asb then [g.ref m.a 0] else []) ++ (if m.e.bsb then qs.map (fun q => g.ref m.b q) else [])

/-- What a word's shared operands give: a cause, or A, the B of each tile index, BLK and the kept elements. -/
def State.fetchMat (s : State) (t : Nat) (g : Group) (m : MatWord) (qs : List Nat) :
    Except Cause (MatOperand × List MatOperand × Nat × List (List Bool)) :=
  let x := s.team t
  let w := (s.lpbOf t).w
  let refs := m.refs g qs
  if m.outside (s.lpbOf t) then .error .illegalOperand
  else if m.regsBad g w then .error .poisonRead
  else match x.sbCheck m.fmt refs with
    | some k => .error k
    | none =>
      let blk := (refs.head?.map (fun r => (x.resvOf r.id).blk)).getD 16
      let a := if m.e.asb then x.sbOperand m.fmt (g.ref m.a 0) else g.regOperand w m.fmt m.a.toNat blk
      let b := qs.map (fun q => if m.e.bsb then x.sbOperand m.fmt (g.ref m.b q) else g.regOperand w m.fmt m.b.toNat blk)
      .ok (a, b, blk, if m.sparse then g.kept w m.fmt m.e.mask.toNat else keepAll m.fmt)

/-- The poisoned Saddlebag words that a word's operands find (R58, R390): none where an earlier check fails. -/
def State.matPoison (s : State) (t : Nat) (g : Group) (m : MatWord) (qs : List Nat) : Nat :=
  let x := s.team t
  match s.fetchMat t g m qs with
  | .error .poisonRead =>
    if m.regsBad g (s.lpbOf t).w then 0
    else (((m.refs g qs).map (fun r => (((r.bytes (x.resvOf r.id) m.fmt).filter (fun o => x.sbBad (x.resvOf r.id) o)).map (fun o =>
      (64 * (x.resvOf r.id).unit + o) / 8)))).flatten).dedup.length
  | _ => 0

/-- The grants a word's Saddlebag operands hold until its result arrives (R79). -/
def State.grantsOf (s : State) (t : Nat) (g : Group) (m : MatWord) : List Nat :=
  (m.refs g [0]).map (fun r => ((s.team t).resvOf r.id).grant)

/-- A result on its way to a tile (R355); filler in the core's matrix slices stops (R433). -/
def State.sendTile (s : State) (t g d : Nat) (v : Option TileVal) (held : List Nat) : State :=
  (s.updGroup t g (fun x => { x with tiles := x.tiles.upd {} d (fun a => { a with f := true, next := v, held := held, byLoad := false }) })).stopFiller
    (s.group t g).core 2

/-- A tile load sets F; what it has read arrives later. -/
def State.sendLoad (s : State) (t g d : Nat) (v : TileVal) : State :=
  s.updGroup t g (fun x => { x with tiles := x.tiles.upd {} d (fun a => { a with f := true, next := some v, held := [], byLoad := true }) })

/-- A tile written at once (R370). -/
def State.setTile (s : State) (t g d : Nat) (v : TileVal) : State :=
  s.updGroup t g (fun x => { x with tiles := x.tiles.upd {} d (fun a => { a with val := v, v := true, d := true }) })

def State.tile (s : State) (t g n : Nat) : Tile := (s.group t g).tiles.get {} n

end Sys2Proof.Machine
end

