-- ==== Sys2Proof/Machine/Home.lean ====
section
/-! DEFINITION. A team's image at its home in memory (R60): what a fill takes from it (R73), and the Saddlebag contents that a
suspension saves and a resumption restores (R80). -/

namespace Sys2Proof.Machine

/-! ### Memory as an engine sees it -/

/-- Bytes of the tenant's memory with their poison, as an engine reads them; 0 where one cannot be read. -/
def State.engineRead (s : State) (tn va n : Nat) : List (Byte × Bool) :=
  (List.range n).map (fun i => match (s.access (s.engineCluster tn) tn ((va + i : Nat) : Int) 1 .read false true).1 with
    | .ok l => (s.memByte l, s.memPoison l)
    | .error _ => (0, false))

/-- A walk for one of the bytes meets a poisoned page-table entry: a fault of the tenant (R408). -/
def State.walkBad (s : State) (tn va n : Nat) : Bool :=
  (List.range n).any (fun i => match (s.access (s.engineCluster tn) tn ((va + i : Nat) : Int) 1 .read false true).1 with
    | .error .walkPoison => true
    | _ => false)

/-- The same bytes read, with the tenant's fault where a walk meets poison. -/
def State.orWalkFault (s : State) (tn : Nat) (bad : Bool) : State := if bad then s.walkFault tn else s

/-- A word of an image in memory, and whether a poisoned unit holds a part of it. -/
def State.homeWord (s : State) (tn va : Nat) : Word × Bool :=
  let bs := s.engineRead tn va 4
  (leWord (bs.map (·.1)), bs.any (·.2))

/-- Bytes with poison into a slice. -/
def State.putFabP (s : State) (c b : Nat) (bs : List (Byte × Bool)) : State :=
  let s := s.putFab c b (bs.map (·.1))
  (List.range bs.length).foldl (fun s i => if (bs.getD i (0, false)).2 then s.poisonLoc (.fabric c (b + i)) 1 else s) s

/-- Bytes with poison to a tenant's memory, as far as the checks allow. -/
def State.writeVaP (s : State) (c tn va : Nat) (bs : List (Byte × Bool)) : State :=
  let s := s.writeVaPart c tn va (bs.map (·.1))
  (List.range bs.length).foldl (fun s i =>
    if (bs.getD i (0, false)).2 then
      (match (s.access c tn ((va + i : Nat) : Int) 1 .write false true).1 with
        | .ok l => s.poisonLoc l 1
        | .error _ => s)
    else s) s

/-! ### The Saddlebag (R80) -/

/-- The live reservations, by rising id: the offset of each in the save area, packed. -/
def Team.saved (x : Team) : List (Resv × Nat) :=
  ((List.range 15).foldl (fun (r : List (Resv × Nat) × Nat) i =>
    let e := x.resv.get {} (i + 1)
    if e.live then (r.1 ++ [(e, r.2)], r.2 + 64 * e.size) else r) ([], 0)).1

/-- What a suspension writes to the save area. -/
def Team.saveSb (x : Team) : SbSave :=
  x.saved.foldl (fun (v : SbSave) e =>
    let n := 64 * e.1.size
    { bytes := v.bytes.putList 0 e.2 ((List.range n).map (fun o => x.sbByte e.1 o))
      poison := (List.range (n / 8)).foldl (fun m k => NatSet.set m (e.2 / 8 + k) (x.sbBad e.1 (8 * k))) v.poison }) {}

/-- A resumption brings the save area's bytes and poison back. -/
def Team.restoreSb (x : Team) : Team :=
  x.saved.foldl (fun (y : Team) e =>
    let n := 64 * e.1.size
    let lo := 64 * e.1.unit
    { y with
      sb := y.sb.putList 0 lo (x.sbSave.bytes.getList 0 e.2 n)
      sbWritten := (List.range n).foldl (fun m i => NatSet.set m (lo + i) true) y.sbWritten
      sbPoison := (List.range (n / 8)).foldl (fun m k => NatSet.set m (lo / 8 + k) (NatSet.has x.sbSave.poison (e.2 / 8 + k))) y.sbPoison }) x

/-! ### Words of an image that stands in memory -/

/-- What an image's words read as: by offset in it, value and poison. -/
abbrev Home := Nat → Word × Bool

/-- STATE as an image holds it (R71): a blocked thread reissues its word (R72). A code that R71 does not name leaves the thread as it was
(log 60). -/
def statusOf (old : Status) (w : Nat) : Status :=
  match w % 8 with
  | 0 => .exited
  | 1 => .ready
  | 2 => .parked (w / 16 % 8)
  | 3 => match old with
    | .blocked v => .blocked v
    | _ => .ready
  | 4 => .handler
  | 5 => .stopped
  | _ => old

/-- The bits of a lane-state word that its field has; the reserved ones read as 0 (R242, R398). -/
def laneBits (off : Nat) (w : Word) : Word :=
  match off / 4 with
  | 2 => w &&& 0xFF
  | 4 => w &&& 0x7
  | 5 => w &&& 0xFF
  | 9 => w &&& 0x3FFFFFF
  | _ => w

/-- A lane's state block. A DEPTH above D leaves the depth as it was (log 60). -/
def Thread.loadLane (p : Lpb) (rd : Nat → Word) (th : Thread) : Thread :=
  let th := { th with status := statusOf th.status (rd 12).toNat }
  [0, 4, 8, 16, 20, 24, 28, 32, 36, 40, 44, 48, 52, 56, 60].foldl (fun th o =>
    let w := laneBits o (rd o)
    if laneHolds p o w then laneSet th o w else th) th

/-- A latch word with its poison, where the image shows it. -/
def Thread.loadLatch (th : Thread) (n : Nat) (w : Word) (bad : Bool) : Thread :=
  let put (y : Latches) : Latches := { y with val := y.val.put 0 n (if bad then 0 else w), poison := NatSet.set y.poison n bad }
  if th.status == .handler || th.status == .stopped then { th with ySaved := put th.ySaved } else { th with y := put th.y }

/-- One thread of a group image; at_ reads the image, bad the bit of its poison map. -/
def Thread.load (p : Lpb) (at_ : Home) (bad : Nat → Nat → Bool) (l : Nat) (th : Thread) : Thread :=
  let th := th.loadLane p (fun o => (at_ (p.laneOff + 64 * l + o)).1)
  let th := (List.range 4).foldl (fun th n =>
    let r := at_ (p.latchOff + n * p.line + 4 * l)
    th.loadLatch n r.1 (r.2 || bad (64 + 8 * n) l)) th
  let th := (List.range p.nv).foldl (fun th n =>
    let r := at_ (p.vecOff + n * p.line + 4 * l)
    th.vSetP n r.1 (r.2 || bad (96 + 8 * n) l)) th
  (List.range p.d).foldl (fun th f =>
    let o := p.stackOff + 8 * (f * p.w + l)
    { th with frames := th.frames.put 0 f (joinWords (at_ o).1 (at_ (o + 4)).1) }) th

/-- A tile of a group image. -/
def Tile.load (p : Lpb) (at_ : Home) (bad : Nat → Nat → Bool) (n : Nat) (a : Tile) : Tile :=
  let o := p.tileOff + 4096 * n
  let poison := (List.range 512).foldl (fun m w =>
    NatSet.set m w ((at_ (o + 8 * w)).2 || (at_ (o + 8 * w + 4)).2 || bad (96 + 8 * p.nv + 64 * n) w)) []
  { a with
    val := ⟨(List.range 1024).foldl (fun m i => m.put 0 i (if NatSet.has poison (i / 2) then 0 else (at_ (o + 4 * i)).1)) [], poison⟩
    v := (at_ 0x28).1.getLsbD n, d := (at_ 0x2C).1.getLsbD n }

/-- A group from its image: header, registers, lanes, tiles and poison map. -/
def Group.load (p : Lpb) (at_ : Home) (x : Group) : Group :=
  let bad (o b : Nat) : Bool := (at_ (p.mapOff + o + b / 32 * 4)).1.getLsbD (b % 32)
  let x := { x with
    g := joinWords (at_ 0x20).1 (at_ 0x24).1
    joins := (List.range 8).foldl (fun j n =>
      j.put 0 n (joinWords (at_ (0x40 + 8 * n)).1 (at_ (0x44 + 8 * n)).1 &&& BitVec.ofNat 64 (2 ^ p.w - 1))) x.joins }
  let x := (List.range p.nu).foldl (fun x n => x.sSetP n (at_ (256 + 4 * n)).1 ((at_ (256 + 4 * n)).2 || bad (8 * (n / 64)) (n % 64))) x
  { x with
    threads := (List.range p.w).foldl (fun ts l => Sparse.upd {} ts l (Thread.load p at_ bad l)) x.threads
    tiles := (List.range p.nt).foldl (fun ts n => Sparse.upd {} ts n (Tile.load p at_ bad n)) x.tiles }

/-- The lowest logical unit at which a size fits beside the entries of a table. -/
def unitFor (tab : Sparse Resv) (size : Nat) : Nat :=
  let free (u : Nat) : Bool := tab.all (fun e => !e.2.live || decide (u < e.2.unit ∨ e.2.unit + e.2.size ≤ u))
  ((List.range 8192).find? (fun u => (List.range size).all (fun k => free (u + k)))).getD 0

/-- The reservation table and the save area. An entry whose record is 0 is none. An entry that lived with this size keeps its units, as R80
restores it; one that a write of the image has made takes the lowest free ones (log 60). -/
def Team.loadTable (x : Team) (sbb : Nat) (at_ : Home) : Team :=
  let read (i : Nat) : Resv :=
    let w (k : Nat) : Word := (at_ (0x100 + 32 * i + 4 * k)).1
    { x.resv.get {} (i + 1) with live := w 0 != 0 || w 1 != 0 || w 2 != 0 || w 3 != 0, r0 := w 0, r1 := w 1, r2 := w 2, r3 := w 3 }
  let stays (i : Nat) : Bool := let e := x.resv.get {} (i + 1); e.live && (read i).live && (read i).size == e.size
  let kept := (List.range 15).foldl (fun (r : Sparse Resv) i => if stays i then r.put {} (i + 1) (read i) else r) []
  let tab := (List.range 15).foldl (fun (r : Sparse Resv) i =>
    if (read i).live && !stays i then r.put {} (i + 1) { read i with unit := unitFor r (read i).size } else r) kept
  { x with
    resv := tab
    sbSave :=
      { bytes := (List.range (sbb / 4)).foldl (fun m i => m.putList 0 (4 * i) (leBytes 4 (at_ (0x300 + 4 * i)).1.toNat)) []
        poison := (List.range (sbb / 4)).foldl (fun m i => if (at_ (0x300 + 4 * i)).2 then NatSet.set m (i / 2) true else m) [] } }

/-- A poisoned unit holds a word of the image that is no register word: a fault of the team (R408). -/
def Lpb.homeBad (p : Lpb) (at_ : Home) : Bool :=
  (List.range (p.imageSize / 4)).any (fun i => (at_ (4 * i)).2 && (match p.place (4 * i) with
    | some (_, .fixed) | some (_, .lane _ _) | some (_, .frame _ _ _) => true
    | none => decide (4 * i < 0x300)
    | _ => false))

/-- A moved team is filled from the image at a virtual address, and its declared bytes come back into its range of a slice. What the
Cinch and the Seam unit hold of it stays with them (R458). -/
def State.loadMoved (s : State) (t : Nat) (a : Nat) : State :=
  let x := s.team t
  let b := s.lpbOf t
  let at_ : Home := fun o => s.homeWord x.tenant (a + o)
  let decl := s.engineRead x.tenant (a + b.declOff) (x.region - b.declOff)
  let y := x.loadTable b.sbb at_
  let y := { y with groups := (List.range b.groups).foldl (fun gs g => Sparse.upd {} gs g (Group.load b (fun o => at_ (b.groupOff g + o)))) y.groups }
  let s' := (s.setTeam t y).putFabP x.cluster (x.base + b.declOff) decl
  if s.walkBad x.tenant a x.region then s'.walkFault x.tenant
  else if b.homeBad at_ then { s' with agenda := ⟨0, .event (.teamFault t)⟩ :: s'.agenda } else s'

end Sys2Proof.Machine
end

