-- ==== Sys2Proof/Machine/LaunchOps.lean ====
section
/-! DEFINITION. Launch parameter blocks (R189), the pending-launch pools (R197), launch handles (R375) and the completion record
(R191). -/

namespace Sys2Proof.Machine

/-! ### The launch parameter block -/

/-- An LPB's fields from its 128 bytes (R189). -/
def parseLpb (bs : List Byte) : Lpb :=
  let w (off : Nat) : Nat := leNat ((bs.drop off).take 4)
  let d (off : Nat) : Dword := leDword ((bs.drop off).take 8)
  let cfg := w 0x08
  let regs := w 0x0C
  let bit (n : Nat) : Bool := cfg / 2 ^ n % 2 == 1
  let seam := bit 22
  { entry := d 0x00, wcode := bitsOf cfg 1 0, t := bitsOf cfg 13 2, prio := bitsOf cfg 15 14, retry := bitsOf cfg 18 16,
    det := bit 19, idem := bit 20, gang := bit 21, seam := seam, isl := bit 23, ord := bit 24,
    nv := bitsOf regs 6 0 + 1, nu := bitsOf regs 15 7 + 1, nt := bitsOf regs 20 16, d8 := bitsOf regs 26 21,
    fabric := w 0x10, sbb := w 0x14, stg := bitsOf (w 0x18) 2 0, argn := w 0x1C, argaddr := d 0x20, features := d 0x28,
    e0 := if seam then 0 else w 0x30, e1 := if seam then 0 else w 0x34, e2 := if seam then 0 else w 0x38, desc := if seam then d 0x30 else 0,
    refdig := d 0x40, event := d 0x48, tag := d 0x50,
    reserved := decide (2 ^ 25 ≤ cfg) || decide (2 ^ 27 ≤ regs) || decide (8 ≤ w 0x18) || w 0x3C != 0 || (seam && w 0x38 != 0) ||
      ((bs.drop 0x58).take 40).any (· != 0) }

/-! ### The pools (R197) -/

def Partition.entry (p : Partition) (e : Nat) : PoolEntry := p.pool.get {} e

/-- Free entries of a partition's pool. -/
def Partition.freeEntries (p : Partition) : Nat := 4096 - (p.pool.filter (fun e => e.2.live)).length

/-- The lowest free entry. -/
def Partition.freeEntry (p : Partition) : Option Nat := (List.range 4096).find? (fun e => !(p.entry e).live)

def State.updEntry (s : State) (p e : Nat) (f : PoolEntry → PoolEntry) : State :=
  s.updPartition p (fun x => { x with pool := x.pool.upd {} e f })

/-- An entry that nothing holds any more is free: its handle is closed, its LPB has been taken, and a DET child has completed. -/
def PoolEntry.settle (e : PoolEntry) : PoolEntry :=
  if e.closed && e.taken && (!(parseLpb e.lpb).det || e.status != 0) then {} else e

def State.settleEntry (s : State) (p e : Nat) : State := s.updEntry p e PoolEntry.settle

/-! ### Handles (R375) -/

def Team.handle (x : Team) (h : Nat) : Option Handle := x.handles.find? (fun k => k.handle == h)

/-- The child's completion status through a handle: 0 while it is pending or runs. -/
def State.childStatus (s : State) (k : Handle) : Nat := ((s.partition k.partition).entry k.entry).status

/-- A handle is closed, and its entry freed if nothing else holds it. -/
def State.closeHandle (s : State) (t : Nat) (k : Handle) : State :=
  ((s.updTeam t (fun x => { x with handles := x.handles.filter (fun q => q.handle != k.handle) })).updEntry k.partition k.entry
    (fun e => { e with closed := true })).settleEntry k.partition k.entry

/-! ### Completion (R191) -/

/-- The statuses of R191. -/
def stDone : Nat := 1
def stBadLpb : Nat := 2
def stDetConflict : Nat := 3
def stFootprint : Nat := 4
def stNoFeature : Nat := 5
def stSeamBad : Nat := 6
def stArgFault : Nat := 7
def stEntryFault : Nat := 8
def stReferenceFault : Nat := 9
def stSerialMatch : Nat := 10
def stSerialDiffer : Nat := 11
def stKilled : Nat := 12
def stDigestDiffer : Nat := 13

/-- Bytes written at scope .sys one by one until one fails; whether all were written. guard: a write for a thread, a store of its cluster
(R46, R389), which guarded bytes refuse. keys: the bytes written before. -/
def State.writeFrom (s : State) (guard : Bool) (c tn va : Nat) (keys : List (Nat × Nat)) : List Byte → Bool × State
  | [] => (true, s.clearWhole keys)
  | b :: r =>
    match s.accessNow c tn (va : Int) 1 .write with
    | (.ok l, s) =>
      if guard && s.guardedLoc tn va l 1 then (false, s.clearWhole keys)
      else (if guard then s.storeLoc c l [b] else s.putLoc (partOf c) l [b]).writeFrom guard c tn (va + 1) (l.key :: keys) r
    | (.error _, s) => (false, s.clearWhole keys)

def State.writeUntil (s : State) (guard : Bool) (c tn va : Nat) (bs : List Byte) : Bool × State := s.writeFrom guard c tn va [] bs

/-- The completion record: bytes 0x08 to 0x1F, then STATUS. A fault drops the rest and is reported. -/
def State.completionRecord (s : State) (n : Nat) (b : Lpb) (tn status : Nat) (digest : Dword) (teams : Nat) : State :=
  if b.event = 0 then s
  else
    let c := s.engineCluster tn
    let a := b.event.toNat
    match s.writeUntil false c tn (a + 8) (leBytes 8 digest.toNat ++ leBytes 8 b.tag.toNat ++ leBytes 8 teams) with
    | (false, s) => s.notice (.eventFault n b.tag)
    | (true, s) =>
      match s.writeUntil false c tn a (leBytes 4 status ++ leBytes 4 0) with
      | (false, s) => s.notice (.eventFault n b.tag)
      | (true, s) => s

/-- What follows the record of launch n: MSI-X for a queue's launch, the status for a parent's LWAIT in the entry, if it is still that
child's. -/
def State.reportCompletion (s : State) (n : Nat) (src : Source) (tn status teams : Nat) : State :=
  match src with
  | .queue q => s.notice (.msix tn ((s.tenant tn).queues.get {} q).vec)
  | .pool p e =>
    if ((s.partition p).entry e).launch = n then (s.updEntry p e (fun x => { x with status := status, teams := teams })).settleEntry p e else s
  | .lacing _ _ => s

/-- A launch that its parent made has completed: the parent waits for one child less. -/
def State.childDone (s : State) (n : Nat) : State :=
  match (s.launch n).parent with
  | some p => s.updLaunch p (fun x => { x with children := x.children - 1 })
  | none => s

/-- A launch completes with a status. -/
def State.completeLaunch (s : State) (n status : Nat) (digest : Dword) : State :=
  let x := s.launch n
  let s := s.completionRecord n x.lpb x.tenant status digest x.retired
  let s := (s.reportCompletion n x.source x.tenant status x.retired).childDone n
  s.updLaunch n (fun x => { x with completed := true })

/-- A launch that has completed, and of which no team stands, is given up; the space of a seam launch stays for those linked to it. -/
def State.forgetLaunch (s : State) (n : Nat) : State :=
  if (s.launch n).completed && !s.liveTeams.any (fun t => (s.team t).launch == n) then
    { s.closeCode n with
      launches := s.launches.del n
      spaces := if (s.launch n).lpb.seam then s.spaces.put {} n (s.launch n) else s.spaces }
  else s

end Sys2Proof.Machine
end

