-- ==== Sys2Proof/Machine/Place.lean ====
section
/-! DEFINITION. Room on cores and in fabric slices (R168, R194, R195), the start of a team (R196), and a suspended team's way out of
and back into a core (R60, R64, R80, R183, R198). -/

namespace Sys2Proof.Machine

/-! ### Room (R195) -/

/-- Threads of a core, bytes of a slice, Saddlebag bytes of a core pair. -/
def coreSlots : Nat := 2048
def sliceBytes : Nat := 8388608
def pairSaddlebag : Nat := 524288

/-- A team that holds thread slots and Saddlebag space: not one suspended, and not a DET team that has exited (R151). -/
def State.onCore (s : State) (t : Nat) : Bool :=
  let x := s.team t
  x.live && !x.suspended && !x.awaiting && !((s.lpbOf t).det && x.exited)

/-- Groups of a team on a core. -/
def State.groupsAt (s : State) (t core : Nat) : Nat := ((s.groupsOf t).filter (fun g => (s.group t g).core == core)).length

def State.freeSlots (s : State) (core : Nat) : Nat :=
  coreSlots - ((s.liveTeams.filter s.onCore).map (fun t => s.groupsAt t core * (s.lpbOf t).w)).sum

/-- A team stands on the pair of a core. -/
def State.onPair (s : State) (t core : Nat) : Bool := (s.groupsOf t).any (fun g => (s.group t g).core / 2 == core / 2)

/-- A copy or a matrix operation of a team still works with its reservations (R79). -/
def State.sbBusy (s : State) (t : Nat) : Bool :=
  s.ops.any (fun o => o.team == t && !o.finished && (match o.kind with
    | .copy _ (some _) => true
    | _ => false)) ||
    (s.groupsOf t).any (fun g => (s.group t g).tiles.any (fun a => a.2.f && !a.2.held.isEmpty))

/-- A team whose Saddlebag space is in use: one on its core, and a DET team that has exited while an operation names its reservations. -/
def State.holdsSb (s : State) (t : Nat) : Bool :=
  s.onCore t || ((s.team t).live && (s.team t).exited && !(s.team t).suspended && !(s.team t).awaiting && s.sbBusy t)

def State.freeSaddlebag (s : State) (core : Nat) : Nat :=
  pairSaddlebag - ((s.liveTeams.filter (fun t => s.holdsSb t && s.onPair t core)).map (fun t => (s.lpbOf t).sbb)).sum

/-- A launch is a child, or a child's descendant, of the team that holds the ticket of launch a (R153). -/
def State.descends (s : State) : Nat → Nat → Nat → Bool
  | 0, _, _ => false
  | fuel + 1, n, a => match (s.launch n).parent with
    | some p => if p = a then (s.launch n).made.map (·.1) == some (s.launch a).ticket else s.descends fuel p a
    | none => false

/-- The ranges of a cluster's slice a team of launch n may not take: those of regions, and those owed to others, which only launches
descended from the ticket holder may take (R153). -/
def State.takenIn (s : State) (c n : Nat) : List (Nat × Nat) :=
  let owed := s.liveTeams.filter (fun t => (s.team t).cluster == c && (s.team t).swapped.isSome &&
    !s.descends 32 n (s.team t).launch)
  sortBy (fun a b => decide (a.1 ≤ b.1)) ((s.regionsIn c ++ owed).map (fun t => ((s.team t).base, (s.team t).region)))

/-- Free ranges between taken ones: first byte, length. -/
def gapsFrom : Nat → List (Nat × Nat) → List (Nat × Nat)
  | lo, [] => [(lo, sliceBytes - lo)]
  | lo, (b, n) :: r => (lo, b - lo) :: gapsFrom (max lo (b + n)) r

/-- Where a region of a size can begin, 256-byte aligned: first base and number of bases, for each free range. -/
def basesIn (size : Nat) (gaps : List (Nat × Nat)) : List (Nat × Nat) :=
  (gaps.filter (fun g => decide (size ≤ g.2))).map (fun g => (g.1, (g.2 - size) / 256 + 1))

def State.bases (s : State) (c n size : Nat) : List (Nat × Nat) := basesIn size (gapsFrom 0 (s.takenIn c n))

/-- The i-th base. -/
def baseAt : Nat → List (Nat × Nat) → Nat
  | _, [] => 0
  | i, (b, k) :: r => if i < k then b + 256 * i else baseAt (i - k) r

/-- A team of a launch has room for its region in a cluster: one that returns to its own cluster has it there. -/
def State.regionFits (s : State) (c n size : Nat) (home : Option Nat) : Bool :=
  home == some c || !(s.bases c n size).isEmpty

/-! ### Trying cores (R194) -/

/-- Where a team goes: the core of the first groups, how many they are, and the core of the rest. -/
structure Spot where
  first : Nat
  count : Nat
  rest : Nat
  deriving DecidableEq, Repr

def Spot.core (p : Spot) (g : Nat) : Nat := if g < p.count then p.first else p.rest

/-- Features and quarantine (R195, R198). -/
def State.coreOk (s : State) (b : Lpb) (core : Nat) : Bool :=
  !(s.core core).quar && ((s.core core).feat &&& b.features == b.features)

def State.trySingle (s : State) (n : Nat) (b : Lpb) (home : Option Nat) (core : Nat) : Option Spot :=
  if s.coreOk b core && decide (b.t ≤ s.freeSlots core) && decide (b.sbb ≤ s.freeSaddlebag core) &&
      s.regionFits (clusterOf core) n b.region home then some ⟨core, b.groups, core⟩ else none

/-- A pair: the lower core takes whole groups while it has slots. -/
def State.tryPair (s : State) (n : Nat) (b : Lpb) (home : Option Nat) (low : Nat) : Option Spot :=
  let k := min b.groups (s.freeSlots low / b.w)
  if s.coreOk b low && s.coreOk b (low + 1) && decide (b.t ≤ s.freeSlots low + s.freeSlots (low + 1)) &&
      decide (b.groups - k ≤ s.freeSlots (low + 1) / b.w) && decide (b.sbb ≤ s.freeSaddlebag low) &&
      s.regionFits (clusterOf low) n b.region home then some ⟨low, k, low + 1⟩ else none

/-- Core k of a tenant, numbered 6k + j (R194), as a module core. -/
def State.tenantCore (s : State) (tn k : Nat) : Nat := 6 * s.moduleCluster tn (k / 6) + k % 6

/-- The tenant's cores from a number on, wrapping round. -/
def State.coreOrder (s : State) (tn from_ : Nat) : List Nat :=
  let n := 6 * s.nclus tn
  (List.range n).map (fun i => s.tenantCore tn ((from_ + i) % n))

/-- The tenant's pairs, from the one that holds a core number. -/
def State.pairOrder (s : State) (tn from_ : Nat) : List Nat :=
  let n := 3 * s.nclus tn
  (List.range n).map (fun i => s.tenantCore tn (2 * ((from_ / 2 + i) % n)))

/-- The spot a team of a launch gets on the allowed cores: single cores first, then pairs. -/
def State.findSpot (s : State) (tn n : Nat) (home : Option Nat) (ok : Nat → Bool) : Option Spot :=
  let b := (s.launch n).lpb
  let p := (s.tenant tn).place
  match ((s.coreOrder tn p).filter ok).findSome? (s.trySingle n b home) with
  | some x => some x
  | none => ((s.pairOrder tn p).filter (fun c => ok c && ok (c + 1))).findSome? (s.tryPair n b home)

/-- The number of a module core among the tenant's. -/
def State.coreNumber (s : State) (tn core : Nat) : Nat := 6 * s.clusterIndex tn (clusterOf core) + core % 6

/-- The pointer moves to the core after the last one used. -/
def State.movePointer (s : State) (tn : Nat) (p : Spot) : State :=
  let n := 6 * s.nclus tn
  s.updTenant tn (fun x => { x with place := (s.coreNumber tn p.rest + 1) % n })

/-! ### Starting a team (R196) -/

/-- The argument words in s1 on. -/
def argRegs (args : List Word) : Sparse Word := Sparse.putList 0 [] 1 args

def startThread (entry : Dword) (clk : Nat) : Thread := { pc := entry, status := .ready, readyAt := clk }

def State.startGroup (s : State) (b : Lpb) (args : List Word) (core : Nat) : Group :=
  { live := true, core := core, s := argRegs args,
    threads := (List.range b.w).map (fun l => (l, startThread b.entry (s.core core).clk.toNat)) }

/-- The groups of a team as it starts, on the cores of a spot. -/
def State.startGroups (s : State) (b : Lpb) (args : List Word) (p : Spot) : Sparse Group :=
  (List.range b.groups).map (fun g => (g, s.startGroup b args (p.core g)))

/-- A team of launch n starts: index, gang place, spot. Where its region begins is a free choice among the free ranges. The start
fence acquires. -/
def State.startTeam (s : State) (n index member gangSize : Nat) (p : Spot) : Nat × State :=
  let x := s.launch n
  let b := x.lpb
  let c := clusterOf p.first
  let bs := s.bases c n b.region
  let (i, s) := s.choose ((bs.map (·.2)).sum)
  let (t, s) := s.fresh
  let team : Team :=
    { live := true, tenant := x.tenant, launch := n, index := index, cluster := c, base := baseAt i bs, region := b.region,
      groups := s.startGroups b x.args p, member := member, gangSize := gangSize, started := true }
  (t, ((((s.setTeam t team).movePointer x.tenant p).updLaunch n (fun y => { y with next := y.next + 1 })).clearCache c).openCode n)

/-! ### Stopping a team (R72, R407) -/

/-- A bundle of a team that may stop where it stands: none of its threads is in trap state (R401), and its word awaits no answer of
another unit. -/
def State.stopsInside (s : State) (t : Nat) (b : Bundle) : Bool :=
  b.team == t && !b.asked && b.peer.isNone && b.rein.isNone && b.awl.isEmpty && b.members.all (fun m => !(s.thread t m.1 m.2).inTrap)

/-- The bundle leaves its slice inside its clause: its threads stand at the next word, with their latches. -/
def State.stopInside (s : State) (core : Nat) (b : Bundle) : State :=
  (b.members.foldl (fun s m => s.updThread b.team m.1 m.2 (fun x => { x with pc := b.pc, pos := b.pos })) s).freeSlice core

/-- A team is told to stop. Each of its bundles goes on to the end of its clause, or stops inside it: a free choice. -/
def State.stopTeam (s : State) (t : Nat) : State :=
  s.cores.foldl (fun s c => match (s.core c.1).bundle with
    | none => s
    | some b =>
      if s.stopsInside t b then
        (let (i, s) := s.choose 2
         if i = 0 then s else s.stopInside c.1 b)
      else s) (s.updTeam t (fun x => { x with stopping := true }))

/-! ### A suspended team -/

/-- Nothing of a group is under way: R65, R56. -/
def State.groupQuiet (s : State) (t g : Nat) : Bool :=
  !s.flights.any (fun f => f.team == t && f.group == g) && (List.range 4).all (fun k => (s.group t g).counters.get 0 k == 0) &&
    (s.group t g).tiles.all (fun a => !a.2.f) && !s.awl.any (fun q => q.team == t && q.lanes.any (fun l => l.group == g))

def State.teamQuiet (s : State) (t : Nat) : Bool :=
  (s.groupsOf t).all (fun g => s.groupQuiet t g) && !s.ops.any (fun o => o.team == t)

/-- A team's bundles hold no issue slice. -/
def State.offSlices (s : State) (t : Nat) : Bool := !s.cores.any (fun c => match c.2.bundle with
  | some b => b.team == t
  | none => false)

/-- The cores of a team's groups: it leaves them, and filler on them is its partition's from now on (R434). -/
def State.leaveCores (s : State) (t : Nat) : State :=
  { s with coresLeft := (s.groupsOf t).foldl (fun m g => NatSet.set m (s.group t g).core true) s.coresLeft }

/-- The team is suspended: TSTATE, its groups, its Saddlebag; threads at a broken-off rendezvous issue again.
A PUSH or POP that will issue again keeps its place among the block's waiters (log 82). -/
def State.suspendNow (s : State) (t : Nat) : State :=
  let s := (s.groupsOf t).foldl (fun s g => s.updGroup t g (fun x => { x with
    suspended := true, rendezvous := none, tiles := x.tiles.map (fun e => (e.1, { e.2 with d := false })) })) s
  (s.leaveCores t).updTeam t (fun x => { x with suspended := true, stopping := false, complete := false, sbSaved := true, sbSave := x.saveSb })

/-- Suspended to make room, the team waits to be placed again. -/
def State.evict (s : State) (t : Nat) : State := (s.suspendNow t).updTeam t (fun x => { x with awaiting := true })

/-! ### Dropping work -/

/-- The bundles, accesses and operations of the teams of a list are dropped. -/
def State.dropWork (s : State) (ts : List Nat) : State :=
  let cs := (s.cores.filter (fun c => match c.2.bundle with
    | some b => ts.contains b.team
    | none => false)).map (·.1)
  let s := cs.foldl (fun s c => s.freeSlice c) s
  { s with
    flights := s.flights.filter (fun f => !ts.contains f.team)
    ops := s.ops.filter (fun o => !ts.contains o.team)
    awl := s.awl.filter (fun q => !ts.contains q.team) }

/-- Teams of a list are gone. -/
def State.dropTeams (s : State) (ts : List Nat) : State :=
  let s := ts.foldl (fun s t => s.leaveCores t) s
  { s with teams := s.teams.filter (fun e => !ts.contains e.1) }

/-- Every report of a tenant that is on its way is given up. -/
def State.dropReports (s : State) (tn : Nat) : State := { s with sent := s.sent.filter (fun r => r.tenant != tn) }

/-! ### Moving regions -/

/-- The fabric bytes of a region, keyed from 0, and their poisoned words. -/
def State.regionBytes (s : State) (c base size : Nat) : Sparse Byte × NatSet :=
  let a := c * 2 ^ 23 + base
  ((s.fab.slice a (a + size)).map (fun e => (e.1 - a, e.2)), (s.fabPoison.slice (a / 8) ((a + size) / 8)).map (fun e => (e.1 - a / 8, e.2)))

/-- A range of a slice takes the bytes and poison of a region. -/
def State.putRegion (s : State) (c base size : Nat) (r : Sparse Byte × NatSet) : State :=
  let a := c * 2 ^ 23 + base
  { s with
    fab := r.1.foldl (fun m e => m.put 0 (a + e.1) e.2) (s.fab.cut a (a + size))
    fabPoison := r.2.foldl (fun m e => NatSet.set m (a / 8 + e.1) e.2) (s.fabPoison.cut (a / 8) ((a + size) / 8)) }

/-- The region of a suspended or exited team is copied into HBM and its range freed, but owed (R153). -/
def State.swapOut (s : State) (t : Nat) : State :=
  let x := s.team t
  s.updTeam t (fun y => { y with swapped := some (s.regionBytes x.cluster x.base x.region) })

/-- An owed range is free again. -/
def State.owedFree (s : State) (t : Nat) : Bool :=
  let x := s.team t
  !(s.regionsIn x.cluster).any (fun u => u != t && decide ((s.team u).base < x.base + x.region ∧ x.base < (s.team u).base + (s.team u).region))

/-- The region is copied back to its owed range. -/
def State.swapIn (s : State) (t : Nat) : State :=
  let x := s.team t
  match x.swapped with
  | none => s
  | some r => (s.putRegion x.cluster x.base x.region r).updTeam t (fun y => { y with swapped := none })

/-! ### Coming back (R183, R198) -/

/-- A team takes its place on the cores of a spot and goes on. -/
def State.settleTeam (s : State) (t : Nat) (p : Spot) : State :=
  let clk (core : Nat) : Nat := (s.core core).clk.toNat
  let s := (s.groupsOf t).foldl (fun s g => s.updGroup t g (fun x =>
    { x with
      core := p.core g, suspended := false
      threads := x.threads.map (fun e => (e.1, { e.2 with
        readyAt := clk (p.core g), prio := false, late := false, status := if e.2.status == .blocked .mmag then .ready else e.2.status })) })) s
  let s := if s.holdsTicket t then s.drainStaging t else s
  let s := if (s.team t).sbSaved then (s.updTeam t Team.restoreSb).noteSb (partOf (clusterOf p.first)) ((s.team t).sbSave.bytes.map (·.2)) else s
  (s.updTeam t (fun x => { x with suspended := false, awaiting := false, lwaitOut := false, complete := false, sbSaved := false })).movePointer
    (s.team t).tenant p

/-- The cores that may take a suspended team: those of its cluster while its region stands there or is owed there. -/
def State.homeOf (s : State) (t : Nat) : Option Nat :=
  if (s.team t).moved.isSome then none else some (s.team t).cluster

/-- A team goes on in another cluster: the move adds no read of a line that its earlier fences have left behind, so the cluster's global
lines are dropped (R107, log 33). -/
def State.otherCluster (s : State) (old new : Nat) : State := if old = new then s else s.clearCache new

/-- A suspended team is placed again, if it finds room: where its region stands, else with its region in another slice. -/
def State.resumeTeam (s : State) (t : Nat) (ok : Nat → Bool) : Option State :=
  let x := s.team t
  let n := x.launch
  if x.swapped.isSome then
    if s.owedFree t then
      (s.findSpot x.tenant n (some x.cluster) (fun c => ok c && clusterOf c == x.cluster)).map (fun p => (s.swapIn t).settleTeam t p)
    else none
  else
    match s.findSpot x.tenant n (s.homeOf t) (fun c => ok c && (s.homeOf t == none || clusterOf c == x.cluster)) with
    | some p =>
      match x.moved with
      | none => some (s.settleTeam t p)
      | some a =>
        let c := clusterOf p.first
        let bs := s.bases c n x.region
        let (i, s) := s.choose ((bs.map (·.2)).sum)
        let s := (s.updTeam t (fun y => { y with cluster := c, base := baseAt i bs, moved := none })).otherCluster x.cluster c
        some ((s.loadMoved t a.toNat).settleTeam t p)
    | none =>
      if x.moved.isSome then none
      else
        (s.findSpot x.tenant n none (fun c => ok c && clusterOf c != x.cluster)).map (fun p =>
          let c := clusterOf p.first
          let r := s.regionBytes x.cluster x.base x.region
          let bs := s.bases c n x.region
          let (i, s) := s.choose ((bs.map (·.2)).sum)
          let s := (s.updTeam t (fun y => { y with cluster := c, base := baseAt i bs })).putRegion c (baseAt i bs) x.region r
          (s.otherCluster x.cluster c).settleTeam t p)

/-- Every member of a gang is placed again, or none (R183). -/
def State.resumeAll (s : State) (ok : Nat → Bool) : List Nat → Option State
  | [] => some s
  | t :: r =>
    match s.resumeTeam t ok with
    | none => none
    | some s => s.resumeAll ok r

end Sys2Proof.Machine
end

