-- ==== Sys2Proof/Machine/LacingOps.lean ====
section
/-! DEFINITION. Islands: components, breadth-first order, parts and boundary tables (R225, R226, R229, R230), the records of a part
in its team's fabric bytes and in the body table (R222, R231), and the lacing store (R221, R459). -/

namespace Sys2Proof.Machine

/-! ### Links -/

/-- The order of keys (lower id, higher id, kind). -/
def Link.le (a b : Link) : Bool := decide (a.lo < b.lo ∨ (a.lo = b.lo ∧ (a.hi < b.hi ∨ (a.hi = b.hi ∧ a.kind ≤ b.kind))))

/-- Bodies a body has a link to, once each, in increasing id. -/
def neighbours (ls : List Link) (b : Nat) : List Nat :=
  sortBy (fun x y => decide (x ≤ y)) ((ls.filterMap (fun l => if l.lo = b then some l.hi else if l.hi = b then some l.lo else none)).dedup)

/-- Breadth-first search: bodies still to expand, and all bodies reached, in order. -/
def bfs (ls : List Link) : Nat → List Nat → List Nat → List Nat
  | 0, _, acc => acc
  | _, [], acc => acc
  | fuel + 1, b :: r, acc =>
    let ns := (neighbours ls b).filter (fun n => !acc.contains n)
    bfs ls fuel (r ++ ns) (acc ++ ns)

/-- The island of a body, in breadth-first order from it. -/
def component (ls : List Link) (nbody b : Nat) : List Nat := bfs ls nbody [b] [b]

/-- All islands in increasing id, each in breadth-first order from its smallest body. -/
def components (ls : List Link) (nbody : Nat) : List (List Nat) :=
  (List.range nbody).foldl (fun acc b => if acc.any (fun i => i.contains b) then acc else acc ++ [component ls nbody b]) []

/-- The parts of an island, P bodies each. -/
def partsIn (p : Nat) (bodies : List Nat) : List (List Nat) :=
  (List.range ((bodies.length + p - 1) / p)).map (fun k => (bodies.drop (k * p)).take p)

/-! ### Boundary tables (R230) -/

structure BoundaryEntry where
  own : Nat
  slot : Nat
  part : Nat
  other : Nat
  otherSlot : Nat
  kind : Nat
  deriving DecidableEq, Repr

def BoundaryEntry.le (a b : BoundaryEntry) : Bool :=
  decide (a.slot < b.slot ∨ (a.slot = b.slot ∧ (a.part < b.part ∨ (a.part = b.part ∧ (a.otherSlot < b.otherSlot ∨
    (a.otherSlot = b.otherSlot ∧ a.kind ≤ b.kind))))))

def BoundaryEntry.bytes (e : BoundaryEntry) : List Byte :=
  leBytes 4 e.own ++ leBytes 2 e.slot ++ leBytes 2 e.part ++ leBytes 4 e.other ++ leBytes 2 e.otherSlot ++ leBytes 1 e.kind ++ leBytes 1 0

/-- The entries of part k: one for each link that leaves it. -/
def boundaryEntries (ls : List Link) (p : Nat) (bodies : List Nat) (k : Nat) : List BoundaryEntry :=
  let pos (b : Nat) : Nat := bodies.findIdx (· == b)
  sortBy BoundaryEntry.le ((((bodies.drop (k * p)).take p).map (fun b =>
    ls.filterMap (fun l =>
      let o := if l.lo = b then some l.hi else if l.hi = b then some l.lo else none
      match o with
      | some o => if bodies.contains o && pos o / p != k then some ⟨b, pos b % p, pos o / p, o, pos o % p, l.kind⟩ else none
      | none => none))).flatten)

def boundaryTable (es : List BoundaryEntry) : List Byte := leBytes 4 es.length ++ leBytes 12 0 ++ (es.map BoundaryEntry.bytes).flatten

/-! ### Layout of a team (R222) -/

def IslDesc.tableOff (d : IslDesc) (p : Nat) : Nat := roundUp (p * d.recsz) 256
/-- Declared fabric bytes that part limit p needs. -/
def IslDesc.layout (d : IslDesc) (p : Nat) : Nat := roundUp (d.tableOff p + 16 + 16 * d.btcap) 256

/-! ### Records (R231) -/

/-- The records of a gang from byte 8 on, as the preload of its teams reads them. -/
def State.readRecords (s : State) (tn : Nat) (d : IslDesc) (bodies : List Nat) : List (List (Byte × Bool)) :=
  bodies.map (fun b => s.engineRead tn (d.bodytab + b * d.recsz + 8) (d.recsz - 8))

/-- A walk for one of those records meets poison (R408). -/
def State.recordsBad (s : State) (tn : Nat) (d : IslDesc) (bodies : List Nat) : Bool :=
  bodies.any (fun b => s.walkBad tn (d.bodytab + b * d.recsz + 8) (d.recsz - 8))

/-- The records of part k, read as given, their headers and the boundary table are written before the team starts. -/
def State.preload (s : State) (t : Nat) (id k : Nat) (d : IslDesc) (ls : List Link) (bodies : List Nat)
    (records : List (List (Byte × Bool))) : State :=
  let x := s.team t
  let base := x.base + (s.lpbOf t).declOff
  let s := (List.range x.bodies.length).foldl (fun s i =>
    s.putFabP x.cluster (base + i * d.recsz)
      ((leBytes 4 (x.bodies.getD i 0) ++ leBytes 4 id).map (fun v => (v, false)) ++ records.getD i [])) s
  s.putFab x.cluster (base + d.tableOff x.islP) (boundaryTable (boundaryEntries ls x.islP bodies k))

/-- Bytes 8 on of each record go back to the body table, with their poison. -/
def State.writeRecords (s : State) (t : Nat) (d : IslDesc) : State :=
  let x := s.team t
  let base := x.base + (s.lpbOf t).declOff
  (List.range x.bodies.length).foldl (fun s i =>
    s.writeVaP (s.engineCluster x.tenant) x.tenant (d.bodytab + x.bodies.getD i 0 * d.recsz + 8)
      ((List.range (d.recsz - 8)).map (fun j =>
        let l : Loc := .fabric x.cluster (base + i * d.recsz + 8 + j)
        (s.memByte l, s.memPoison l)))) s

/-! ### The lacing store (R221, R459) -/

def Body.word (b : Body) : Nat := Bool.bit b.asleep + 2 * Bool.bit b.frozen + 4 * (b.still % 256)

def Link.word (l : Link) : Nat := l.lo + l.hi * 2 ^ 22 + l.kind * 2 ^ 44 + 2 ^ 63

def Report.word (r : Report) : Nat := r.a + r.b * 2 ^ 22 + r.kind * 2 ^ 44 + 2 ^ 63

/-- Header, body state words, link table (the links in key order from entry 0) and report log. -/
def IslSlot.storeBytes (x : IslSlot) (links reports : Nat) : List (Nat × List Byte) :=
  let d := x.desc
  [(0, leBytes 8 x.step.toNat ++ leBytes 4 x.links.length ++ leBytes 4 x.reports.length ++ leBytes 48 0),
   (64, ((List.range d.nbody).map (fun b => leBytes 4 (x.bodies.get {} b).word)).flatten),
   (d.linkOff, ((List.range links).map (fun i => leBytes 8 ((x.links.map Link.word).getD i 0))).flatten),
   (d.logOff, ((List.range reports).map (fun i => leBytes 8 ((x.reports.map Report.word).getD i 0))).flatten)]

/-- The store is brought up to date. -/
def State.writeStore (s : State) (tn k : Nat) : State :=
  let x := (s.tenant tn).slots.get {} k
  (x.storeBytes x.desc.lmax x.reports.length).foldl (fun s p => s.writeVaPart (s.engineCluster tn) tn (x.desc.lstore + p.1) p.2) s

/-- The set as its store shows it (R235): step, bodies, links and the reports of the step in progress. -/
def State.readStore (s : State) (tn : Nat) (x : IslSlot) : IslSlot :=
  let d := x.desc
  let rd (off n : Nat) : Nat := leNat ((s.engineRead tn (d.lstore + off) n).map (·.1))
  let body (b : Nat) : Body := let w := rd (64 + 4 * b) 4
    ⟨w % 2 == 1, w / 2 % 2 == 1, bitsOf w 9 2⟩
  let links := (List.range d.lmax).filterMap (fun i => let w := rd (d.linkOff + 8 * i) 8
    if w / 2 ^ 63 = 1 then some ⟨bitsOf w 21 0, bitsOf w 43 22, bitsOf w 44 44⟩ else none)
  let reports := (List.range (rd 12 4)).map (fun i => let w := rd (d.logOff + 8 * i) 8
    Report.mk (bitsOf w 45 44) (bitsOf w 21 0) (bitsOf w 43 22))
  { x with
    step := BitVec.ofNat 64 (rd 0 8)
    bodies := (List.range d.nbody).foldl (fun m b => Sparse.put {} m b (body b)) []
    links := sortBy Link.le links
    reports := reports }

end Sys2Proof.Machine
end

