-- ==== Sys2Proof/Machine/Accept.lean ====
section
/-! DEFINITION. Acceptance of launches: the checks of R190 and R205, gangs' footprints (R181, R232), the ring (R188) and the
arbitration among sources (R192); rows LPB_ACCEPT, QUEUE_ENABLE, QTAIL_WRITE and EVENT_RING_ENABLE. -/

namespace Sys2Proof.Machine

/-! ### Checks (R190) -/

/-- The first row of R190. lacing: the LPB comes from the Lacing engine. -/
def Lpb.bad (b : Lpb) (lacing : Bool) : Bool :=
  b.wcode == 3 || b.t == 0 || b.t % b.w != 0 || decide (2048 < b.t) || decide (16 < b.nt) || b.d8 == 0 || decide (32 < b.d8) ||
    decide (b.nu - 1 < b.argn) || decide (4 < b.stg) || b.fabric % 256 != 0 || b.sbb % 64 != 0 || decide (524288 < b.sbb) || b.reserved ||
    (b.seam && b.gang) || (b.isl && !lacing) || (!b.seam && decide (2 ^ 40 < b.e0 * b.e1 * b.e2))

/-- Teams of one shape that empty cores of a cluster hold at once (R168, R195): by slots and Saddlebag of each pair, and by the slice. -/
def clusterCapacity (b : Lpb) (ok : Nat → Bool) (c : Nat) : Nat :=
  let one := coreSlots / b.t
  let rest := coreSlots % b.t / b.w
  let pair (j : Nat) : Nat :=
    let lo := ok (6 * c + 2 * j)
    let hi := ok (6 * c + 2 * j + 1)
    let n := (if lo then one else 0) + (if hi then one else 0) + (if lo && hi && decide (b.groups ≤ 2 * rest) then 1 else 0)
    if b.sbb = 0 then n else min n (pairSaddlebag / b.sbb)
  min (pair 0 + pair 1 + pair 2) (sliceBytes / b.region)

def partCapacity (b : Lpb) (ok : Nat → Bool) (p : Nat) : Nat := ((List.range 5).map (fun i => clusterCapacity b ok (5 * p + i))).sum

def State.notQuar (s : State) (core : Nat) : Bool := !(s.core core).quar

/-- The FOOTPRINT row. -/
def State.footprintBad (s : State) (tn : Nat) (b : Lpb) : Bool :=
  decide (sliceBytes < b.region) || (s.partsOf tn).all (fun p => partCapacity b s.notQuar p == 0) ||
    (b.gang && (s.partsOf tn).all (fun p => decide (partCapacity b (s.coreOk b) p < b.e0 * b.e1 * b.e2)))

/-- Some core of the tenant covers FEATURES, in the distributor's set or not (log 61). -/
def State.featureCovered (s : State) (tn : Nat) (b : Lpb) : Bool :=
  (s.clustersOf tn).any (fun c => (List.range 6).any (fun j => (s.core (6 * c + j)).feat &&& b.features == b.features))

/-- The argument words, read at scope .sys. The poison of their unit is not looked at (log 58). -/
def State.readArgs (s : State) (tn : Nat) (b : Lpb) : Except Bad (List Word) × State :=
  (List.range b.argn).foldl (fun r i =>
    match r with
    | (.error e, s) => (.error e, s)
    | (.ok ws, s) =>
      match s.accessNow (s.engineCluster tn) tn ((b.argaddr.toNat + 4 * i : Nat) : Int) 4 .read with
      | (.ok l, s) => (.ok (ws ++ [leWord (s.memBytes l 4)]), s)
      | (.error e, s) => (.error e, s)) ((.ok [], s) : Except Bad (List Word) × State)

/-! ### Seam descriptors (R204, R205) -/

/-- Component a of vector v of a descriptor. -/
def seamComp (bs : List Byte) (v a : Nat) : Int := ((bs.getD (0x10 + 4 * v + a) 0).toInt)

def lexPositive (d : Int × Int × Int) : Bool := decide (0 < d.1) || (d.1 == 0 && (decide (0 < d.2.1) || (d.2.1 == 0 && decide (0 < d.2.2))))

/-- A descriptor parsed: the unit's state and the extents. -/
def parseSeam (bs : List Byte) : Seam × Nat × Nat × Nat :=
  let w (off : Nat) : Nat := leNat ((bs.drop off).take 4)
  let shape := w 0
  ({ bytes := bs, ndim := bitsOf shape 1 0, scope := bitsOf shape 7 5, faces := bitsOf shape 13 8,
     vecs := (List.range (bitsOf shape 4 2)).map (fun v => (seamComp bs v 0, seamComp bs v 1, seamComp bs v 2)),
     record := leNat ((bs.drop 0x20).take 8), runcap := w 0x28 }, w 4, w 8, w 12)

/-- The checks of R205 on the descriptor's own bytes. -/
def seamBytesBad (bs : List Byte) : Bool :=
  let (u, e0, e1, e2) := parseSeam bs
  let w (off : Nat) : Nat := leNat ((bs.drop off).take 4)
  let nvec := bitsOf (w 0) 4 2
  let ext (a : Nat) : Nat := if a = 0 then e0 else if a = 1 then e1 else e2
  let last := ext (u.ndim - 1)
  let link (f : Nat) : Nat := leNat ((bs.drop (0x30 + 8 * f)).take 8)
  u.ndim == 0 || decide (4 < nvec) ||
    (List.range 3).any (fun a => if a < u.ndim then decide (ext a < 1 ∨ 2 ^ 20 < ext a) else ext a != 1) ||
    decide (2 ^ 30 < e0 * e1 * e2) || decide (2 ^ 24 < e0 * e1 * e2 / last) ||
    (List.range 4).any (fun v => (List.range 3).any (fun a =>
      let k := seamComp bs v a
      decide (k < -8 ∨ 8 < k) || (decide (u.ndim ≤ a) && k != 0))) ||
    u.vecs.any (fun d => !lexPositive d) ||
    (List.range 4).any (fun v => decide (nvec ≤ v) && w (0x10 + 4 * v) != 0) || (List.range 4).any (fun v => bs.getD (0x13 + 4 * v) 0 != 0) ||
    decide (2 ^ 14 ≤ w 0) || w 0x2C != 0 || ((bs.drop 0x60).take 32).any (· != 0) ||
    !(u.scope == 4 || u.scope == 5) || (List.range 6).any (fun f => u.faces / 2 ^ f % 2 == 1 && decide (u.ndim ≤ f / 2)) ||
    (List.range 6).any (fun f => if u.faces / 2 ^ f % 2 = 1 then link f == 0 || link f % 256 != 0 else link f != 0) ||
    decide (u.runcap < 1 ∨ 65536 < u.runcap) || u.record % 256 != 0

/-- Every page of [va, va + n) allows writes of global memory, by every check of R36: the host or a peer accepts them. -/
def State.pagesWritable (s : State) (tn va n : Nat) : Bool × State :=
  if 2 ^ 52 < va + n then (false, s)
  else
    (List.range ((va + n + 4095) / 4096 - va / 4096)).foldl (fun r i =>
      if r.1 then
        (match r.2.accessNow (s.engineCluster tn) tn ((max va ((va / 4096 + i) * 4096) : Nat) : Int) 1 .write with
          | (.ok l, s) => (!l.isFabric, s)
          | (.error _, s) => (false, s))
      else r) (true, s)

/-- The record's pages touch the fabric window (R205). -/
def State.touchesWindow (s : State) (tn va n : Nat) : Bool :=
  (s.tenant tn).fwbase.getLsbD 0 && decide (va < s.fwLo tn + s.fwSpan tn ∧ s.fwLo tn < va + n)

/-- The seam unit of a launch and its extents, or the descriptor is bad. -/
def State.readSeam (s : State) (tn : Nat) (b : Lpb) : Option (Seam × Lpb) × State :=
  let a := b.desc.toNat
  if a % 8 ≠ 0 then (none, s)
  else match s.readVa (s.engineCluster tn) tn a 128 with
    | (.error _, s) => (none, s)
    | (.ok bs, s) =>
      if seamBytesBad bs then (none, s)
      else
        let (u, e0, e1, e2) := parseSeam bs
        let b := { b with e0 := e0, e1 := e1, e2 := e2 }
        let n := u.recordSize b
        if s.touchesWindow tn u.record n then (none, s)
        else match s.pagesWritable tn u.record n with
          | (true, s) => (some (u, b), s)
          | (false, s) => (none, s)

/-! ### One acceptance -/

/-- An LPB as a source offers it. -/
structure Offer where
  source : Source
  bytes : List Byte
  prio : Nat
  depth : Nat := 0
  parent : Option Nat := none
  /-- Of a child: the linear index of the team that launched it, and the handle. -/
  made : Option (Nat × Nat) := none
  serial : Bool := false
  deriving DecidableEq, Repr

/-- What the checks of R190 come to. -/
inductive Verdict where
  | refused (status : Nat)
  | accepted (lpb : Lpb) (args : List Word) (seam : Seam)

/-- The checks after those of the block's own bits, in order. -/
def State.checkRest (s : State) (tn : Nat) (b : Lpb) (footprint : Bool) : Verdict × State :=
  if b.det && (b.gang || b.isl) then (.refused stDetConflict, s)
  else if footprint then (.refused stFootprint, s)
  else if !s.featureCovered tn b then (.refused stNoFeature, s)
  else
    match (if b.seam then s.readSeam tn b else (some (({} : Seam), b), s)) with
    | (none, s) => (.refused stSeamBad, s)
    | (some (u, b), s) =>
      match s.readArgs tn b with
      | (.error _, s) => (.refused stArgFault, s)
      | (.ok args, s) =>
        match s.target (s.engineCluster tn) tn 0 b.entry with
        | (.error (.walkPoison, _), s) => (.refused stEntryFault, s.walkFault tn)
        | (.error _, s) => (.refused stEntryFault, s)
        | (.ok _, s) => (.accepted b args u, s)

def State.checkLpb (s : State) (tn : Nat) (b : Lpb) (lacing : Bool) : Verdict × State :=
  if b.bad lacing then (.refused stBadLpb, s) else s.checkRest tn b (s.footprintBad tn b)

/-- The source has handed its LPB over: HEAD advances, or the entry is taken. -/
def State.advanceSource (s : State) (tn n : Nat) : Source → State
  | .queue q => s.updTenant tn (fun x => { x with queues := x.queues.upd {} q (fun k => { k with head := (k.head + 1) % 2 ^ k.log2n }) })
  | .pool p e => (s.updEntry p e (fun k => { k with taken := true, launch := n })).settleEntry p e
  | .lacing _ _ => s

/-- The Seam unit writes the record of an accepted launch (R207). -/
def State.firstRecord (s : State) (n : Nat) : State :=
  let x := s.launch n
  let u := x.seamUnit
  let rows := u.rowCount x.lpb
  let head := u.bytes ++ leBytes 4 1 ++ leBytes 4 0 ++ leBytes 4 rows ++ leBytes 4 0 ++ leBytes 8 0 ++ leBytes 8 0 ++ leBytes 96 0
  (s.updSeam n (fun u => { u with rstate := 1 })).seamWrite n 0 (head ++ List.replicate (16 * rows) 0)

/-- An accepted launch; one with a frontier record takes the place of an earlier space there. A launch without teams completes at once. -/
def State.enterLaunch (s : State) (tn n : Nat) (o : Offer) (b : Lpb) (args : List Word) (u : Seam) : State :=
  let total := b.e0 * b.e1 * b.e2
  let fromQueue := (match o.source with
    | .queue _ => true
    | _ => false)
  let x : Launch :=
    { live := true, tenant := tn, source := o.source, lpb := { b with prio := o.prio }, depth := o.depth, args := args, total := total,
      queueTicket := b.det && fromQueue, serial := o.serial, seamUnit := u, parent := o.parent, made := o.made, order := n,
      bytes := o.bytes }
  let s := { s.setLaunch n x with
             spaces := if b.seam then s.spaces.filter (fun e => !(e.2.tenant == tn && e.2.seamUnit.record == u.record)) else s.spaces }
  let s := if b.seam then s.firstRecord n else s
  if total = 0 then { s with agenda := ⟨0, .event (.launchComplete n)⟩ :: s.agenda } else s

/-- Where a partition's control area begins in its log (R412), and the places of its parts there (log 50). -/
def Partition.controlAt (p : Partition) : Nat := p.ulbase + 40 * 2 ^ 20
def Partition.ticketsAt (p : Partition) : Nat := p.controlAt + 2 ^ 20
def Partition.copiesAt (p : Partition) : Nat := p.controlAt + 2 ^ 21

/-- The partition whose control area takes an LPB's copy: that of its pool, or the tenant's first (log 50). -/
def State.copyPart (s : State) (tn : Nat) : Source → Nat
  | .pool p _ => p
  | _ => (s.partsOf tn).headD 0

/-- A copy of every accepted LPB is kept while checkpoints are on, in the control area too (R412). -/
def State.keepCopy (s : State) (tn n : Nat) (o : Offer) : State :=
  if (s.tenant tn).ckEn then
    let k := (s.ckpts.get {} tn).accepted.length
    ({ s with ckpts := s.ckpts.upd {} tn (fun k => { k with accepted := k.accepted ++ [Retake.mk o.source o.bytes n o.serial] }) } : State).writeLog
      ((s.partition (s.copyPart tn o.source)).copiesAt + 128 * k) o.bytes
  else s

/-- The distributor takes an offer: it accepts it, or refuses it with a status. -/
def State.takeOffer (s : State) (tn : Nat) (o : Offer) : State :=
  let (n, s) := s.fresh
  let s := (s.advanceSource tn n o.source).keepCopy tn n o
  let b := parseLpb o.bytes
  match s.checkLpb tn b false with
  | (.accepted b args u, s) => s.enterLaunch tn n o b args u
  | (.refused st, s) =>
    let s := (s.completionRecord n b tn st 0 0).reportCompletion n o.source tn st 0
    match o.parent with
    | some p => s.updLaunch p (fun x => { x with children := x.children - 1 })
    | none => s

/-! ### Sources (R192) -/

/-- A line of waiting LPBs: its priority and its number for the round-robin order. -/
structure Line where
  prio : Nat
  num : Nat
  source : Source
  deriving DecidableEq, Repr

def Queue.nonEmpty (q : Queue) : Bool := q.en && q.head != q.tail

/-- The entry of a partition's pool that stands first at a priority, but for those held. -/
def Partition.firstAt (p : Partition) (prio : Nat) (held : Nat → Bool) : Option Nat :=
  (((p.pool.filter (fun e => e.2.live && !e.2.taken && !held e.1 && (parseLpb e.2.lpb).prio == prio)).foldl (fun (r : Option (Nat × Nat)) e =>
    match r with
    | none => some (e.1, e.2.order)
    | some b => if e.2.order < b.2 then some (e.1, e.2.order) else some b) none)).map (·.1)

/-- A pool entry stands among the launches that a rollback takes again: its place is in their order (R413). -/
def State.retakes (s : State) (tn p e : Nat) : Bool := (s.tenant tn).retake.any (fun k => k.source == .pool p e)

/-- The non-empty sources of a tenant, highest priority first, and round-robin from the tenant's pointer. -/
def State.sourceLines (s : State) (tn : Nat) : List Line :=
  let x := s.tenant tn
  let qs := (List.range 64).filterMap (fun q =>
    let k := x.queues.get {} q
    if k.nonEmpty then some (Line.mk k.prio q (.queue q)) else none)
  let ps := ((s.partsOf tn).map (fun p => (List.range 4).filterMap (fun pr =>
    ((s.partition p).firstAt pr (s.retakes tn p)).map (fun e => Line.mk pr (64 + p) (.pool p e))))).flatten
  let turn (l : Line) : Nat := (l.num + 128 - x.rr) % 128
  sortBy (fun a b => decide (b.prio < a.prio ∨ (a.prio = b.prio ∧ turn a ≤ turn b))) (qs ++ ps)

/-- Launches of a tenant in progress. -/
def State.tenantLaunches (s : State) (tn : Nat) : List Nat :=
  (s.launches.filter (fun e => e.2.live && !e.2.completed && e.2.tenant == tn)).map (·.1)

/-- Queue tickets in use (R146). -/
def State.ticketsUsed (s : State) (tn : Nat) : Nat := ((s.tenantLaunches tn).filter (fun n => (s.launch n).queueTicket)).length

/-- The compute die of a tenant's cluster index 0. -/
def State.seamDie (s : State) (tn : Nat) : Nat := s.engineCluster tn / 40

/-- Seam launches that a die's unit tracks (R206). -/
def State.tracked (s : State) (die : Nat) : Nat :=
  (s.launches.filter (fun e => e.2.live && !e.2.completed && e.2.lpb.seam && s.seamDie e.2.tenant == die)).length

/-- An LPB that stays at the head of its source (R146, R192, R206). -/
def State.headBlocked (s : State) (tn : Nat) (src : Source) (b : Lpb) : Bool :=
  (b.seam && decide (16 ≤ s.tracked (s.seamDie tn))) || (match src with
    | .queue q =>
      (b.det && decide (8 * (s.partsOf tn).length ≤ s.ticketsUsed tn)) ||
        (b.ord && (s.tenantLaunches tn).any (fun n => (s.launch n).source == .queue q))
    | _ => false)

/-- The offer of a pool entry. A child whose earlier run has to be repeated serially is known by its block and its parent's handle (R163,
log 62). -/
def State.childOffer (s : State) (tn p e : Nat) (lpb : List Byte) : Offer :=
  let k := (s.partition p).entry e
  { source := .pool p e, bytes := lpb, prio := (parseLpb lpb).prio, depth := k.depth, parent := some k.parent, made := some (k.index, k.handle),
    serial := (s.ckpts.get {} tn).serialKids.contains (SerialKid.mk lpb k.depth k.index k.handle) }

/-- The offer of a line, or the ring's slot cannot be read. -/
def State.offerOf (s : State) (tn : Nat) (l : Line) : Option Offer × State :=
  match l.source with
  | .queue q =>
    let k := (s.tenant tn).queues.get {} q
    match s.readVa (s.engineCluster tn) tn (k.base + 128 * k.head) 128 with
    | (.ok bs, s) => (some { source := l.source, bytes := bs, prio := k.prio }, s)
    | (.error _, s) => (none, s)
  | .pool p e =>
    let k := (s.partition p).entry e
    (some (s.childOffer tn p e k.lpb), s)
  | .lacing _ _ => (none, s)

/-- A ring read fault (R188). -/
def State.ringFault (s : State) (tn : Nat) : Source → State
  | .queue q => s.updTenant tn (fun x => { x with queues := x.queues.upd {} q (fun k => { k with ringfault := true, en := false }) })
  | _ => s

/-- The first source that is not held: its LPB is taken, or its ring faults. -/
def State.tryLines (s : State) (tn : Nat) : List Line → Option State
  | [] => none
  | l :: r =>
    match s.offerOf tn l with
    | (none, s') => some (s'.ringFault tn l.source)
    | (some o, s') =>
      if s.headBlocked tn o.source (parseLpb o.bytes) then s.tryLines tn r
      else some ((s'.updTenant tn (fun x => { x with rr := (l.num + 1) % 128 })).takeOffer tn o)

/-- The distributor works for a tenant: not while its context is suspended or dead (R407, R414). -/
def State.serves (s : State) (tn : Nat) : Bool :=
  let x := s.tenant tn
  !x.susp && !x.ctxPend && !x.dead && !x.ckPend && !(s.partsOf tn).isEmpty

/-- The offer that stands first among those a rollback takes again. -/
def State.retakeOffer (s : State) (tn : Nat) (k : Retake) : Offer :=
  match k.source with
  | .pool p e =>
    let o := s.childOffer tn p e k.lpb
    { o with serial := o.serial || k.serial }
  | src => { source := src, bytes := k.lpb, prio := (parseLpb k.lpb).prio, serial := k.serial }

/-- A launch taken again does not move its source on: QHEAD does not move back (R413). -/
def State.takeAgain (s : State) (tn : Nat) (k : Retake) (rest : List Retake) : State :=
  let s := s.updTenant tn (fun x => { x with retake := rest })
  match k.source with
  | .queue q =>
    let head := ((s.tenant tn).queues.get {} q).head
    let o := { s.retakeOffer tn k with prio := ((s.tenant tn).queues.get {} q).prio }
    (s.takeOffer tn o).updTenant tn (fun x => { x with queues := x.queues.upd {} q (fun k => { k with head := head }) })
  | _ => s.takeOffer tn (s.retakeOffer tn k)

/-- The lines of the pools: children made since the rollback, which wait for no ticket (R146). -/
def State.poolLines (s : State) (tn : Nat) : List Line := (s.sourceLines tn).filter (fun l => match l.source with
  | .pool _ _ => true
  | _ => false)

/-- What the distributor takes next: a launch of the interval again, in the original order (R413); while that one waits at its source's head, a
child from a pool; else the first source that is not held. -/
def State.acceptNext (s : State) (tn : Nat) : Option State :=
  match (s.tenant tn).retake with
  | k :: r => if s.headBlocked tn k.source (parseLpb k.lpb) then s.tryLines tn (s.poolLines tn) else some (s.takeAgain tn k r)
  | [] => s.tryLines tn (s.sourceLines tn)

/-- LPB_ACCEPT. A walk that meets a poisoned page-table entry is a fault of the tenant, before anything is taken (R408). -/
def execLpbAccept (tenant : Nat) (s : State) : Host.Outcome State Fault Refusal :=
  if !s.serves tenant then s.idle
  else match s.acceptNext tenant with
    | some r => .next (s.unlessWalkFault r)
    | none => s.idle

/-! ### Queue and ring registers (R188, R388) -/

/-- QCFG's fields. -/
def Queue.setCfg (q : Queue) (v : Nat) : Queue :=
  { q with log2n := if q.en then q.log2n else bitsOf v 4 0, prio := bitsOf v 6 5, vec := bitsOf v 18 8 }

/-- EN rises: HEAD and TAIL become 0, or BADCFG is set. -/
def Queue.enable (q : Queue) (v : Nat) : Queue :=
  let q := q.setCfg v
  if 1 ≤ q.log2n ∧ q.log2n ≤ 16 then { q with en := true, head := 0, tail := 0 } else { q with badcfg := true }

def State.updQueue (s : State) (tn q : Nat) (f : Queue → Queue) : State :=
  s.updTenant tn (fun x => { x with queues := x.queues.upd {} q f })

/-- QUEUE_ENABLE: a write of QCFG. One that raises EN starts the ring afresh. -/
def execQueueEnable (tenant queue : Nat) (value : Word) (s : State) : Host.Outcome State Fault Refusal :=
  .next (s.updQueue tenant queue (fun q =>
    if !q.en && value.getLsbD 7 then q.enable value.toNat else { q.setCfg value.toNat with en := value.getLsbD 7 }))

/-! ### Host writes (R106, R412, R435) -/

/-- The oldest waiting message of a kind, and the state without it. -/
def State.takeInbox {α : Type} (s : State) (f : Inbound → Option α) : Option (α × State) :=
  match s.inbox.findSome? f with
  | none => none
  | some a => some (a, { s with inbox := s.inbox.eraseP (fun m => (f m).isSome) })

/-- A host write to HBM that waits: its partition, its address and its bytes. -/
def asHost : Inbound → Option (Nat × Nat × List Byte)
  | .host p a d => some (p, a, d)
  | _ => none

/-- A host write is performed, logged for its partition (R412). -/
def State.hostWrite (s : State) (w : Nat × Nat × List Byte) : Host.Outcome State Fault Refusal :=
  if hbmTop < w.2.1 + w.2.2.length then .fault (.noSuchAddress w.2.1) else .next (s.putHbm w.1 w.2.1 w.2.2)

/-- Every host write that waits is performed, in order, before what comes after it (R106). -/
def State.afterHostWrites (s : State) : Nat → (State → Host.Outcome State Fault Refusal) → Host.Outcome State Fault Refusal
  | 0, k => k s
  | fuel + 1, k =>
    match s.takeInbox asHost with
    | none => k s
    | some (w, s) => match s.hostWrite w with
      | .next s => s.afterHostWrites fuel k
      | r => r

/-- QTAIL_WRITE, after the host writes issued before it. -/
def execQtailWrite (tenant queue : Nat) (value : Word) (s : State) : Host.Outcome State Fault Refusal :=
  s.afterHostWrites s.inbox.length (fun s => .next (s.updQueue tenant queue (fun q =>
    let v := value.toNat % 2 ^ 16
    if 2 ^ q.log2n ≤ v then { q with badtail := true } else { q with tail := v })))

/-- EVRCFG's fields. -/
def Tenant.setRing (x : Tenant) (v : Nat) : Tenant :=
  { x with evLog := if x.evEn then x.evLog else bitsOf v 4 0, evVec := bitsOf v 16 6 }

/-- EN rises: HEAD and TAIL become 0, or BADCFG is set. -/
def Tenant.enableRing (x : Tenant) (v : Nat) : Tenant :=
  let x := x.setRing v
  if 1 ≤ x.evLog ∧ x.evLog ≤ 16 then { x with evEn := true, evHead := 0, evTail := 0 } else { x with evBadcfg := true }

/-- EVENT_RING_ENABLE: a write of EVRCFG. One that raises EN starts the ring afresh. -/
def execEventRingEnable (tenant : Nat) (value : Word) (s : State) : Host.Outcome State Fault Refusal :=
  .next (s.updTenant tenant (fun x =>
    if !x.evEn && value.getLsbD 5 then x.enableRing value.toNat else { x.setRing value.toNat with evEn := value.getLsbD 5 }))

end Sys2Proof.Machine
end

