-- ==== Sys2Proof/Machine/Control.lean ====
section
/-! DEFINITION. Class S, control: branches, calls and returns (R302 to R305), JOIN (R177, R306), special registers (R300, R301),
mode and cycle count (R309), traps and the return from one (R310, R311, R401), ends and yields (R307, R308), and words that are no
instruction (R284). -/

namespace Sys2Proof.Machine

/-! ### Branches -/

/-- Cond of R281. -/
def condHolds (cond : BitVec 3) (v : Word) : Bool :=
  match cond.toNat with
  | 0 => true
  | 1 => v == 0
  | 2 => v != 0
  | 3 => v.msb
  | 4 => !v.msb
  | 5 => !v.msb && v != 0
  | 6 => v.msb || v == 0
  | _ => false

/-- The address an offset in words from the branch word gives (R303). -/
def branchTarget (c : Ctx) (off : Word) : Dword := c.b.wordAt + (off.signExtend 64 <<< 2)

/-- An operand code in one thread, 32 bits. -/
def State.src32 (s : State) (c : Ctx) (src : BitVec 8) (m : Member) : Word :=
  BitVec.ofNat 32 (readSrc (s.group c.team m.1) (s.thread c.team m.1 m.2) (s.env c.team m.1 m.2) none src 32)

/-- An operand pair in one thread, 64 bits. -/
def State.src64 (s : State) (c : Ctx) (src : BitVec 8) (m : Member) : Dword :=
  BitVec.ofNat 64 (readSrc (s.group c.team m.1) (s.thread c.team m.1 m.2) (s.env c.team m.1 m.2) none src 64)

/-- Every thread moves to its target or falls through. A walk that meets poison stops the word before any thread moves. -/
def branchWord (i : Instr) (taken : Ctx → State → Member → Bool) (target : Ctx → State → Member → Dword) (s : State) :
    Host.Outcome State Fault Refusal :=
  runWord i s fun c s =>
    closing s (c.mems.foldl (fun r m =>
      if r.walkPoison then r
      else if taken c s m then moveTo c r m (target c s m) id
      else fallTo c r m) (done s))

def execBra (off : BitVec 14) (s : State) : Host.Outcome State Fault Refusal :=
  branchWord (.bra off) (fun _ _ _ => true) (fun c _ _ => branchTarget c (off.signExtend 32)) s

def execBraLong (lit : Word) (s : State) : Host.Outcome State Fault Refusal :=
  branchWord (.braLong lit) (fun _ _ _ => true) (fun c _ _ => branchTarget c lit) s

/-- BRU: one decision for the bundle, by the lowest thread's value (R303). -/
def execBru (src : BitVec 8) (cond : BitVec 3) (off : BitVec 14) (s : State) : Host.Outcome State Fault Refusal :=
  branchWord (.bru src cond off) (fun c s _ => condHolds cond (s.src32 c src c.low))
    (fun c _ _ => branchTarget c (off.signExtend 32)) s

def execBruLong (src : BitVec 8) (cond : BitVec 3) (lit : Word) (s : State) : Host.Outcome State Fault Refusal :=
  branchWord (.bruLong src cond lit) (fun c s _ => condHolds cond (s.src32 c src c.low)) (fun c _ _ => branchTarget c lit) s

/-- BRT: one decision for each thread (R303). -/
def execBrt (src : BitVec 8) (cond : BitVec 3) (off : BitVec 14) (s : State) : Host.Outcome State Fault Refusal :=
  branchWord (.brt src cond off) (fun c s m => condHolds cond (s.src32 c src m)) (fun c _ _ => branchTarget c (off.signExtend 32)) s

def execBrtLong (src : BitVec 8) (cond : BitVec 3) (lit : Word) (s : State) : Host.Outcome State Fault Refusal :=
  branchWord (.brtLong src cond lit) (fun c s m => condHolds cond (s.src32 c src m)) (fun c _ _ => branchTarget c lit) s

def execBrx (src : BitVec 8) (s : State) : Host.Outcome State Fault Refusal :=
  branchWord (.brx src) (fun _ _ _ => true) (fun c s m => s.src64 c src m) s

/-! ### Calls and returns (R305) -/

/-- Push a return address. -/
def Thread.push (x : Thread) (ret : Dword) : Thread := { x with frames := x.frames.put 0 x.depth ret, depth := x.depth + 1 }

/-- A call in every thread: a full stack traps, otherwise the target is checked and the return address pushed. -/
def callWord (i : Instr) (target : Ctx → State → Member → Dword) (s : State) : Host.Outcome State Fault Refusal :=
  runWord i s fun c s =>
    closing s (c.mems.foldl (fun r m =>
      if r.walkPoison then r
      else if (s.thread c.team m.1 m.2).depth = c.lpb.d then { r with traps := r.traps ++ [⟨m, .stackOverflow, 0, 0⟩] }
      else moveTo c r m (target c s m) (fun x => x.push c.b.fallThrough)) (done s))

def execCall (off : BitVec 14) (s : State) : Host.Outcome State Fault Refusal :=
  callWord (.call off) (fun c _ _ => branchTarget c (off.signExtend 32)) s

def execCallLong (lit : Word) (s : State) : Host.Outcome State Fault Refusal :=
  callWord (.callLong lit) (fun c _ _ => branchTarget c lit) s

def execCallx (src : BitVec 8) (s : State) : Host.Outcome State Fault Refusal :=
  callWord (.callx src) (fun c s m => s.src64 c src m) s

/-- RET: an empty stack traps, otherwise the innermost frame is popped. -/
def execRet (s : State) : Host.Outcome State Fault Refusal :=
  runWord .ret s fun c s =>
    closing s (c.mems.foldl (fun r m =>
      let th := s.thread c.team m.1 m.2
      if r.walkPoison then r
      else if th.depth = 0 then { r with traps := r.traps ++ [⟨m, .stackOverflow, 0, 0⟩] }
      else moveTo c r m (th.frames.get 0 (th.depth - 1)) (fun x => { x with depth := x.depth - 1 })) (done s))

/-! ### Rejoin masks (R177, R306) -/

/-- A bit of a mask set or cleared. -/
def Group.setJoin (g : Group) (n l : Nat) (b : Bool) : Group :=
  let j := g.joins.get 0 n
  { g with joins := g.joins.put 0 n (if b then j ||| (1#64 <<< l) else j &&& ~~~(1#64 <<< l)) }

def execJoinEnrol (n : BitVec 8) (s : State) : Host.Outcome State Fault Refusal :=
  runWord (.joinEnrol n) s fun c s =>
    done (c.mems.foldl (fun s m => s.updGroup c.team m.1 (fun g => g.setJoin n.toNat m.2 true)) s)

/-- PARK: enrolled threads park at the fall-through address, the others go on there. -/
def execJoinPark (n : BitVec 8) (s : State) : Host.Outcome State Fault Refusal :=
  runWord (.joinPark n) s fun c s =>
    let r := c.mems.foldl (fun r m => fallTo c r m) (done s)
    let s := c.mems.foldl (fun s m =>
      if ((s.group c.team m.1).joins.get 0 n.toNat).getLsbD m.2 then
        s.updThread c.team m.1 m.2 (fun x => { x with status := .parked n.toNat })
      else s) r.s
    { s := c.b.groups.foldl (fun s g => s.joinTest c.team g) s, after := .closed }

def execJoinStrike (n : BitVec 8) (s : State) : Host.Outcome State Fault Refusal :=
  runWord (.joinStrike n) s fun c s =>
    let s := c.mems.foldl (fun s m => s.updGroup c.team m.1 (fun g => g.setJoin n.toNat m.2 false)) s
    done (c.b.groups.foldl (fun s g => s.joinTest c.team g) s)

def execJoinTest (d : BitVec 9) (n : BitVec 8) (s : State) : Host.Outcome State Fault Refusal :=
  runWord (.joinTest d n) s fun c s => done (s.uniform64 c d.toNat ((s.group c.team c.g).joins.get 0 n.toNat))

/-! ### Special registers (R300, R301) -/

/-- The mask of executing lanes. -/
def bundleMask (ms : List Member) : Nat := ms.foldl (fun a m => a ||| 2 ^ m.2) 0

/-- A register of R222: 0xFFFF_FFFF outside an island gang. -/
def islReg (x : Team) (v : Nat) : Nat := if x.island.isSome then v else 0xFFFFFFFF

/-- The value of a special register for a bundle. -/
def State.special (s : State) (c : Ctx) (n : Nat) : Nat :=
  let x := s.team c.team
  let l := s.launch x.launch
  let e := s.env c.team c.low.1 c.low.2
  let place (v : Nat) : Nat := if c.lpb.det then 0 else v
  let k := s.clusterIndex x.tenant c.cluster
  let decl := s.fabricOffset x.tenant x.cluster (x.base + c.lpb.declOff)
  let recsz := ((s.tenant x.tenant).slots.get {} x.slot).desc.recsz
  match n with
  | 0 => e.tid
  | 1 => e.lane
  | 2 => e.gid
  | 3 => x.index % 2 ^ 32
  | 4 => l.total % 2 ^ 32
  | 5 => c.lpb.w
  | 6 => place (6 * k + c.core % 6)
  | 7 => place k
  | 8 => place (k / 5)
  | 9 => e.seam.1
  | 10 => e.seam.2.1
  | 11 => e.seam.2.2
  | 12 => islReg x (x.island.getD 0)
  | 13 => islReg x x.member
  | 14 => islReg x x.gangSize
  | 15 => islReg x x.bodies.length
  | 16 => islReg x decl
  | 17 => islReg x (decl + roundUp (x.islP * recsz) 256)
  | 18 => (c.mems.foldl (fun f m => f ||| (s.thread c.team m.1 m.2).flags) (0 : Flags)).toNat
  | 19 => x.index / 2 ^ 32
  | 20 => l.total / 2 ^ 32
  | 21 => place (s.group c.team c.g).rtick.toNat
  | 22 => x.gangSize
  | 23 => x.member
  | 24 => bundleMask c.mems % 2 ^ 32
  | _ => bundleMask c.mems / 2 ^ 32

/-- SGET; a read of rtick sets the count to 0 outside a DET launch. -/
def execSget (func : BitVec 8) (d : BitVec 9) (s : State) : Host.Outcome State Fault Refusal :=
  runWord (.sget func d) s fun c s =>
    let v := BitVec.ofNat 32 (s.special c func.toNat)
    let s := if func == rtickNumber && !c.lpb.det then s.updGroup c.team c.g (fun g => { g with rtick := 0 }) else s
    done (s.uniform32 c d.toNat v)

/-- SSET flags: a value above 0xFF traps; no register and no latch is written. -/
def execSset (func : BitVec 8) (a : BitVec 9) (s : State) : Host.Outcome State Fault Refusal :=
  runWord (.sset func a) s fun c s =>
    let v := (s.group c.team c.g).sGet a.toNat
    if 256 ≤ v.toNat then c.all s .illegalOperand
    else done (c.mems.foldl (fun s m => s.updThread c.team m.1 m.2 (fun x => { x with flags := v.setWidth 8 })) s)

/-! ### Mode, flags and the cycle counter (R309) -/

/-- MODESET: a value with a reserved bit traps its thread, the others take their new modes. -/
def execModeset (src : BitVec 8) (s : State) : Host.Outcome State Fault Refusal :=
  runWord (.modeset src) s fun c s =>
    let r := c.mems.foldl (fun r m =>
      let v := s.src32 c src m
      if 8 ≤ v.toNat then { r with traps := r.traps ++ [⟨m, .illegalOperand, 0, 0⟩] }
      else
        let r := fallTo c r m
        { r with s := r.s.updThread c.team m.1 m.2 (fun x => { x with mode := v }) }) (done s)
    { r with after := .closed }

def execModeget (d : BitVec 7) (s : State) : Host.Outcome State Fault Refusal :=
  runWord (.modeget d) s fun c s => done (s.perThread c false d.toNat false (fun _ x _ => (x.mode.toNat, 0)))

def execModegetFlags (d : BitVec 7) (s : State) : Host.Outcome State Fault Refusal :=
  runWord (.modegetFlags d) s fun c s => done (s.perThread c false d.toNat false (fun _ x _ => (x.flags.toNat, 0)))

def execClk (d : BitVec 9) (s : State) : Host.Outcome State Fault Refusal :=
  runWord (.clk d) s fun c s => done (s.uniform64 c d.toNat (if c.lpb.det then 0 else (s.core c.core).clk))

/-! ### Ending, yielding, doing nothing (R307, R308) -/

def execNop (s : State) : Host.Outcome State Fault Refusal := runWord .nop s fun _ s => done s

def execExit (s : State) : Host.Outcome State Fault Refusal :=
  runWord .exit s fun c s => { s := s.exitThreads c.team c.mems, after := .closed }

/-- YIELD: the fall-through address and a new age (R199). -/
def execYield (s : State) : Host.Outcome State Fault Refusal :=
  runWord .yield s fun c s => { c.mems.foldl (fun r m => fallTo c r m) (done s) with after := .closed }

/-! ### Traps and their return (R310, R311) -/

/-- TRAP n: every thread traps, and would continue at the fall-through address. -/
def execTrap (n : BitVec 8) (s : State) : Host.Outcome State Fault Refusal :=
  runWord (.trap n) s fun c s =>
    let k : TrapInfo := ⟨if n == 0 then .breakpoint else .software, n.toNat, c.b.pc, c.b.fallThrough, 0, c.b.pos⟩
    { s := c.mems.foldl (fun s m => s.takeTrap c.team m k) s, after := .closed }

/-- The latches TRET restores: those marked in LVAL, if the resumption point stands inside a clause (R401). -/
def Thread.savedLatches (x : Thread) : Latches :=
  if x.trap.rpos = 0 then {}
  else
    { val := x.ySaved.val
      valid := (List.range 4).foldl (fun v n => NatSet.set v n (x.trap.lval.getLsbD n)) []
      poison := x.ySaved.poison.filter (fun e => x.trap.lval.getLsbD e.1) }

/-- A thread leaves trap state for its resumption point (R401). -/
def Thread.leaveTrap (x : Thread) (nv clk : Nat) : Thread :=
  let r := (x.vSet (nv - 2) x.trap.tsave0).vSet (nv - 1) x.trap.tsave1
  { r with pc := x.trap.trpc, pos := x.trap.rpos, status := .ready, y := x.savedLatches, ySaved := {}, readyAt := clk, modeWas := none }

/-- TRET: in trap state only; a thread whose target fails takes a nested trap and restores nothing. -/
def execTret (s : State) : Host.Outcome State Fault Refusal :=
  runWord .tret s fun c s =>
    if !c.mems.all (fun m => (s.thread c.team m.1 m.2).inTrap) then c.all s .illegalInstruction
    else
      let r := c.mems.foldl (fun (r : Res) m =>
        if r.walkPoison then r
        else
          let th := s.thread c.team m.1 m.2
          moveTo c r m th.trap.trpc id) (done s)
      if r.walkPoison then poisonedWalk s
      else
        let go := c.mems.filter (fun m => !(r.traps.any (fun x => x.m == m)))
        let clk := (s.core c.core).clk.toNat
        { r with
          s := go.foldl (fun s m => s.updThread c.team m.1 m.2 (fun x => x.leaveTrap c.lpb.nv clk)) r.s
          after := .left }

/-! ### Words that are no instruction -/

/-- The rules of R263 and R265 on a word that does not decode, by its bits. -/
def rawClauseBad (b : Bundle) (w : Word) : Bool :=
  let len := wordsOf w
  !hdrClass b.header (classOf (opOf w)) || decide (hdrCount b.header < b.pos + len) ||
    (closingWord w && b.pos + len != hdrCount b.header) || (nonReplayable w && !hdrNR b.header)

/-- A word that fails order 2 of R284: ILLEGAL_CLAUSE if it fails order 1 as well, else ILLEGAL_INSTRUCTION, in every thread that
no remote access holds (R396). -/
def execIllegalInstruction (word : Word) (s : State) : Host.Outcome State Fault Refusal :=
  match (s.core s.cur).bundle with
  | none => .refused .noBundle
  | some b =>
    if s.allHeld b then .next (s.setBundle s.cur (some { b with stalled := true }))
    else
      let go := s.goingOn b
      let k : Cause := if rawClauseBad b word then .illegalClause else .illegalInstruction
      .next (settle s.cur 1 go { s := s.standAside b, traps := go.members.map (fun m => ⟨m, k, 0, 0⟩) })

end Sys2Proof.Machine
end

