-- ==== Sys2Proof/Machine/Copies.lean ====
section
/-! DEFINITION. Copies and Renaz transfers at issue: their checks in order (R341 to R343, R352, R353), staging in a DET launch
(R148, R150), and the answers of remote sides (R396, R439). -/

namespace Sys2Proof.Machine

/-- A copy's operands: rows of width bytes; for .sb the destination is an offset in reservation id. -/
structure CopyArgs where
  sb : Option Nat := none
  dst : Nat
  src : Nat
  width : Nat
  rows : Nat := 1
  spitch : Nat := 0
  dpitch : Nat := 0
  /-- A limit of R342 or a descriptor field is broken. -/
  bad : Bool := false
  /-- An XRED: its addresses are held to the element size whatever the count, and its ranges to R353 alone. -/
  red : Bool := false
  deriving DecidableEq, Repr

def CopyArgs.empty (a : CopyArgs) : Bool := a.width == 0 || a.rows == 0

/-- Rows as (source, destination). -/
def CopyArgs.rowList (a : CopyArgs) : List (Nat × Nat) :=
  (List.range a.rows).map (fun r => (a.src + r * a.spitch, a.dst + r * a.dpitch))

/-- The hulls of the two sides overlap (R48). -/
def CopyArgs.overlap (a : CopyArgs) : Bool :=
  decide (a.src < a.dst + (a.rows - 1) * a.dpitch + a.width ∧ a.dst < a.src + (a.rows - 1) * a.spitch + a.width)

/-- What the checks find. -/
inductive Checked where
  | rows (r : List (List Segment))
  | trap (k : Cause) (code : Nat) (va : Nat)
  | walkPoison

/-- One byte range inside a page, for the engine of a thread that issues: R36, guards, lacing stores. -/
def State.engineAccess (s : State) (c : Ctx) (va n : Nat) (k : AccKind) : Except Bad Loc × State :=
  let tn := (s.team c.team).tenant
  match s.access c.cluster tn (va : Int) 1 k false true with
  | (.ok l, s) => if s.guardedLoc tn va l n then (.error (.trap .access), s) else (.ok l, s)
  | r => r

/-- The segments of one row, or its first failing page: source before destination. -/
def State.checkRow (s : State) (c : Ctx) (a : CopyArgs) (base : Nat) (row : Nat × Nat) : Checked × State :=
  let r := (pieces a.sb.isSome (2 * (a.width / 4096) + 4) row.1 row.2 a.width).foldl (fun (r : Checked × State) p =>
    match r.1 with
    | .rows [segs] =>
      match r.2.engineAccess c p.1 p.2.2 .read with
      | (.error (.trap k), s) => (.trap k 5 p.1, s)
      | (.error .walkPoison, s) => (.walkPoison, s)
      | (.ok src, s) =>
        if a.sb.isSome then
          (.rows [segs ++ [Segment.mk p.1 p.2.1 p.2.2 src (.fabric 0 0) (some (base + p.2.1))]], s)
        else match s.engineAccess c p.2.1 p.2.2 .write with
          | (.error (.trap k), s) => (.trap k 6 p.2.1, s)
          | (.error .walkPoison, s) => (.walkPoison, s)
          | (.ok dst, s) => (.rows [segs ++ [Segment.mk p.1 p.2.1 p.2.2 src dst none]], s)
    | _ => r) (.rows [[]], s)
  r

def State.checkRows (s : State) (c : Ctx) (a : CopyArgs) (base : Nat) : List (Nat × Nat) → Checked × State
  | [] => (.rows [], s)
  | row :: rest =>
    match s.checkRow c a base row with
    | (.rows r, s) =>
      match s.checkRows c a base rest with
      | (.rows q, s) => (.rows (r ++ q), s)
      | x => x
    | x => x

/-- The first row address at or above 2^52 (R15): side code and address. -/
def CopyArgs.noncanon (a : CopyArgs) : Option (Nat × Nat) :=
  a.rowList.findSome? (fun r =>
    if 2 ^ 52 ≤ r.1 then some (5, r.1)
    else if 2 ^ 52 ≤ r.1 + a.width - 1 then some (5, r.1 + a.width - 1)
    else if a.sb.isSome then none
    else if 2 ^ 52 ≤ r.2 then some (6, r.2)
    else if 2 ^ 52 ≤ r.2 + a.width - 1 then some (6, r.2 + a.width - 1)
    else none)

/-- The reservation a .sb copy names. -/
def State.copyResv (s : State) (t : Nat) (a : CopyArgs) : Resv :=
  match a.sb with
  | none => {}
  | some id => (s.team t).resv.get {} id

/-- Every check of R343, in order. -/
def State.checkCopy (s : State) (c : Ctx) (a : CopyArgs) (align : Nat) : Checked × State :=
  let r := s.copyResv c.team a
  let last := a.dst + (a.rows - 1) * a.dpitch + a.width - 1
  if a.bad then (.trap .illegalOperand 0 0, s)
  else if a.red && a.empty then
    (if a.src % align ≠ 0 then (.trap .align 5 a.src, s) else if a.dst % align ≠ 0 then (.trap .align 6 a.dst, s) else (.rows [], s))
  else if a.empty then (if a.sb.isSome && !r.live then (.trap .access 6 0, s) else (.rows [], s))
  else if a.sb.isNone && !a.red && a.overlap then (.trap .illegalOperand 0 0, s)
  else match a.noncanon with
    | some (code, va) => (.trap .addrNoncanon code va, s)
    | none =>
      if a.src % align ≠ 0 then (.trap .align 5 a.src, s)
      else if a.dst % align ≠ 0 then (.trap .align 6 a.dst, s)
      else match s.checkRows c a (64 * r.unit) a.rowList with
        | (.rows q, s) =>
          if a.sb.isSome && (!r.live || decide (64 * r.r1.toNat ≤ last)) then (.trap .access 6 0, s)
          else (.rows q, s)
        | x => x

/-- All 64 command slots of a cluster's copy engine are busy. A copy paused for the ticket holds none (R55, log 23). -/
def State.engineBusy (s : State) (c : Nat) : Bool :=
  decide (64 ≤ (s.ops.filter (fun o => !o.finished && o.rest.isEmpty && !o.kind.segs.isEmpty && (s.team o.team).cluster == c)).length)

/-- The word waits for c.cpy to fall to 62, or for a command slot (R55). -/
def waitSlot (c : Ctx) (s : State) : Res :=
  if s.counterFull c.team c.b.groups cCpy then waitCopy c 62 s else stalled s

/-- The modules among some locations. -/
def modulesOf (ls : List Loc) : List Nat :=
  (ls.filterMap (fun l => match l with
    | .peer m _ => some m
    | _ => none)).dedup

/-- Ask the remote side of some locations and wait (R439, log 20). -/
def askPeer (c : Ctx) (ls : List Loc) (s : State) : Res :=
  stalled (s.updCore c.core (fun x => { x with bundle := x.bundle.map (fun b => { b with asked := true, peers := modulesOf ls }) }))

def segLocs (segs : List Segment) : List Loc := (segs.map (fun g => [g.src, g.dst])).flatten

def Segment.remote (g : Segment) : Bool := g.src.remote || (g.sb.isNone && g.dst.remote)

/-- The runs of global destination bytes of a row: their first address, and the segments that make one up. -/
def globalRuns (row : List Segment) : List (List Segment) :=
  (row.foldr (fun g (r : List (List Segment)) =>
    if g.dst.isFabric then [] :: r else match r with
      | [] => [[g]]
      | x :: y => (g :: x) :: y) []).filter (fun x => !x.isEmpty)

/-- The bytes of a run as the engine reads them. -/
def State.runBytes (s : State) (t : Nat) (run : List Segment) : List (Byte × Bool) := (run.map (fun g => s.segRead t g)).flatten

/-- One piece of a staged copy: its entry, with the poison of its data words. -/
def stagePiece (id va : Nat) (bs : List (Byte × Bool)) : Stage :=
  { va := va, red := false, aop := 0, atype := 0, data := bs.map (·.1), copy := true, op := id
    poison := (List.range bs.length).foldl (fun m i => if (bs.getD i (0, false)).2 then NatSet.set m (i / 8) true else m) [] }

/-- A row between 64-byte lines, with poison. -/
def rowPieces (va : Nat) (bs : List (Byte × Bool)) : List (Nat × List (Byte × Bool)) :=
  (List.range ((va % 64 + bs.length + 63) / 64)).map (fun i =>
    let lo := if i = 0 then va else (va / 64 + i) * 64
    (lo, (bs.drop (lo - va)).take ((va / 64 + i + 1) * 64 - lo)))

/-- Stage pieces while they fit: bytes staged, whether all were. -/
def State.stagePieces (s : State) (t id : Nat) : List (Nat × List (Byte × Bool)) → (Nat × Bool) × State
  | [] => ((0, true), s)
  | p :: r =>
    if s.stageFits t (stageSize p.2.length) then
      let (q, s) := (s.stage t (stagePiece id p.1 p.2)).stagePieces t id r
      ((p.2.length + q.1, q.2), s)
    else ((0, false), s)

/-- The staging buffer as it would stand had the older copies of a team not paused: what their rests will write is staged behind the rest. -/
def State.stageRests (s : State) (t id : Nat) : State :=
  (s.ops.filter (fun x => x.team == t && decide (x.id < id))).foldl (fun s x =>
    x.rest.foldl (fun s g => (rowPieces g.dstVa (s.segRead t g)).foldl (fun s p => s.stage t (stagePiece x.id p.1 p.2)) s) s) s

/-- What the bytes would be had the older copies of a copy's groups ended: its records are of those (R160). -/
def State.olderView (s : State) (o : Op) : State :=
  ((s.ops.filter (fun x => decide (x.id < o.id) && !x.finished && x.team == o.team && x.counter == o.counter &&
    x.groups.any (fun g => o.groups.contains g))).foldl (fun s x => s.runOwn { x with rest := [] }) s).stageRests o.team o.id

/-- The destination bytes of the first n bytes of segments, with their poison as read. -/
def wroteBytes (n : Nat) (segs : List Segment) (bs : List (Byte × Bool)) : List (Loc × Bool) :=
  (((segs.map (fun g => (List.range g.len).map (fun i => g.dst.plus i))).flatten).zip (bs.map (·.2))).take n

/-- A copy of a DET team with global destination bytes: the records of those bytes as it issues (R160), then their writes, direct or staged;
what does not fit pauses (R150), and so does all of it behind an older copy that shares bytes with it and is paused. Its fabric bytes, and the global
ones of a team that holds the ticket, move as those of any copy. -/
def detCopy (c : Ctx) (rows : List (List Segment)) (s : State) (id : Nat) : State :=
  match s.op id with
  | none => s
  | some o =>
    let runs := (rows.map globalRuns).flatten
    let globals := runs.flatten
    let held := (s.olderOps o).any (fun x => s.opPaused 64 x)
    let s := (if held then s else (s.olderOps o).foldl (fun s x => s.runOp 64 x.id) s).performBefore o
    let view := if held then s.olderView o else s
    let data := runs.map (fun r => ((r.head?.map (·.dstVa)).getD 0, view.runBytes c.team r))
    let s := data.foldl (fun s d => s.recordWrite c.team c.low 0 d.1 (d.2.map (·.1))) s
    if held then s.setOp { o with kind := .copy ((rows.flatten).filter (fun g => g.dst.isFabric)) none, rest := globals }
    else if s.holdsTicket c.team then s
    else
      let s := s.count c.part 9 (poisonedUnits (s.moved c.team globals []))
      let (q, s) := s.stagePieces c.team id ((data.map (fun d => rowPieces d.1 d.2)).flatten)
      let fabrics := (rows.flatten).filter (fun g => g.dst.isFabric)
      s.setOp { o with
        kind := .copy fabrics none, rest := dropSegs q.1 globals, wrote := wroteBytes q.1 globals ((data.map (·.2)).flatten) }

/-- The common path of the copies (R343). -/
def copyWord (i : Instr) (args : Group → CopyArgs) (s : State) : Host.Outcome State Fault Refusal :=
  runWord i s fun c s =>
    let a := args (s.group c.team c.g)
    match s.checkCopy c a 1 with
    | (.walkPoison, s) => poisonedWalk s
    | (.trap k code va, s) => c.all s k code (BitVec.ofNat 64 va)
    | (.rows rows, s) =>
      let segs := rows.flatten
      let toGlobal := segs.any (fun g => g.sb.isNone && !g.dst.isFabric)
      if toGlobal && c.b.groups.any (fun g => s.doneGuard c.team g) then c.all s .access 6 (BitVec.ofNat 64 a.dst)
      else if segs.any (fun g => s.detReadWaits c.team g.src g.len) then waitTicket c s
      else if s.counterFull c.team c.b.groups cCpy || s.engineBusy c.cluster then waitSlot c s
      else if segs.any Segment.remote && c.b.peer.isNone then askPeer c (segLocs segs) s
      else match c.b.peer with
        | some (false, va) => c.all s .access (if decide (a.dst ≤ va.toNat) && a.sb.isNone && decide (va.toNat < a.dst + (a.rows - 1) * a.dpitch + a.width) then 6 else 5) va
        | _ =>
          let s := s.exposeIf c.team (segs.any (fun g => match g.dst with
            | .host _ _ => g.sb.isNone
            | _ => false))
          let grant := if a.sb.isSome then some (s.copyResv c.team a).grant else none
          let (id, s) := s.startOp c.team c.b.groups cCpy (.copy segs grant) (segs.any Segment.remote) c.mems
          if segs.isEmpty then done (s.finishNow id)
          else if c.lpb.det && toGlobal then done (detCopy c rows s id)
          else done s

/-- A one-dimensional copy. -/
def cpyArgs (d a : BitVec 9) (b : STail) (g : Group) : CopyArgs :=
  { dst := (g.sPair d.toNat).toNat, src := (g.sPair a.toNat).toNat, width := (g.sGet b.reg).toNat }

/-- The destination of a .sb copy: the descriptor's even word (R343). -/
def sbArgs (d : BitVec 9) (g : Group) (x : CopyArgs) : CopyArgs :=
  let w := (g.sGet d.toNat).toNat
  { x with sb := some (bitsOf w 7 0), dst := bitsOf w 25 8, bad := x.bad || decide (2 ^ 26 ≤ w) }

/-- The shape of a 2D copy (R342). -/
def cpy2dArgs (d a : BitVec 9) (b : STail) (g : Group) : CopyArgs :=
  let r (k : Nat) : Nat := (g.sGet (b.reg + k)).toNat
  { dst := (g.sPair d.toNat).toNat, src := (g.sPair a.toNat).toNat, width := r 0, rows := r 1, spitch := r 2, dpitch := r 3,
    bad := decide (2 ^ 32 ≤ r 0 * r 1) || (decide (1 < r 1) && decide (r 3 < r 0)) }

def execCpy (d a : BitVec 9) (b : STail) (s : State) : Host.Outcome State Fault Refusal :=
  copyWord (.cpy d a b) (cpyArgs d a b) s

def execCpySb (d a : BitVec 9) (b : STail) (s : State) : Host.Outcome State Fault Refusal :=
  copyWord (.cpySb d a b) (fun g => sbArgs d g (cpyArgs d a b g)) s

def execCpy2d (d a : BitVec 9) (b : STail) (s : State) : Host.Outcome State Fault Refusal :=
  copyWord (.cpy2d d a b) (cpy2dArgs d a b) s

def execCpy2dSb (d a : BitVec 9) (b : STail) (s : State) : Host.Outcome State Fault Refusal :=
  copyWord (.cpy2dSb d a b) (fun g => sbArgs d g (cpy2dArgs d a b g)) s

/-! ### Renaz transfers -/

/-- The one module all locations lie on, if there is one. -/
def oneModule (ls : List Loc) : Option Nat :=
  match ls with
  | .peer m _ :: r => if r.all (fun l => match l with
      | .peer k _ => k == m
      | _ => false) then some m else none
  | _ => none

def Loc.isPeer : Loc → Bool
  | .peer _ _ => true
  | _ => false

/-- XCPY: exactly one side wholly on one peer, the other here (R352). -/
def xcpyShape (segs : List Segment) : Bool :=
  let src := segs.map (·.src)
  let dst := segs.map (·.dst)
  ((oneModule src).isSome && !dst.any Loc.remote) || ((oneModule dst).isSome && !src.any Loc.remote)

/-- The common path of XCPY and XRED after their own checks: ticket, R216, room, the peer's answer, issue. -/
def renazIssue (c : Ctx) (dst : Nat) (kind : OpKind) (record : State → State) (s : State) : Res :=
  if c.b.groups.any (fun g => s.doneGuard c.team g) then c.all s .access 6 (BitVec.ofNat 64 dst)
  else if c.lpb.det && !s.holdsTicket c.team then waitTicket c s
  else if s.counterFull c.team c.b.groups cCol || s.engineBusy c.cluster then stalled s
  else if !kind.segs.isEmpty && c.b.peer.isNone then askPeer c (segLocs kind.segs) s
  else match c.b.peer with
    | some (false, va) => c.all s .access (if kind.segs.any (fun g => g.src.isPeer) then 5 else 6) va
    | _ =>
      let (id, s) := s.startOp c.team c.b.groups cCol kind true c.mems
      let s := if c.lpb.det then s.performIssuers id else s
      let s := record (s.exposeIf c.team true)
      done (if kind.segs.isEmpty then s.finishNow id else s)

def execXcpy (d a : BitVec 9) (b : STail) (s : State) : Host.Outcome State Fault Refusal :=
  runWord (.xcpy d a b) s fun c s =>
    let x := cpyArgs d a b (s.group c.team c.g)
    match s.checkCopy c x 1 with
    | (.walkPoison, s) => poisonedWalk s
    | (.trap k code va, s) => c.all s k code (BitVec.ofNat 64 va)
    | (.rows rows, s) =>
      let segs := rows.flatten
      if !segs.isEmpty && !xcpyShape segs then c.all s .access 6 (BitVec.ofNat 64 x.dst)
      else renazIssue c x.dst (.xcpy segs) (fun s => if segs.all (fun g => g.dst.isFabric) then s else
        ((rows.map globalRuns).flatten).foldl (fun s r =>
          s.recordWrite c.team c.low 0 ((r.head?.map (·.dstVa)).getD 0) ((s.runBytes c.team r).map (·.1))) s) s

def execXred (d a : BitVec 9) (e : SExt) (s : State) : Host.Outcome State Fault Refusal :=
  runWord (.xred d a e) s fun c s =>
    let g := s.group c.team c.g
    let size := atypeSize e.atype.toNat
    let x := { cpyArgs d a (.ext { e with sc := 0, atype := 0, func := 0 }) g with
      bad := (g.sGet e.sb.toNat).toNat % size != 0, red := true }
    match s.checkCopy c x size with
    | (.walkPoison, s) => poisonedWalk s
    | (.trap k code va, s) => c.all s k code (BitVec.ofNat 64 va)
    | (.rows rows, s) =>
      let segs := rows.flatten
      if !segs.isEmpty && !((oneModule (segs.map (·.dst))).isSome && !(segs.map (·.src)).any Loc.remote) then
        c.all s .access 6 (BitVec.ofNat 64 x.dst)
      else renazIssue c x.dst (.xred segs e.func.toNat e.atype.toNat (g.sGet e.sc.toNat).toNat) (fun s =>
        (xredElems size x.dst ((segs.map (fun g => (s.segRead c.team g).map (·.1))).flatten)).foldl
          (fun s q => s.recordWrite c.team c.low (redKind e.func.toNat e.atype.toNat) q.1 q.2) s) s

/-! ### Answers of remote sides -/

/-- A peer has no live port left (R437). -/
def State.cutOff (s : State) (m : Nat) : Bool :=
  !(Config.portsTo m).isEmpty && (Config.portsTo m).all (fun p => NatSet.has s.portsDown p)

/-- A port of a module that has no live port left. -/
def State.deadPort (s : State) (ms : List Nat) : Option Nat := (ms.find? s.cutOff).bind (fun m => (Config.portsTo m).head?)

/-- No answer comes from a module that has no live port left: the failure of its port is handled again, for the traffic that now waits
(R437, R408). -/
def State.orDead (s : State) (ls : List Loc) (r : Host.Outcome State Fault Refusal) : Host.Outcome State Fault Refusal :=
  match s.deadPort (modulesOf ls) with
  | none => r
  | some p => .next { s with agenda := ⟨0, .event (.renazPortDown p)⟩ :: s.agenda }

/-- PEER_CHECK_REPLY: the answer to the transfer that waits on a core (R439). -/
def execPeerCheckReply (core : Nat) (accept : Bool) (va : Dword) (s : State) : Host.Outcome State Fault Refusal :=
  match (s.core core).bundle with
  | none => s.idle
  | some b =>
    if b.asked && b.peer.isNone then
      s.orDead (b.peers.map (fun m => .peer m 0)) (.next (s.setBundle core (some { b with peer := some (accept, va), stalled := false })))
    else s.idle

/-- A thread traps at an earlier word of its own, and leaves its bundle (R396). -/
def State.lateTrap (s : State) (t : Nat) (m : Member) (cause : Cause) (code : Nat) (va pc : Dword) (pos : Nat) : State :=
  let core := (s.group t m.1).core
  let s := match (s.core core).bundle with
    | none => s
    | some b =>
      if b.team == t && b.members.contains m then
        let b := { b with members := b.members.filter (· != m) }
        if b.members.isEmpty then s.freeSlice core else s.setBundle core (some b)
      else s
  s.takeTrap t m { cause := cause, code := code, tva := va, pc := pc, rpos := pos }

/-- The source index of an XRED, and its window at the peer. -/
def OpKind.xredAt : OpKind → Option (Nat × Nat)
  | .xred (g :: _) _ _ i => match g.dst with
    | .peer m a => some (i, m * 2 ^ 22 + Config.peerWindow m a)
    | _ => none
  | _ => none

/-- The round of its window that an XRED belongs to, counted from the one in progress: an index that has been applied in a round is of the
next (R440). -/
def State.xredRound (s : State) (o : Op) (i w : Nat) : Nat :=
  Bool.bit (decide (i < s.xredNext.get 0 w)) +
    (s.ops.filter (fun x => decide (x.id < o.id) && !x.finished && x.kind.xredAt == some (i, w))).length

/-- An unfinished XRED of the same window that the peer applies before o: one of an earlier round, or of a lower source index of the
same round (R353, R440, log 75). -/
def State.lowerXred (s : State) (o : Op) : Bool :=
  match o.kind.xredAt with
  | none => false
  | some (i, w) =>
    let r := s.xredRound o i w
    s.ops.any (fun x => x.id != o.id && !x.finished && (match x.kind.xredAt with
      | some (k, v) => v == w && (let q := s.xredRound x k w; decide (q < r ∨ q = r ∧ k < i))
      | none => false))

/-- The peer's round after an XRED has been applied. -/
def State.xredApplied (s : State) (o : Op) : State :=
  match o.kind.xredAt with
  | none => s
  | some (i, w) => { s with xredNext := s.xredNext.put 0 w (i + 1) }

/-- The next lane of an atomic whose answer comes from outside. -/
def State.remoteLane (s : State) (id : Nat) : Option (AwlReq × AwlLane) :=
  match s.awl.find? (fun q => q.op == id && decide (320 ≤ q.owner) && !q.lanes.isEmpty) with
  | none => none
  | some q => q.lanes.head?.map (fun l => (q, l))

/-- A lane operation of an older atomic of the same group at the same bytes comes first (R104). -/
def State.olderLane (s : State) (o : Op) (l : AwlLane) : Bool :=
  s.awl.any (fun q => q.op != 0 && decide (q.op < o.id) && q.team == o.team && q.lanes.any (fun a =>
    a.group == l.group && a.loc.overlaps a.size l.loc l.size))

/-- The lane's answer has come: it leaves its request, and a request without lanes is gone. -/
def State.takeLane (s : State) (q : AwlReq) : State :=
  { s with awl := (s.awl.map (fun x => if x.id == q.id then { x with lanes := x.lanes.drop 1 } else x)).filter (fun x =>
      !(x.id == q.id && x.lanes.isEmpty)) }

/-- Whether the answer of the remote side of a transfer can have come. -/
def State.answered (s : State) (o : Op) : Bool :=
  match o.kind with
  | .copy _ _ | .xcpy _ | .xred _ _ _ _ => !s.opHeld 64 o && !s.lowerXred o
  | .atomics => match s.remoteLane o.id with
    | some (_, l) => !s.olderLane o l
    | none => false
  | _ => false

/-- The remote work of an acknowledged operation. -/
def State.ackOp (s : State) (o : Op) : State :=
  match o.kind with
  | .copy _ _ | .xcpy _ | .xred _ _ _ _ => ((s.runOp 64 o.id).xredApplied o).recordOp o.id
  | .atomics => match s.remoteLane o.id with
    | some (q, l) => performLane q (s.takeLane q) l
    | none => s
  | _ => s

/-- The remote side has rejected the next lane of an atomic: its thread traps, and the others go on (R37). -/
def State.rejectLane (s : State) (id : Nat) : State :=
  match s.remoteLane id with
  | some (q, l) => (s.takeLane q).lateTrap q.team (l.group, l.lane) .access 3 (BitVec.ofNat 64 l.va) q.pc q.pos
  | none => s

/-- Where the next answer to an operation comes from. -/
def State.answerFrom (s : State) (o : Op) : List Loc :=
  match o.kind with
  | .atomics => ((s.remoteLane o.id).map (fun q => q.2.loc)).toList
  | _ => segLocs o.kind.segs

/-- REMOTE_ACK: the answer to a remote access, to one lane of an atomic, or to a transfer. A rejected access traps its thread at its own
word, one of an LDU every thread of it (R338); the rows of a TST have been accepted before. -/
def execRemoteAck (id : Nat) (ok : Bool) (s : State) : Host.Outcome State Fault Refusal :=
  match s.flight id with
  | some f =>
    if f.performed || f.kind == .result || !f.loc.remote then s.idle
    else if ok then s.orDead [f.loc] (.next (s.perform id))
    else if f.akind = 8 then s.idle
    else s.orDead [f.loc]
      (.next (f.threads.foldl (fun s m => s.lateTrap f.team m .access f.akind (BitVec.ofNat 64 f.va) f.pc f.pos) (s.dropFlight id)))
  | none =>
    match s.op id with
    | none => s.idle
    | some o =>
      if o.finished || !o.remote || !s.answered o then s.idle
      else if ok then s.orDead (s.answerFrom o) (.next (s.ackOp o))
      else match o.kind with
        | .atomics => s.orDead (s.answerFrom o) (.next (s.rejectLane id))
        | _ => s.idle

end Sys2Proof.Machine
end

