-- ==== Sys2Proof/Machine/VectorInt.lean ====
section
/-! DEFINITION. Class V, integer words (R312, R314 to R318). Operands and results are patterns of the type's width; an operation
converts them to integers, computes exactly and narrows once. -/

namespace Sys2Proof.Machine

/-- The result of an integer operation, exact: clamped under sat, else wrapped (R249, R314). -/
def intResult (t : ElemTy) (sat : Bool) (n : Int) : Nat × Flags :=
  if sat then let (c, f) := saturate t.isSigned t.width n; (patOf t.width c, flagIf f fSAT) else (patOf t.width n, 0)

/-- The value of an operand pattern under a type. -/
def valOf (t : ElemTy) (x : Nat) : Int := intOf t.isSigned t.width x

/-- A narrow result is extended to 32 bits (R312). -/
def widen (t : ElemTy) (r : Nat × Flags) : Nat × Flags := (if t.width < 32 then extendTo32 t r.1 else r.1, r.2)

/-- A vector word of one source. -/
def vecWord1 (i : Instr) (nw : Bool) (d : BitVec 7) (a : BitVec 8) (wa : Nat) (imm : Option (BitVec 16)) (wide : Bool)
    (op : Thread → Nat → Nat × Flags) (s : State) : Host.Outcome State Fault Refusal :=
  runWord i s fun c s => done (s.perThread c nw d.toNat wide fun g th env => op th (readSrc g th env imm a wa))

/-- A vector word of two sources. -/
def vecWord2 (i : Instr) (nw : Bool) (d : BitVec 7) (a b : BitVec 8) (wa wb : Nat) (imm : Option (BitVec 16)) (wide : Bool)
    (op : Thread → Nat → Nat → Nat × Flags) (s : State) : Host.Outcome State Fault Refusal :=
  runWord i s fun c s => done (s.perThread c nw d.toNat wide fun g th env =>
    op th (readSrc g th env imm a wa) (readSrc g th env imm b wb))

/-- A vector word of three sources. -/
def vecWord3 (i : Instr) (nw : Bool) (d : BitVec 7) (a b k : BitVec 8) (wa wb wk : Nat) (imm : BitVec 16) (wide : Bool)
    (op : Thread → Nat → Nat → Nat → Nat × Flags) (s : State) : Host.Outcome State Fault Refusal :=
  runWord i s fun c s => done (s.perThread c nw d.toNat wide fun g th env =>
    op th (readSrc g th env (some imm) a wa) (readSrc g th env (some imm) b wb) (readSrc g th env (some imm) k wk))

/-- Integer words whose sources and result have the type's width. -/
def intWord2 (i : Instr) (nw : Bool) (d : BitVec 7) (a b : BitVec 8) (e : Option VExt) (op : ElemTy → Nat → Nat → Nat × Flags)
    (s : State) : Host.Outcome State Fault Refusal :=
  let t := tyOf .z32 e
  vecWord2 i nw d a b t.width t.width (immOf e) (t.width == 64) (fun _ x y => widen t (op t x y)) s

/-- Shifts: the count is a 32-bit operand (R314). -/
def shiftWord (i : Instr) (nw : Bool) (d : BitVec 7) (a b : BitVec 8) (e : Option VExt) (op : ElemTy → Nat → Nat → Nat × Flags)
    (s : State) : Host.Outcome State Fault Refusal :=
  let t := tyOf .z32 e
  vecWord2 i nw d a b t.width 32 (immOf e) (t.width == 64) (fun _ x y => widen t (op t x y)) s

/-- Integer words of one source with a result of the type's width. -/
def intWord1 (i : Instr) (nw : Bool) (d : BitVec 7) (a : BitVec 8) (e : Option VExt) (op : ElemTy → Nat → Nat) (s : State) :
    Host.Outcome State Fault Refusal :=
  let t := tyOf .z32 e
  vecWord1 i nw d a t.width (immOf e) (t.width == 64) (fun _ x => widen t (op t x, 0)) s

def satOf (e : Option VExt) : Bool :=
  match e with
  | none => false
  | some x => x.sat

def vaddVal (sat : Bool) (t : ElemTy) (a b : Nat) : Nat × Flags := intResult t sat (valOf t a + valOf t b)
def vsubVal (sat : Bool) (t : ElemTy) (a b : Nat) : Nat × Flags := intResult t sat (valOf t a - valOf t b)
def vmulVal (sat : Bool) (t : ElemTy) (a b : Nat) : Nat × Flags := intResult t sat (valOf t a * valOf t b)
/-- Bits [2w−1:w] of the exact product. -/
def vmulhVal (t : ElemTy) (a b : Nat) : Nat × Flags := (patOf t.width ((valOf t a * valOf t b) / 2 ^ t.width), 0)
def vmadVal (sat : Bool) (t : ElemTy) (a b k : Nat) : Nat × Flags := intResult t sat (valOf t a * valOf t b + valOf t k)
def vandVal (_ : ElemTy) (a b : Nat) : Nat × Flags := (a &&& b, 0)
def vorVal (_ : ElemTy) (a b : Nat) : Nat × Flags := (a ||| b, 0)
def vxorVal (_ : ElemTy) (a b : Nat) : Nat × Flags := (a ^^^ b, 0)
/-- With sat the exact a × 2^b is clamped; a count of w or more makes it out of range, unless a is 0. -/
def vshlVal (sat : Bool) (t : ElemTy) (a b : Nat) : Nat × Flags :=
  if sat then intResult t true (valOf t a * 2 ^ (min b 64))
  else if t.width ≤ b then (0, 0) else (a * 2 ^ b % 2 ^ t.width, 0)
def vshrVal (t : ElemTy) (a b : Nat) : Nat × Flags := (if t.width ≤ b then 0 else a / 2 ^ b, 0)
/-- The w-bit pattern shifted arithmetically. -/
def vsarVal (t : ElemTy) (a b : Nat) : Nat × Flags := (patOf t.width (toSigned t.width a / 2 ^ (min b t.width)), 0)
def vminVal (t : ElemTy) (a b : Nat) : Nat × Flags := (if valOf t b < valOf t a then b else a, 0)
def vmaxVal (t : ElemTy) (a b : Nat) : Nat × Flags := (if valOf t a < valOf t b then b else a, 0)

def execVadd (nw : Bool) (d : BitVec 7) (a b : BitVec 8) (e : Option VExt) (s : State) : Host.Outcome State Fault Refusal :=
  intWord2 (.vadd nw d a b e) nw d a b e (vaddVal false) s

def execVaddsat (nw : Bool) (d : BitVec 7) (a b : BitVec 8) (e : VExt) (s : State) : Host.Outcome State Fault Refusal :=
  intWord2 (.vaddsat nw d a b e) nw d a b (some e) (vaddVal true) s

def execVsub (nw : Bool) (d : BitVec 7) (a b : BitVec 8) (e : Option VExt) (s : State) : Host.Outcome State Fault Refusal :=
  intWord2 (.vsub nw d a b e) nw d a b e (vsubVal false) s

def execVsubsat (nw : Bool) (d : BitVec 7) (a b : BitVec 8) (e : VExt) (s : State) : Host.Outcome State Fault Refusal :=
  intWord2 (.vsubsat nw d a b e) nw d a b (some e) (vsubVal true) s

def execVmul (nw : Bool) (d : BitVec 7) (a b : BitVec 8) (e : Option VExt) (s : State) : Host.Outcome State Fault Refusal :=
  intWord2 (.vmul nw d a b e) nw d a b e (vmulVal (satOf e)) s

def execVmulh (nw : Bool) (d : BitVec 7) (a b : BitVec 8) (e : Option VExt) (s : State) : Host.Outcome State Fault Refusal :=
  intWord2 (.vmulh nw d a b e) nw d a b e vmulhVal s

def execVmad (nw : Bool) (d : BitVec 7) (a b : BitVec 8) (e : VExt) (s : State) : Host.Outcome State Fault Refusal :=
  vecWord3 (.vmad nw d a b e) nw d a b e.sc e.ty.width e.ty.width e.ty.width e.imm (e.ty.width == 64)
    (fun _ x y z => widen e.ty (vmadVal e.sat e.ty x y z)) s

def execVand (nw : Bool) (d : BitVec 7) (a b : BitVec 8) (e : Option VExt) (s : State) : Host.Outcome State Fault Refusal :=
  intWord2 (.vand nw d a b e) nw d a b e vandVal s

def execVor (nw : Bool) (d : BitVec 7) (a b : BitVec 8) (e : Option VExt) (s : State) : Host.Outcome State Fault Refusal :=
  intWord2 (.vor nw d a b e) nw d a b e vorVal s

def execVxor (nw : Bool) (d : BitVec 7) (a b : BitVec 8) (e : Option VExt) (s : State) : Host.Outcome State Fault Refusal :=
  intWord2 (.vxor nw d a b e) nw d a b e vxorVal s

def execVshl (nw : Bool) (d : BitVec 7) (a b : BitVec 8) (e : Option VExt) (s : State) : Host.Outcome State Fault Refusal :=
  shiftWord (.vshl nw d a b e) nw d a b e (vshlVal (satOf e)) s

def execVshr (nw : Bool) (d : BitVec 7) (a b : BitVec 8) (e : Option VExt) (s : State) : Host.Outcome State Fault Refusal :=
  shiftWord (.vshr nw d a b e) nw d a b e vshrVal s

def execVsar (nw : Bool) (d : BitVec 7) (a b : BitVec 8) (e : Option VExt) (s : State) : Host.Outcome State Fault Refusal :=
  shiftWord (.vsar nw d a b e) nw d a b e vsarVal s

def execVmin (nw : Bool) (d : BitVec 7) (a b : BitVec 8) (e : Option VExt) (s : State) : Host.Outcome State Fault Refusal :=
  intWord2 (.vmin nw d a b e) nw d a b e vminVal s

def execVmax (nw : Bool) (d : BitVec 7) (a b : BitVec 8) (e : Option VExt) (s : State) : Host.Outcome State Fault Refusal :=
  intWord2 (.vmax nw d a b e) nw d a b e vmaxVal s

/-! ### Single-operand words (R315) -/

def vnotVal (t : ElemTy) (a : Nat) : Nat := 2 ^ t.width - 1 - a
def vabsVal (t : ElemTy) (a : Nat) : Nat := patOf t.width (if valOf t a < 0 then -valOf t a else valOf t a)
def vnegVal (t : ElemTy) (a : Nat) : Nat := patOf t.width (-valOf t a)
/-- Leading zero bits of a w-bit pattern. -/
def clz (w a : Nat) : Nat := w - bitLen a
/-- Set bits of a w-bit pattern. -/
def popCount (w a : Nat) : Nat := ((List.range w).filter (fun i => a.testBit i)).length
/-- Bit i moved to bit w − 1 − i. -/
def bitReverse (w a : Nat) : Nat := ((List.range w).map (fun i => if a.testBit i then 2 ^ (w - 1 - i) else 0)).sum

def execVnot (nw : Bool) (d : BitVec 7) (a : BitVec 8) (e : Option VExt) (s : State) : Host.Outcome State Fault Refusal :=
  intWord1 (.vnot nw d a e) nw d a e vnotVal s

def execVabs (nw : Bool) (d : BitVec 7) (a : BitVec 8) (e : Option VExt) (s : State) : Host.Outcome State Fault Refusal :=
  intWord1 (.vabs nw d a e) nw d a e vabsVal s

def execVneg (nw : Bool) (d : BitVec 7) (a : BitVec 8) (e : Option VExt) (s : State) : Host.Outcome State Fault Refusal :=
  intWord1 (.vneg nw d a e) nw d a e vnegVal s

def execVclz (nw : Bool) (d : BitVec 7) (a : BitVec 8) (e : Option VExt) (s : State) : Host.Outcome State Fault Refusal :=
  let t := tyOf .z32 e
  vecWord1 (.vclz nw d a e) nw d a t.width (immOf e) false (fun _ x => (clz t.width x, 0)) s

def execVpopc (nw : Bool) (d : BitVec 7) (a : BitVec 8) (e : Option VExt) (s : State) : Host.Outcome State Fault Refusal :=
  let t := tyOf .z32 e
  vecWord1 (.vpopc nw d a e) nw d a t.width (immOf e) false (fun _ x => (popCount t.width x, 0)) s

def execVbrev (nw : Bool) (d : BitVec 7) (a : BitVec 8) (e : Option VExt) (s : State) : Host.Outcome State Fault Refusal :=
  intWord1 (.vbrev nw d a e) nw d a e (fun t x => bitReverse t.width x) s

/-! ### Compares, selects and bit fields (R316, R317) -/

/-- The conditions of VCMP (R282, R316). -/
def vcmpHolds (t : ElemTy) (cond a b : Nat) : Bool :=
  match cond with
  | 0 => a == b
  | 1 => a != b
  | 2 => decide (valOf t a < valOf t b)
  | 3 => decide (valOf t a ≤ valOf t b)
  | 4 => decide (valOf t b < valOf t a)
  | _ => decide (valOf t b ≤ valOf t a)

def execVcmp (nw : Bool) (d : BitVec 7) (a b : BitVec 8) (e : VExt) (s : State) : Host.Outcome State Fault Refusal :=
  vecWord2 (.vcmp nw d a b e) nw d a b e.ty.width e.ty.width (some e.imm) false
    (fun _ x y => (Bool.bit (vcmpHolds e.ty e.rnd.toNat x y), 0)) s

def execVsel (nw : Bool) (d : BitVec 7) (a b : BitVec 8) (e : VExt) (s : State) : Host.Outcome State Fault Refusal :=
  vecWord3 (.vsel nw d a b e) nw d a b e.sc e.ty.width e.ty.width 32 e.imm (e.ty.width == 64)
    (fun _ x y z => (if z ≠ 0 then x else y, 0)) s

/-- VBFE (R317): a extended with zeros, or with a[31] for s32, then the field, zero- or sign-extended. -/
def vbfeVal (signed : Bool) (a b k : Nat) : Nat :=
  let pos := min b 32
  let len := min k 32
  let ext : Int := if signed then toSigned 32 a else a
  let field := patOf len (ext / 2 ^ pos)
  if len = 0 then 0 else patOf 32 (intOf signed len field)

/-- VBFI (R317). -/
def vbfiVal (a b k : Nat) : Nat :=
  let pos := min (k % 256) 32
  let len := min (k / 256 % 256) 32
  let mask := (2 ^ len - 1) * 2 ^ pos % 2 ^ 32
  (a - (a &&& mask)) + (b * 2 ^ pos &&& mask)

def execVbfe (nw : Bool) (d : BitVec 7) (a b : BitVec 8) (e : VExt) (s : State) : Host.Outcome State Fault Refusal :=
  vecWord3 (.vbfe nw d a b e) nw d a b e.sc 32 32 32 e.imm false (fun _ x y z => (vbfeVal e.ty.isSigned x y z, 0)) s

def execVbfi (nw : Bool) (d : BitVec 7) (a b : BitVec 8) (e : VExt) (s : State) : Host.Outcome State Fault Refusal :=
  vecWord3 (.vbfi nw d a b e) nw d a b e.sc 32 32 32 e.imm false (fun _ x y z => (vbfiVal x y z, 0)) s

/-! ### Division (R249, R318) -/

def vdivVal (t : ElemTy) (a b : Nat) : Nat × Flags :=
  if valOf t b = 0 then (2 ^ t.width - 1, fIDZ) else (patOf t.width (Int.tdiv (valOf t a) (valOf t b)), 0)

def vremVal (t : ElemTy) (a b : Nat) : Nat × Flags :=
  if valOf t b = 0 then (a, fIDZ) else (patOf t.width (Int.tmod (valOf t a) (valOf t b)), 0)

def execVdiv (nw : Bool) (d : BitVec 7) (a b : BitVec 8) (e : Option VExt) (s : State) : Host.Outcome State Fault Refusal :=
  intWord2 (.vdiv nw d a b e) nw d a b e vdivVal s

def execVrem (nw : Bool) (d : BitVec 7) (a b : BitVec 8) (e : Option VExt) (s : State) : Host.Outcome State Fault Refusal :=
  intWord2 (.vrem nw d a b e) nw d a b e vremVal s

end Sys2Proof.Machine
end

