-- ==== Sys2Proof/Machine/CrossLane.lean ====
section
/-! DEFINITION. Class V, cross-lane words (R327 to R334): every source value of the bundle is read before any destination is
written, and each group of a bundle acts for itself. -/

namespace Sys2Proof.Machine

/-- A thread that takes part, with the values it reads. -/
structure Row where
  m : Member
  a : Nat
  b : Nat
  deriving DecidableEq, Repr

def Row.lane (r : Row) : Nat := r.m.2

/-- The rows of one group, in lane order: a at width wa, b at width 32. -/
def State.rowsOf (s : State) (c : Ctx) (g : Nat) (imm : Option (BitVec 16)) (a : BitVec 8) (wa : Nat) (b : BitVec 8) : List Row :=
  (c.mems.filter (fun m => m.1 == g)).map (fun m =>
    let th := s.thread c.team m.1 m.2
    let e := s.env c.team m.1 m.2
    ⟨m, readSrc (s.group c.team g) th e imm a wa, readSrc (s.group c.team g) th e imm b 32⟩)

/-- A cross-lane word: op forms the results of one group from its rows, then all are written. -/
def crossWord (i : Instr) (nw : Bool) (d : BitVec 7) (a : BitVec 8) (wa : Nat) (b : BitVec 8) (imm : Option (BitVec 16))
    (wide : Bool) (op : State → Ctx → List Row → List (Member × Nat × Flags)) (s : State) :
    Host.Outcome State Fault Refusal :=
  runWord i s fun c s =>
    done (s.writeLanes c nw d.toNat wide ((c.b.groups.map (fun g => op s c (s.rowsOf c g imm a wa b))).flatten))

/-- a as read in lane l, if the thread there takes part. -/
def rowAt (rs : List Row) (l : Nat) : Option Nat := (rs.find? (fun r => r.lane == l)).map (·.a)

/-! ### Shuffles (R328, R329) -/

/-- Each thread receives a of its source lane, or its own. -/
def shuffle (src : Nat → Nat → Option Nat) (rs : List Row) : List (Member × Nat × Flags) :=
  rs.map (fun r => (r.m, (match src r.lane r.b with
    | some l => (rowAt rs l).getD r.a
    | none => r.a), 0))

def shflSrc (w _ b : Nat) : Option Nat := some (b % w)
def shfxSrc (w l b : Nat) : Option Nat := some (l ^^^ (b % w))
def shfupSrc (l b : Nat) : Option Nat := if b ≤ l then some (l - b) else none
def shfdnSrc (w l b : Nat) : Option Nat := if l + b < w then some (l + b) else none

def execVshfl (nw : Bool) (d : BitVec 7) (a b : BitVec 8) (e : Option VExt) (s : State) : Host.Outcome State Fault Refusal :=
  let t := tyOf .z32 e
  crossWord (.vshfl nw d a b e) nw d a t.width b (immOf e) (t.width == 64) (fun _ c rs => shuffle (shflSrc c.lpb.w) rs) s

def execVshfx (nw : Bool) (d : BitVec 7) (a b : BitVec 8) (e : Option VExt) (s : State) : Host.Outcome State Fault Refusal :=
  let t := tyOf .z32 e
  crossWord (.vshfx nw d a b e) nw d a t.width b (immOf e) (t.width == 64) (fun _ c rs => shuffle (shfxSrc c.lpb.w) rs) s

def execVshfup (nw : Bool) (d : BitVec 7) (a b : BitVec 8) (e : Option VExt) (s : State) : Host.Outcome State Fault Refusal :=
  let t := tyOf .z32 e
  crossWord (.vshfup nw d a b e) nw d a t.width b (immOf e) (t.width == 64) (fun _ _ rs => shuffle shfupSrc rs) s

def execVshfdn (nw : Bool) (d : BitVec 7) (a b : BitVec 8) (e : Option VExt) (s : State) : Host.Outcome State Fault Refusal :=
  let t := tyOf .z32 e
  crossWord (.vshfdn nw d a b e) nw d a t.width b (immOf e) (t.width == 64) (fun _ c rs => shuffle (shfdnSrc c.lpb.w) rs) s

/-- Checks 5 and 6 of R284 on a code that one thread reads. -/
def State.oneCause (s : State) (t : Nat) (o : Operand) (m : Member) : Option Cause :=
  let g := s.group t m.1
  let u : Use := { cls := .V, codes := [o] }
  if u.latchBad (g.thread m.2) then some .latchInvalid else if u.poisonBad g (g.thread m.2) then some .poisonRead else none

/-- The lowest thread reads a code alone: those that trap on it drop out, each in turn. -/
def State.dropBad (s : State) (t : Nat) (o : Operand) : List Member → List TrapAt × List Member
  | [] => ([], [])
  | m :: ms =>
    match s.oneCause t o m with
    | none => ([], m :: ms)
    | some k => let r := s.dropBad t o ms; (⟨m, k, 0, 0⟩ :: r.1, r.2)

/-- The word's effect in the groups of a bundle, when one code is read in the lowest taking-part thread of each. -/
def Ctx.lowestReads (c : Ctx) (s : State) (o : Operand) : List TrapAt × Ctx :=
  let rs := c.b.groups.map (fun g => s.dropBad c.team o (c.mems.filter (fun m => m.1 == g)))
  ((rs.map (·.1)).flatten, { c with b := { c.b with members := (rs.map (·.2)).flatten } })

/-- VBCST (R329): b is read in the lowest taking-part thread. -/
def broadcast (w : Nat) (rs : List Row) : List (Member × Nat × Flags) :=
  match rs with
  | [] => []
  | r0 :: _ => let v := (rowAt rs (r0.b % w)).getD r0.a; rs.map (fun r => (r.m, v, 0))

def execVbcst (nw : Bool) (d : BitVec 7) (a b : BitVec 8) (e : Option VExt) (s : State) : Host.Outcome State Fault Refusal :=
  let t := tyOf .z32 e
  runWord (.vbcst nw d a b e) s fun c s =>
    let (ts, c) := c.lowestReads s ⟨b, 32⟩
    { done (s.writeLanes c nw d.toNat (t.width == 64)
        ((c.b.groups.map (fun g => broadcast c.lpb.w (s.rowsOf c g (immOf e) a t.width b))).flatten)) with traps := ts }

/-! ### Reductions and scans (R330) -/

/-- The integer operators, by sb: add, min, max, and, or, xor. -/
def redInt (t : ElemTy) (op x y : Nat) : Nat :=
  match op with
  | 0 => (vaddVal false t x y).1
  | 1 => (vminVal t x y).1
  | 2 => (vmaxVal t x y).1
  | 3 => x &&& y
  | 4 => x ||| y
  | _ => x ^^^ y

/-- A running result: value, flags raised so far, and whether a NaN has been read. -/
abbrev Running := Nat × Flags × Bool

def intStep (t : ElemTy) (op : Nat) (r : Running) (x : Nat) : Running := (redInt t op r.1 x, r.2)

/-- A float step: the first NaN read, quieted, makes this and every later result. -/
def floatStep (f : Fmt) (op : Nat → Nat → Nat × Flags) (r : Running) (x : Nat) : Running :=
  let nv := flagIf (f.isSnan x) fNV
  if r.2.2 then (r.1, r.2.1 ||| nv, true)
  else if f.isNan x then (f.quiet x, r.2.1 ||| nv, true)
  else let y := op r.1 x; (y.1, r.2.1 ||| y.2, false)

def floatStart (f : Fmt) (x : Nat) : Running :=
  if f.isNan x then (f.quiet x, flagIf (f.isSnan x) fNV, true) else (x, 0, false)

/-- The results after each row, in order. -/
def scanFrom (step : Running → Nat → Running) (r : Running) : List Nat → List Running
  | [] => [r]
  | x :: xs => r :: scanFrom step (step r x) xs

/-- The running results of a group's rows. -/
def running (s : State) (c : Ctx) (t : ElemTy) (op : Nat) (rnd : Option (BitVec 3)) (rs : List Row) : List Running :=
  let f := fmtOf t
  let th (r : Row) : Thread := s.thread c.team r.m.1 r.m.2
  match rs with
  | [] => []
  | r0 :: rest =>
    if op < 6 then scanFrom (intStep t op) (r0.a, 0, false) (rest.map (·.a))
    else
      let vals := rest.map (fun r => f.flushed (ftzOf (th r).modeNow) r.a)
      let rm := roundOf rnd (th r0).modeNow
      let step : Nat → Nat → Nat × Flags :=
        if op = 6 then f.fadd rm (ftzOf (th r0).modeNow) else f.minMax false (op == 8)
      scanFrom (floatStep f step) (floatStart f (f.flushed (ftzOf (th r0).modeNow) r0.a)) vals

def redRows (rs : List Row) (out : List Running) : List (Member × Nat × Flags) :=
  match out.getLast? with
  | none => []
  | some r => rs.map (fun x => (x.m, r.1, r.2.1))

def scanRows (rs : List Row) (out : List Running) : List (Member × Nat × Flags) :=
  (rs.zip out).map (fun p => (p.1.m, p.2.1, p.2.2.1))

def execVred (nw : Bool) (d : BitVec 7) (a : BitVec 8) (op : BitVec 8) (e : Option VExt) (s : State) :
    Host.Outcome State Fault Refusal :=
  let t := tyOf .z32 e
  crossWord (.vred nw d a op e) nw d a t.width 0xD0#8 (immOf e) (t.width == 64)
    (fun s c rs => redRows rs (running s c t op.toNat (e.map (·.rnd)) rs)) s

def execVscan (nw : Bool) (d : BitVec 7) (a : BitVec 8) (op : BitVec 8) (e : Option VExt) (s : State) :
    Host.Outcome State Fault Refusal :=
  let t := tyOf .z32 e
  crossWord (.vscan nw d a op e) nw d a t.width 0xD0#8 (immOf e) (t.width == 64)
    (fun s c rs => scanRows rs (running s c t op.toNat (e.map (·.rnd)) rs)) s

/-! ### Votes (R331) -/

/-- The mask of lanes whose a is nonzero. -/
def ballot (rs : List Row) : Nat := (rs.map (fun r => if r.a = 0 then 0 else 2 ^ r.lane)).sum

def voteHolds (mode : Nat) (rs : List Row) : Bool :=
  match mode with
  | 0 => rs.all (fun r => r.a != 0)
  | 1 => rs.any (fun r => r.a != 0)
  | _ => rs.all (fun r => some r.a == (rs.head?.map (·.a)))

def execVballot (nw : Bool) (d : BitVec 7) (a : BitVec 8) (s : State) : Host.Outcome State Fault Refusal :=
  crossWord (.vballot nw d a) nw d a 32 0xD0#8 none true (fun _ _ rs => rs.map (fun r => (r.m, ballot rs, 0))) s

def execVvote (nw : Bool) (d : BitVec 7) (a : BitVec 8) (mode : BitVec 8) (s : State) : Host.Outcome State Fault Refusal :=
  crossWord (.vvote nw d a mode) nw d a 32 0xD0#8 none false
    (fun _ _ rs => rs.map (fun r => (r.m, Bool.bit (voteHolds mode.toNat rs), 0))) s

/-! ### Random numbers (R332) -/

/-- One of the four rounds of Hash: x, y, k. -/
def hashRound (q : Dword × Dword × Dword) : Dword × Dword × Dword :=
  let x := q.1 + q.2.1.rotateLeft 17 + q.2.2
  let x := (x ^^^ (x >>> 29)) * 0x9E3779B97F4A7C15
  (x, q.2.1 ^^^ x, q.2.2 + 0xD6E8FEB86659FD93)

/-- Hash (R159, R332). -/
def randHash (key : Nat) (l n : Dword) : Dword :=
  let q := hashRound (hashRound (hashRound (hashRound (l, n, BitVec.ofNat 64 key))))
  q.1 ^^^ (q.1 >>> 32)

/-- The exact value k × 2^-24 as binary32, for k < 2^24. -/
def randF32 (h : Dword) : Nat := (fmtF32.round .rne false false (h.toNat / 2 ^ 40) (-24) false).1

def randVal (t : ElemTy) (h : Dword) : Nat :=
  if t == .z64 then h.toNat else if t == .f32 then randF32 h else h.toNat % 2 ^ 32

/-- RAND: the thread's logical index is its team's index times T plus its tid (R159); NW suppresses only the write. -/
def execRand (nw : Bool) (d : BitVec 7) (a : BitVec 8) (e : Option VExt) (s : State) : Host.Outcome State Fault Refusal :=
  let t := tyOf .z32 e
  runWord (.rand nw d a e) s fun c s =>
    done (c.mems.foldl (fun s m =>
      let env := s.env c.team m.1 m.2
      let l := BitVec.ofNat 64 ((s.team c.team).index * c.lpb.t + env.tid)
      s.updThread c.team m.1 m.2 (fun x =>
        let h := randHash (readSrc (s.group c.team m.1) x env (immOf e) a 32) l x.draws
        let r := randVal t h
        ({ x with draws := x.draws + 1 }).result c.b.ipos nw d.toNat (wordOf r)
          (if t.width == 64 then some (highOf r) else none))) s)

/-! ### Load balancing and selection (R333, R334) -/

/-- The row whose share holds item w: row and offset, over rows with their exclusive prefixes. -/
def rebalFind (w : Nat) : Nat → List Row → Option (Nat × Nat)
  | _, [] => none
  | p, r :: rs => if p ≤ w ∧ w < p + r.a then some (r.lane, w - p) else rebalFind w (p + r.a) rs

def rebalVal (rs : List Row) (w : Nat) : Nat :=
  match rebalFind w 0 rs with
  | some (j, o) => j + o % 2 ^ 32 * 2 ^ 32
  | none => 2 ^ 64 - 1

def execRebal (nw : Bool) (d : BitVec 7) (a b : BitVec 8) (e : Option VExt) (s : State) : Host.Outcome State Fault Refusal :=
  crossWord (.rebal nw d a b e) nw d a 32 b (immOf e) true (fun _ _ rs => rs.map (fun r => (r.m, rebalVal rs r.b, 0))) s

/-- The order of VTOPK: x before y. a is the value's pattern, b the index; ftz: the thread of a row reads a subnormal as zero (R246). -/
def ranksBefore (ftz : Row → Bool) (x y : Row) : Bool :=
  let f := fmtF32
  let nx := f.isNan x.a
  let ny := f.isNan y.a
  let tie := decide (x.b < y.b ∨ (x.b = y.b ∧ x.lane < y.lane))
  if nx || ny then (if nx == ny then tie else ny)
  else
    let vx := f.decode (ftz x) x.a
    let vy := f.decode (ftz y) y.a
    let c := FVal.le vx vy
    let c' := FVal.le vy vx
    let eq := vx.isZero && vy.isZero || vx == vy
    if eq then tie else c' && !c

/-- The candidate of rank k. -/
def ranked (ftz : Row → Bool) (rs : List Row) (k : Nat) : Option Row :=
  rs.find? (fun r => (rs.filter (fun x => x.m != r.m && ranksBefore ftz x r)).length == k)

/-- Slot of a rank: index below, value above. -/
def slotVal (ftz : Row → Bool) (rs : List Row) (k : Nat) : Nat :=
  match ranked ftz rs k with
  | some r => r.b + r.a * 2 ^ 32
  | none => 0xFFFFFFFF + 0x7FC00000 * 2 ^ 32

/-- The threads that take part hold every thread of a group that has not exited. -/
def State.fullGroup (s : State) (c : Ctx) (g : Nat) : Bool :=
  (List.range c.lpb.w).all (fun l => (s.thread c.team g l).status == .exited || c.mems.contains (g, l))

/-- The results of VTOPK in one group. -/
def topkRows (s : State) (c : Ctx) (a b : BitVec 8) (e : VExt) (g : Nat) : List (Member × Nat × Flags) :=
  let rows := s.rowsOf c g (some e.imm) a 32 b
  match rows with
  | [] => []
  | r0 :: _ =>
    let p := readSrc (s.group c.team g) (s.thread c.team r0.m.1 r0.m.2) (s.env c.team r0.m.1 r0.m.2) (some e.imm) e.sc 32
    let k := min (p % 256) c.lpb.w
    let n := min (p / 256 % 256) c.lpb.w
    let cand := rows.filter (fun r => decide (r.lane < n))
    let ftz (r : Row) : Bool := ftzOf (s.thread c.team r.m.1 r.m.2).modeNow
    (rows.filter (fun r => decide (r.lane < k))).map (fun r => (r.m, slotVal ftz cand r.lane, (0 : Flags)))

/-- VTOPK: every group whose bundle is not full, a thread that trapped before included, traps; the others take their results. -/
def execVtopk (nw : Bool) (d : BitVec 7) (a b : BitVec 8) (e : VExt) (s : State) : Host.Outcome State Fault Refusal :=
  runWord (.vtopk nw d a b e) s fun c s =>
    let (ts, c) := c.lowestReads s ⟨e.sc, 32⟩
    let part := c.mems.filter (fun m => !s.fullGroup c m.1)
    { done (s.writeLanes c nw d.toNat true (((c.b.groups.filter (fun g => s.fullGroup c g)).map (topkRows s c a b e)).flatten)) with
      traps := ts ++ part.map (fun m => ⟨m, .illegalOperand, 0, 0⟩) }

end Sys2Proof.Machine
end

