-- ==== Sys2Proof/Machine/Picker.lean ====
section
/-! DEFINITION. The picker of a core (R169 to R171, R174, R199): which threads are ready, which bundle starts, and the fetch of its
clause (R261, R262). -/

namespace Sys2Proof.Machine

/-! ### The text of a clause (R262) -/

/-- Header and words of the clause at an address as a launch fetches them: as of its start fence, or with its own stores. -/
def State.clauseAs (s : State) (c tn launch : Nat) (new : Bool) (pc : Nat) : Except (Bad × Nat) (List Word) × State :=
  match s.fetchWord c tn launch new pc with
  | (.error r, s) => (.error r, s)
  | (.ok h, s) =>
    if headerOk h then
      match s.fetchWords c tn launch new (pc + 4) (hdrCount h) with
      | (.error r, s) => (.error r, s)
      | (.ok ws, s) => (.ok (h :: ws), s)
    else (.ok [h], s)

/-- The same text, or the same failure. -/
def sameText : Except (Bad × Nat) (List Word) → Except (Bad × Nat) (List Word) → Bool
  | .ok a, .ok b => a == b
  | .error a, .error b => a == b
  | _, _ => false

/-- The text a launch executes at an address: where its own stores have changed the clause, the old or the new words, a free choice. -/
def State.clauseText (s : State) (c tn launch pc : Nat) : Except (Bad × Nat) (List Word) × State :=
  let old := s.clauseAs c tn launch false pc
  if sameText old.1 (s.clauseAs c tn launch true pc).1 then old
  else
    let (i, s) := s.choose 2
    s.clauseAs c tn launch (i = 1) pc

/-- The clause at a thread's PC for its team, without a change of state; none where the fetch fails or the header is malformed. -/
def State.peekClause (s : State) (t core : Nat) (pc : Dword) : Option (List Word) :=
  match (s.clauseText (clusterOf core) (s.team t).tenant (s.team t).launch pc.toNat).1 with
  | .ok ws => if ws.length < 2 then none else some ws
  | .error _ => none

/-- The instructions of a clause: offset of the word, and what it decodes to. -/
def clauseInstrs : Nat → Nat → List Word → List (Nat × Option Instr)
  | _, _, [] => []
  | 0, _, _ => []
  | fuel + 1, off, w :: r =>
    let n := wordsOf w
    (off, (decodeWords w r.head?).toOption) :: clauseInstrs fuel (off + n) (r.drop (n - 1))

/-! ### Readiness (R54, R169, R174) -/

/-- The counter waits of a header. -/
def headerWaits (h : Word) : List (Nat × Nat) :=
  (if h.getLsbD 21 then [((h.extractLsb' 19 2).toNat, (h.extractLsb' 15 4).toNat)] else []) ++
    (if h.getLsbD 14 then [((h.extractLsb' 12 2).toNat, (h.extractLsb' 8 4).toNat)] else [])

/-- The waits a clause starts with: those of its header, and a WAITC or DRAIN at position 0 (R54, R344). -/
def clauseWaits (ws : List Word) : List (Nat × Nat) :=
  headerWaits (ws.headD 0) ++ (match ws.tail.head?.bind (fun w => (decodeWords w none).toOption) with
    | some (.waitc c n) => [(c.toNat, n.toNat)]
    | some .drain => [(0, 0), (1, 0), (2, 0), (3, 0)]
    | _ => [])

def Group.waitsOk (g : Group) (ws : List Word) : Bool := (clauseWaits ws).all (fun q => decide (g.counters.get 0 q.1 ≤ q.2))

/-- The child that the LWAIT at a blocked thread's position waits for has completed, or the word would trap. -/
def State.lwaitReady (s : State) (t g pos : Nat) (clause : List Word) : Bool :=
  match (clause.drop (pos + 1)).head? with
  | none => true
  | some w =>
    match (decodeWords w none).toOption with
    | some (.lwait _ h) =>
      match (s.team t).handle ((s.group t g).sGet h.toNat).toNat with
      | some k => s.childStatus k != 0
      | none => true
    | _ => true

/-- The condition a blocked thread waits for is met (R174). -/
def State.waitMet (s : State) (t g : Nat) (th : Thread) (clause : List Word) : Wait → Bool
  | .push | .pop =>
    match th.rein with
    | some w =>
      (if w.pop then s.popReady t w.off else s.pushReady t w.member w.off w.port) &&
        s.reinFirst t w th.arrived
    | none => true
  | .lwait => s.lwaitReady t g th.pos clause
  | .step => (s.group t g).result.isSome
  | .ticket => s.holdsTicket t
  | .copy n => !s.pausedCopy t [g] n
  | .mmag => false

def State.statusReady (s : State) (t g : Nat) (th : Thread) (clause : List Word) : Bool :=
  match th.status with
  | .ready | .handler => true
  | .blocked w => s.waitMet t g th clause w
  | _ => false

/-- A thread of a clause is ready (R169), and no remote access holds it (R396). A clause whose fetch fails makes its threads arrive and
trap. -/
def State.threadReady (s : State) (t g l : Nat) (core : Nat) : Bool :=
  let th := s.thread t g l
  match th.status with
  | .exited | .parked _ | .stopped => false
  | _ =>
    match s.peekClause t core th.pc with
    | none => s.statusReady t g th []
    | some ws =>
      s.statusReady t g th ws && (decide (th.pos ≠ 0) || (s.group t g).waitsOk ws) && !s.remoteWait t (g, l) &&
        !s.isPending t (g, l) (((clauseInstrs 15 0 ws.tail).map (fun q => match q.2 with
          | some i => (useOf (s.lpbOf t).w i).touched
          | none => [])).flatten)

/-! ### Candidates -/

/-- A ready thread with what its bundle depends on. -/
structure Ready where
  team : Nat
  m : Member
  pc : Dword
  pos : Nat
  inTrap : Bool
  /-- The cycle at which it became ready. -/
  since : Nat
  prio : Bool
  deriving DecidableEq, Repr

/-- A team whose threads may issue: none of a suspended unit, or of one that is being suspended or awaits room. -/
def Team.runs (x : Team) : Bool := x.live && !x.suspended && !x.stopping && !x.awaiting && !x.exited

def State.readyThreads (s : State) (core : Nat) : List Ready :=
  ((s.liveTeams.filter (fun t => (s.team t).runs)).map (fun t =>
    (((s.groupsOf t).filter (fun g => (s.group t g).live && (s.group t g).core == core && !(s.group t g).suspended)).map (fun g =>
      (List.range (s.lpbOf t).w).filterMap (fun l =>
        let th := s.thread t g l
        if s.threadReady t g l core then
          some (Ready.mk t (g, l) th.pc th.pos th.inTrap (if th.late then (s.core core).clk.toNat else th.readyAt) th.prio)
        else none))).flatten)).flatten

def Ready.same (a b : Ready) : Bool := a.team == b.team && a.m.1 == b.m.1 && a.pc == b.pc && a.pos == b.pos && a.inTrap == b.inTrap

/-- The bundles of one group that could start: their threads. -/
def State.candidates (s : State) (core : Nat) : List (List Ready) :=
  (s.readyThreads core).foldl (fun bs r =>
    if bs.any (fun b => match b with
        | x :: _ => x.same r
        | [] => false) then
      bs.map (fun b => match b with
        | x :: _ => if x.same r then b ++ [r] else b
        | [] => b)
    else bs ++ [[r]]) []

/-- The age of a bundle: the cycle at which its oldest thread became ready. -/
def ageOf (b : List Ready) : Nat := (b.map (·.since)).foldl min ((b.head?.map (·.since)).getD 0)

/-- The bundles that may start first (R199): those with priority before the others, and among them those of lowest age. -/
def firstBundles (bs : List (List Ready)) : List (List Ready) :=
  let p := bs.filter (fun b => b.any (·.prio))
  let bs := if p.isEmpty then bs else p
  bs.filter (fun x => bs.all (fun y => decide (ageOf x ≤ ageOf y)))

/-- A thread of a bundle on an issue slice. -/
def State.onSlice (s : State) (t core : Nat) (m : Member) : Bool :=
  match (s.core core).bundle with
  | none => false
  | some b => b.team == t && b.members.contains m

/-- As cycles pass, a thread that became ready since the last ones did takes this cycle as its age, and one that is not ready is marked. -/
def State.markThread (s : State) (t g l : Nat) (th : Thread) : Thread :=
  let core := (s.group t g).core
  if s.onSlice t core (g, l) then th
  else if s.threadReady t g l core then
    (if th.late then { th with late := false, readyAt := (s.core core).clk.toNat } else th)
  else { th with late := true, prio := false }

/-- Ages are kept up to date (R199). -/
def State.markReady (s : State) : State :=
  { s with teams := s.teams.map (fun e =>
      (e.1, { e.2 with groups := e.2.groups.map (fun a =>
        (a.1, { a.2 with threads := a.2.threads.map (fun x => (x.1, s.markThread e.1 a.1 x.1 x.2)) })) })) }

/-! ### Cross-group bundles (R171) -/

/-- A clause that a bundle of several groups may execute. A word that writes a uniform register or acts once per group keeps the
bundle to one group. -/
def crossGroup (w : Nat) (ws : List Word) : Bool :=
  !hdrClass (ws.headD 0) .S && (clauseInstrs 15 0 ws.tail).all (fun q => match q.2 with
    | some i =>
      let u := useOf w i
      !u.groupState && u.tiles.isEmpty && u.touched.all (fun r => !r.1)
    | none => false)

/-- The bundle's threads: those of the candidate, then those of the team's other groups that stand ready at the same place, in
increasing group index, up to 64. -/
def State.gather (s : State) (core : Nat) (all : List Ready) (b : List Ready) : List Member :=
  match b with
  | [] => []
  | x :: _ =>
    let own := b.map (·.m)
    match s.peekClause x.team core x.pc with
    | some ws =>
      if crossGroup (s.lpbOf x.team).w ws then
        let more := (all.filter (fun r => r.team == x.team && r.m.1 != x.m.1 && r.pc == x.pc && r.pos == x.pos &&
          r.inTrap == x.inTrap)).map (·.m)
        let ms := own ++ more.take (64 - own.length)
        sortBy (fun a b => decide (a.1 < b.1 ∨ (a.1 = b.1 ∧ a.2 ≤ b.2))) ms
      else own
    | none => own

/-! ### Starting -/

/-- Index of the instruction at a word offset of a clause. -/
def instrIndex (ws : List Word) (pos : Nat) : Nat :=
  ((clauseInstrs 15 0 ws).filter (fun q => decide (q.1 < pos))).length

/-- The threads of a bundle trap at the header they arrive at: PC at that word, POS 0 (R261, R262). -/
def State.arriveTrap (s : State) (t : Nat) (ms : List Member) (pc : Dword) (k : Cause) (code : Nat) (va : Nat) : State :=
  ms.foldl (fun s m => s.takeTrap t m { cause := k, code := code, tva := BitVec.ofNat 64 va, pc := pc, rpos := 0 }) s

/-- The threads are ready, in the handler or not, their bundle stands on the issue slice, and its first word issues next. -/
def State.beginBundle (s : State) (core t : Nat) (ms : List Member) (pc : Dword) (pos : Nat) (ws : List Word) : State :=
  let s := ms.foldl (fun s m => s.updThread t m.1 m.2 (fun x =>
    { x with status := if x.inTrap then .handler else .ready, prio := false, late := false, modeWas := if pos = 0 then none else x.modeWas })) s
  let b : Bundle :=
    { team := t, members := ms, pc := pc, header := ws.headD 0, words := ws.tail, pos := pos, ipos := instrIndex ws.tail pos }
  let s := (s.setBundle core (some b)).count (partOf (clusterOf core)) 1 1
  { s with agenda := ⟨0, .issue core⟩ :: s.agenda }

/-- The clause at pc is fetched for the threads, and their bundle starts, or they trap. -/
def State.fetchStart (s : State) (core t : Nat) (ms : List Member) (pc : Dword) (pos : Nat) : State :=
  match s.clauseText (clusterOf core) (s.team t).tenant (s.team t).launch pc.toNat with
  | (.error (.walkPoison, _), s') => s'.walkFault (s.team t).tenant
  | (.error (.trap k, va), s') => s'.arriveTrap t ms pc k 4 va
  | (.ok ws, s') => if headerOk (ws.headD 0) then s'.beginBundle core t ms pc pos ws else s'.arriveTrap t ms pc .illegalClause 0 0

/-- CLAUSE_START: the picker starts the bundle of lowest age on a free issue slice; of several, which one is a free choice. -/
def execClauseStart (core : Nat) (s : State) : Host.Outcome State Fault Refusal :=
  if (s.core core).bundle.isSome then s.idle
  else
    match firstBundles (s.candidates core) with
    | [] => s.idle
    | b :: r =>
      let (b, s) := if r.isEmpty then (b, s) else
        let q := s.choose (r.length + 1)
        ((b :: r).getD q.1 b, q.2)
      match b with
      | [] => s.idle
      | x :: _ => .next { s.fetchStart core x.team (s.gather core (s.readyThreads core) b) x.pc x.pos with cur := core }

/-- PICKER_PRIORITY: the bundles that have been ready for 1,024 core cycles gain priority. -/
def execPickerPriority (core : Nat) (s : State) : Host.Outcome State Fault Refusal :=
  let old := (s.candidates core).filter (fun b => decide (ageOf b + 1024 ≤ (s.core core).clk.toNat) && !b.any (·.prio))
  if old.isEmpty then s.idle
  else .next (old.flatten.foldl (fun s r => s.updThread r.team r.m.1 r.m.2 (fun x => { x with prio := true })) s)

end Sys2Proof.Machine
end

