-- ==== Sys2Proof/Machine/Distributor.lean ====
section
/-! DEFINITION. The work distributor: dispatch and placement (R181, R192 to R195, R232, R233), room for children (R153, R378),
retirement (R308), completion (R163, R191) and the ticket's way (R146, R151); rows TEAM_PLACE, TEAM_RETIRE, LAUNCH_COMPLETE and
CINCH_RELEASE. -/

namespace Sys2Proof.Machine

/-! ### Gangs (R180, R181) -/

def Launch.isIsland (x : Launch) : Bool := match x.source with
  | .lacing _ _ => true
  | _ => false

/-- Slot and island of an island gang. -/
def Launch.islandOf (x : Launch) : Nat × Nat := match x.source with
  | .lacing k i => (k, i)
  | _ => (0, 0)

def Launch.isGang (x : Launch) : Bool := x.lpb.gang || x.isIsland

/-- Partitions of a compute die that a tenant owns. -/
def State.diePartsOf (s : State) (tn die : Nat) : List Nat := (s.partsOf tn).filter (fun p => p / 8 == die)

def State.slotOfLaunch (s : State) (n : Nat) : IslSlot :=
  (s.tenant (s.launch n).tenant).slots.get {} (s.launch n).islandOf.1

/-- The partitions on which the teams of a launch may stand. -/
def State.allowedParts (s : State) (n : Nat) : List Nat :=
  let x := s.launch n
  if x.isIsland then s.diePartsOf x.tenant (s.slotOfLaunch n).desc.die
  else match x.gangPart with
    | some p => [p]
    | none => s.partsOf x.tenant

/-- A gang with members placed and members unstarted. -/
def State.isOpen (s : State) (n : Nat) : Bool :=
  let x := s.launch n
  x.live && !x.completed && x.isGang && !x.stranded && decide (0 < x.next) && decide (x.next < x.total)

def State.openGangs (s : State) (tn : Nat) : List Nat :=
  sortBy (fun a b => decide ((s.launch a).order ≤ (s.launch b).order)) ((s.tenantLaunches tn).filter s.isOpen)

/-- Partitions whose freed room belongs to an open gang. -/
def State.openParts (s : State) (tn : Nat) : List Nat := ((s.openGangs tn).map s.allowedParts).flatten

/-! ### The next team of a launch -/

/-- Points fired and not yet placed (R210), in firing order. -/
def Seam.unplaced (u : Seam) : List SeamRun := u.running.filter (fun r => r.team == 0)

/-- No team of an earlier gang holds a body of an island gang (R231). -/
def State.bodiesFree (s : State) (n : Nat) : Bool :=
  let x := s.launch n
  !s.liveTeams.any (fun t =>
    let y := s.team t
    y.island.isSome && y.tenant == x.tenant && y.slot == x.islandOf.1 && y.launch != n && !y.retired &&
      y.bodies.any (fun b => x.parts.any (fun p => p.contains b)))

/-- The live teams of a launch. -/
def State.launchTeams (s : State) (n : Nat) : List Nat := s.liveTeams.filter (fun t => (s.team t).launch == n && !(s.team t).retired)

/-- A member of a gang is suspended, or on its way to that: no further member is placed (R183). -/
def State.gangHalted (s : State) (n : Nat) : Bool :=
  (s.launch n).isGang && (s.launchTeams n).any (fun t => (s.team t).suspended || (s.team t).stopping || (s.team t).awaiting)

/-- The indices a launch may dispatch next. Of a DET seam launch the lowest point not released comes after the first one fired, since
R152 has it find room (log 63). A serial launch starts a team when the one before is released (R163). -/
def State.nextIndexes (s : State) (n : Nat) : List Nat :=
  let x := s.launch n
  if !x.live || x.completed || x.stranded || s.gangHalted n || (x.isIsland && !s.bodiesFree n) then []
  else if x.lpb.seam then
    let is := x.seamUnit.unplaced.map (·.index)
    let is := is.take 1 ++ (is.drop 1).filter (fun i => x.lpb.det && i == x.ticket)
    if x.serial then is.filter (· == x.ticket) else is
  else if x.next < x.total && (!x.serial || x.ticket == x.next) then [if x.isIsland then x.islandOf.2 * 2 ^ 22 + x.next else x.next]
  else []

/-- A launch has a team to dispatch. -/
def State.hasNext (s : State) (n : Nat) : Bool := !(s.nextIndexes n).isEmpty

/-- A DET seam launch leaves room for one more team of it, unless the point is the lowest not released (R152). -/
def State.detRoom (s : State) (n index part : Nat) : Bool :=
  let x := s.launch n
  !(x.lpb.det && x.lpb.seam) || index == x.ticket ||
    (s.findSpot x.tenant n none (fun c => partOf (clusterOf c) == part)).isSome

/-- The team of a running-list entry. -/
def Seam.setTeam (u : Seam) (index t : Nat) : Seam :=
  { u with running := u.running.map (fun r => if r.index = index then { r with team := t } else r) }

/-- An island team learns its part and its records are preloaded (R222, R223, R231): the records of the whole gang are read before its
first team starts. -/
def State.startIsland (s : State) (n t k : Nat) : State :=
  let x := s.launch n
  let (slot, id) := x.islandOf
  let z := (s.tenant x.tenant).slots.get {} slot
  let bodies := x.parts.getD k []
  let s := if k = 0 then s.updLaunch n (fun y => { y with loaded := s.readRecords x.tenant z.desc x.parts.flatten }) else s
  let s := s.orWalkFault x.tenant (k = 0 && s.recordsBad x.tenant z.desc x.parts.flatten)
  let s := s.updTeam t (fun y => { y with island := some id, slot := slot, bodies := bodies, islP := z.p1 + 1 })
  s.preload t id k z.desc z.links x.parts.flatten ((s.launch n).loaded.drop (k * (z.p1 + 1)))

/-- The first of a list of attempts that succeeds. -/
def firstSome {α : Type} (f : α → Option State) : List α → Option State
  | [] => none
  | a :: r => match f a with
    | some s => some s
    | none => firstSome f r

/-- The team of an index is placed on the partitions allowed, if it finds room. -/
def State.placeIndex (s : State) (n : Nat) (parts : List Nat) (index : Nat) : Option State :=
  let x := s.launch n
  match s.findSpot x.tenant n none (fun c => parts.contains (partOf (clusterOf c))) with
  | none => none
  | some p =>
    let part := partOf (clusterOf p.first)
    let member := if x.isGang then x.next else 0
    let (t, s') := s.startTeam n index member (if x.isGang then x.total else 1) p
    if !s'.detRoom n index part then none
    else
      let s' := if x.lpb.gang then s'.updLaunch n (fun y => { y with gangPart := some part }) else s'
      let s' := if x.lpb.seam then s'.updLaunch n (fun y => { y with seamUnit := y.seamUnit.setTeam index t }) else s'
      some (if x.isIsland then s'.startIsland n t x.next else s')

/-- The next team of a launch is placed on the partitions allowed, if it finds room. -/
def State.placeNext (s : State) (n : Nat) (parts : List Nat) : Option State := firstSome (s.placeIndex n parts) (s.nextIndexes n)

/-- A launch leaves the list of those whose next team waits. -/
def State.stopWaiting (s : State) (n : Nat) : State :=
  s.updTenant (s.launch n).tenant (fun x => { x with waiting := x.waiting.filter (· != n) })

/-- Partitions a launch may use, without those named. -/
def State.partsBut (s : State) (n : Nat) (taken : List Nat) : List Nat := (s.allowedParts n).filter (fun p => !taken.contains p)

/-- Partitions that belong to an open gang of a launch with GANG set: an island gang's members keep out of them (R181). -/
def State.gangParts (s : State) (tn : Nat) : List Nat := ((s.openGangs tn).filter (fun n => !(s.launch n).isIsland)).filterMap (fun n => (s.launch n).gangPart)

/-- Members of open gangs come first. -/
def State.placeOpen (s : State) (tn : Nat) : Option State :=
  firstSome (fun n => (s.placeNext n (if (s.launch n).isIsland then s.partsBut n (s.gangParts tn) else s.allowedParts n)).map (·.stopWaiting n))
    (s.openGangs tn)

/-- Dispatched teams that wait, in order: no later one takes room in a partition where an earlier one waits (R193). -/
def State.placeWaiting (s : State) : List Nat → List Nat → Option State
  | _, [] => none
  | taken, n :: r =>
    match s.placeNext n (s.partsBut n taken) with
    | some s => some (s.stopWaiting n)
    | none => s.placeWaiting (taken ++ s.allowedParts n) r

/-! ### Suspended units (R183, R198, R378) -/

/-- Every LWAIT a team waits in can return. -/
def State.lwaitsDone (s : State) (t : Nat) : Bool :=
  (s.groupsOf t).all (fun g => (s.liveLanes t g).all (fun l =>
    let th := s.thread t g l
    th.status != .blocked .lwait || s.lwaitReady t g th.pos ((s.peekClause t (s.group t g).core th.pc).getD [])))

/-- Members of a team's gang that stand. -/
def State.gangTeams (s : State) (t : Nat) : List Nat :=
  s.liveTeams.filter (fun u => (s.team u).launch == (s.team t).launch && !(s.team u).retired)

/-- A team of a launch that runs serially waits while an earlier one is not released (R163). -/
def State.serialHeld (s : State) (t : Nat) : Bool := (s.launchOf t).serial && (s.team t).index != (s.launchOf t).ticket

/-- One waiting unit is placed again: of a gang, all members that have started (log 83). The partitions of an open gang are closed to all units
but its own. A point of a DET seam launch comes back without R152's rule of room (log 83). -/
def State.comeBack (s : State) (taken : List Nat) (t : Nat) : Option State :=
  let x := s.team t
  let own := s.allowedParts x.launch
  let ok (c : Nat) : Bool := (!taken.contains (partOf (clusterOf c)) || s.isOpen x.launch) && own.contains (partOf (clusterOf c))
  if (s.launch x.launch).stranded || (x.lwaitOut && !s.lwaitsDone t) || s.serialHeld t then none
  else if x.gangSize = 1 then s.resumeTeam t ok
  else
    let ms := s.gangTeams t
    if ms.head? = some t && ms.all (fun u => (s.team u).awaiting) then s.resumeAll ok ms else none

def State.awaitingTeams (s : State) (tn : Nat) : List Nat := (s.tenantTeams tn).filter (fun t => (s.team t).awaiting)

/-! ### Children of waiting parents (R378, R153) -/

/-- A team with a thread that waits in LWAIT. -/
def State.waitsChild (s : State) (t : Nat) : Bool :=
  (s.groupsOf t).any (fun g => (s.liveLanes t g).any (fun l => (s.thread t g l).status == .blocked .lwait))

/-- Every thread that has not exited waits in LWAIT. -/
def State.allWait (s : State) (t : Nat) : Bool :=
  !(s.team t).exited && (s.groupsOf t).all (fun g => (s.liveLanes t g).all (fun l => (s.thread t g l).status == .blocked .lwait))

/-- A team waits in LWAIT for a child launch, or for the one the child descends from: the child's completion is awaited (R153, R378). -/
def State.awaited (s : State) : Nat → Nat → Bool
  | 0, _ => false
  | fuel + 1, n => match (s.launch n).parent with
    | some p => s.liveTeams.any (fun t => (s.team t).launch == p && some (s.team t).index == (s.launch n).made.map (·.1) && s.waitsChild t) ||
        s.awaited fuel p
    | none => false

/-- The order in which launches dispatch: by priority, then by acceptance (R192). -/
def State.dispatchedBefore (s : State) (a b : Nat) : Bool :=
  decide ((s.launch b).lpb.prio < (s.launch a).lpb.prio ∨
    ((s.launch a).lpb.prio = (s.launch b).lpb.prio ∧ (s.launch a).order ≤ (s.launch b).order))

/-- Awaited child launches with teams to place. -/
def State.wantedChildren (s : State) (tn : Nat) : List Nat :=
  sortBy s.dispatchedBefore
    ((s.tenantLaunches tn).filter (fun n => s.hasNext n && s.awaited 32 n && (match (s.launch n).source with
      | .pool _ _ => true
      | _ => false)))

/-- The partition of the pool a child came from. -/
def State.childPart (s : State) (n : Nat) : Nat := match (s.launch n).source with
  | .pool p _ => p
  | _ => 0

/-- The teams R378 may suspend for a child, in its order: deepest first, then highest index. -/
def State.lwaitVictims (s : State) (n : Nat) : List Nat :=
  let deep (t : Nat) : Nat := (s.launchOf t).depth
  sortBy (fun a b => decide (deep b < deep a ∨ (deep a = deep b ∧ (s.team b).index ≤ (s.team a).index)))
    ((s.tenantTeams (s.launch n).tenant).filter (fun t =>
      (s.team t).gangSize == 1 && s.onCore t && s.allWait t && s.partOfTeam t == s.childPart n))

/-- The later teams of the launch of a ticket holder that waits for a descendant of its launch (R153), highest index first. -/
def State.laterTeams (s : State) (n : Nat) : List Nat :=
  match s.liveTeams.find? (fun t => s.isDet t && s.holdsTicket t && s.waitsChild t && s.descends 32 n (s.team t).launch) with
  | none => []
  | some h =>
    sortBy (fun a b => decide ((s.team b).index ≤ (s.team a).index))
      (s.liveTeams.filter (fun t => (s.team t).launch == (s.team h).launch && decide ((s.team h).index < (s.team t).index)))

/-- One step towards the room of a later team: it stops, is suspended, and its region goes to HBM. -/
def State.giveRoom (s : State) (t : Nat) : Option State :=
  let x := s.team t
  if s.onCore t then
    if s.teamQuiet t && s.offSlices t then some (s.evict t)
    else if x.stopping then none
    else some (s.stopTeam t)
  else if x.swapped.isNone && x.moved.isNone then some (s.swapOut t)
  else none

/-- Room is made for a child that cannot be placed: by one team more that waits in LWAIT, once nothing of it is under way, or else by a
later team of a ticket holder. -/
def State.makeRoom (s : State) (n : Nat) : Option State :=
  match s.lwaitVictims n with
  | t :: _ => if s.teamQuiet t && s.offSlices t then some ((s.evict t).updTeam t (fun x => { x with lwaitOut := true })) else none
  | [] => firstSome s.giveRoom (s.laterTeams n)

/-! ### Gangs that find no room in an island set (R233) -/

/-- Every group of a team waits in ISL.STEP or has exited. -/
def State.atStep (s : State) (t : Nat) : Bool :=
  (s.groupsOf t).all (fun g => (s.liveLanes t g).isEmpty || ((s.group t g).arrived && (s.group t g).result.isNone))

/-- The result of a step goes to every group of a launch's teams that waits for one. -/
def State.giveResult (s : State) (n r : Nat) : State :=
  (s.launchTeams n).foldl (fun s t => (s.groupsOf t).foldl (fun s g => s.updGroup t g (fun x => if x.arrived then { x with result := some r } else x)) s) s

def State.updSlot (s : State) (tn k : Nat) (f : IslSlot → IslSlot) : State :=
  s.updTenant tn (fun x => { x with slots := x.slots.upd {} k f })

/-- The waiting gang of highest island id receives RETIRE. -/
def State.retireForRoom (s : State) (n : Nat) : Option State :=
  let x := s.launch n
  if !x.isIsland then none
  else
    let k := x.islandOf.1
    let z := (s.tenant x.tenant).slots.get {} k
    let ready := z.islands.filter (fun i => !i.retired && (match i.launch with
      | some m => m != n && decide ((s.launch m).next = (s.launch m).total) && (s.launchTeams m).all s.atStep
      | none => false))
    match sortBy (fun a b : Island => decide (b.id ≤ a.id)) ready with
    | i :: _ =>
      some ((s.updSlot x.tenant k (fun z => { z with islands := z.islands.map (fun j => if j.id = i.id then { j with retired := true } else j) })).giveResult
        (i.launch.getD 0) 1)
    | [] => none

/-! ### Teams that were told to stop (R407, R425) -/

/-- Units that cannot come back for want of a core that covers their features (R198). -/
def State.featureless (s : State) (tn : Nat) : List Nat :=
  (s.awaitingTeams tn).filter (fun t =>
    !(s.clustersOf tn).any (fun c => (List.range 6).any (fun j => s.coreOk (s.lpbOf t) (6 * c + j))))

/-- The team, or its whole gang (R183). -/
def State.unitOf (s : State) (t : Nat) : List Nat := if (s.team t).gangSize = 1 then [t] else s.gangTeams t

/-- A team that waits because no core has its features is reported (R198). -/
def State.reportFeatures (s : State) (t : Nat) : State :=
  if (s.featureless (s.team t).tenant).contains t then s.notice (.featureWait (s.team t).launch) else s

/-- A team that was told to stop, once it is quiet and off the slices, is suspended with its whole gang and waits for room. -/
def State.stopNow (s : State) (t : Nat) : Option State :=
  let ms := s.unitOf t
  if (s.team t).stopping && ms.all (fun u => (s.team u).suspended || (s.teamQuiet u && s.offSlices u)) then
    some ((ms.foldl (fun s u => if (s.team u).suspended then s else s.evict u) s).reportFeatures t)
  else none

/-! ### Stranded gangs (R181, R182) -/

/-- Teams of a launch are placed one after another, each region at the first base there is; whether all fit. -/
def State.allFit (s : State) (n : Nat) : Nat → Bool
  | 0 => true
  | k + 1 =>
    let x := s.launch n
    match s.findSpot x.tenant n none (fun c => (s.allowedParts n).contains (partOf (clusterOf c))) with
    | none => false
    | some p =>
      let c := clusterOf p.first
      let team : Team :=
        { live := true, tenant := x.tenant, launch := n, cluster := c, base := baseAt 0 (s.bases c n x.lpb.region), region := x.lpb.region,
          groups := s.startGroups x.lpb x.args p }
      let s := (s.setTeam s.nextId team).movePointer x.tenant p
      State.allFit { s with nextId := s.nextId + 1 } n k

/-- The unstarted members of a gang fit beside its placed ones, if every other team had retired. -/
def State.gangFits (s : State) (n : Nat) : Bool :=
  ({ s with teams := s.teams.filter (fun e => e.2.launch == n) } : State).allFit n ((s.launch n).total - (s.launch n).next)

/-- The members of a gang that have not retired all fit on the empty cores of its partitions. -/
def State.footprintFits (s : State) (n : Nat) : Bool := ({ s with teams := [] } : State).allFit n ((s.launch n).total - (s.launch n).retired)

/-- Some member of a gang has lost its place: it is suspended or stopping, or a group of it stands on a core out of the set. -/
def State.displaced (s : State) (n : Nat) : Bool :=
  s.gangHalted n || (s.launchTeams n).any (fun t => (s.groupsOf t).any (fun g => (s.core (s.group t g).core).quar))

/-- An open gang could still have all its members placed, if every other team had retired. -/
def State.canFinish (s : State) (n : Nat) : Bool := if s.displaced n then s.footprintFits n else s.gangFits n

/-- A stranded gang is admitted afresh once a core has returned to the set (R182): its footprint fits, of a launch's gang in some partition
of the tenant, and no gang is open there. -/
def State.readmit (s : State) (n : Nat) : Option State :=
  let x := s.launch n
  let free (p : Nat) : Bool := !(s.openParts x.tenant).contains p
  let back (s : State) : State := s.updLaunch n (fun x => { x with stranded := false })
  if !x.stranded || !x.coreBack then none
  else if x.isIsland then (if (s.allowedParts n).all free && s.footprintFits n then some (back s) else none)
  else
    (s.allowedParts n ++ s.partsOf x.tenant).findSome? (fun p =>
      let s := s.updLaunch n (fun x => { x with gangPart := some p })
      if free p && s.footprintFits n then some (back s) else none)

/-! ### TEAM_PLACE -/

/-- Launches with a team to dispatch, by priority, then by order of acceptance (R192). -/
def State.dispatchOrder (s : State) (tn : Nat) : List Nat :=
  sortBy s.dispatchedBefore
    ((s.tenantLaunches tn).filter (fun n => s.hasNext n && !s.isOpen n && !(s.tenant tn).waiting.contains n))

/-- The next team is dispatched: placed, or it waits. -/
def State.dispatch (s : State) (tn : Nat) (taken : List Nat) : Option State :=
  match s.dispatchOrder tn with
  | [] => none
  | n :: _ =>
    let ps := s.partsBut n taken
    if (s.partsOf tn).all taken.contains then none
    else match s.placeNext n ps with
      | some s => some s
      | none => some (s.updTenant tn (fun x => { x with waiting := x.waiting ++ [n] }))

/-- A unit was suspended to make room, or a dispatched team waits: children of waiting parents go ahead. -/
def State.roomShort (s : State) (tn : Nat) : Bool :=
  !(s.tenant tn).waiting.isEmpty || (s.awaitingTeams tn).any (fun t => (s.team t).lwaitOut || s.isDet t)

/-- A launch that is no awaited child dispatches before this one, and some partition is open to it (R192). -/
def State.outranked (s : State) (tn n : Nat) (kids taken : List Nat) : Bool :=
  !(s.partsOf tn).all taken.contains && (s.dispatchOrder tn).any (fun m => !kids.contains m && s.dispatchedBefore m n)

/-- What a placement attempt for a tenant does. A later team that has given its room to a child does not come back before the child is
placed. -/
def State.placeTeam (s : State) (tn : Nat) : Option State :=
  let opens := s.openParts tn
  let kids := if s.roomShort tn then s.wantedChildren tn else []
  let waiting := (s.tenant tn).waiting
  let taken := opens ++ (waiting.map s.allowedParts).flatten
  match firstSome id ((s.tenantTeams tn).map s.stopNow ++ (s.tenantLaunches tn).map s.readmit ++ [s.placeOpen tn]) with
  | some s => some s
  | none =>
    match firstSome (fun n => (s.placeNext n (s.partsBut n opens)).map (·.stopWaiting n)) (kids.filter (fun n => !s.outranked tn n kids taken)) with
    | some s => some s
    | none =>
      match firstSome (s.comeBack opens) ((s.awaitingTeams tn).filter (fun t => !kids.any (fun n => (s.laterTeams n).contains t))) with
      | some s => some s
      | none =>
        match s.placeWaiting opens waiting with
        | some s => some s
        | none =>
          match s.dispatch tn taken with
          | some s => some s
          | none =>
            match firstSome s.makeRoom kids with
            | some s => some s
            | none => firstSome s.retireForRoom (s.openGangs tn ++ waiting)

/-- TEAM_PLACE. -/
def execTeamPlace (tenant : Nat) (s : State) : Host.Outcome State Fault Refusal :=
  if !s.serves tenant then s.idle
  else match s.placeTeam tenant with
    | some s => .next s
    | none => s.idle

/-! ### Retirement (R308) -/

/-- Nothing holds the team any more but its region. -/
def State.retirable (s : State) (t : Nat) : Bool :=
  (s.team t).live && (s.team t).exited && !(s.team t).retired && s.teamQuiet t && !s.awl.any (fun q => q.team == t) && s.offSlices t

/-- Every open handle is closed (R375). -/
def State.closeHandles (s : State) (t : Nat) : State := (s.team t).handles.foldl (fun s k => s.closeHandle t k) s

/-- The team's record goes: its region, its Saddlebag space and its slots are free. -/
def State.dropTeam (s : State) (t : Nat) : State := { s with teams := s.teams.del t }

/-- The running-list entry of a retiring point is removed; with the last one the launch's record is complete (R211, R215). -/
def State.retirePoint (s : State) (n index : Nat) : State :=
  let s := s.updSeam n (fun u => { u with running := u.running.filter (fun r => r.index != index) })
  let x := s.launch n
  if x.retired = x.total then s.setRstate n 3 else s

/-- A team that exits without ISL.STEP retires its gang's step (R227): its island is marked. -/
def State.islandRetire (s : State) (t : Nat) : State :=
  let x := s.team t
  if x.island.isNone then s
  else
    let z := (s.tenant x.tenant).slots.get {} x.slot
    let s := if z.active then s.writeRecords t z.desc else s
    let early := z.islands.any (fun i => i.launch == some x.launch && !i.retired)
    let s := if x.still then s.updSlot x.tenant x.slot (fun z => { z with islands := z.islands.map (fun i =>
        if i.launch == some x.launch then { i with stills := i.stills + 1 } else i) }) else s
    if early then
      (s.updSlot x.tenant x.slot (fun z => { z with islands := z.islands.map (fun i =>
        if i.launch == some x.launch then { i with retired := true } else i) })).giveResult x.launch 1
    else s

/-- TEAM_RETIRE. A suspended context's teams stay as its records list them (R214). -/
def execTeamRetire (team : Nat) (s : State) : Host.Outcome State Fault Refusal :=
  if !s.retirable team || !s.serves (s.team team).tenant then s.idle
  else
    let x := s.team team
    let s0 := s
    let s := ((s.islandRetire team).closeHandles team).leaveCores team
    let s := s.updLaunch x.launch (fun n => { n with retired := n.retired + 1 })
    let s := if (s.launch x.launch).lpb.seam then s.retirePoint x.launch x.index else s
    let s := s.updTeam team (fun x => { x with retired := true, resv := [], released := [], sb := [], sbWritten := [], sbPoison := [] })
    .next (s0.unlessWalkFault ((if (s.launch x.launch).lpb.det && !x.releasedDet then s else s.dropTeam team).forgetLaunch x.launch))

/-! ### The ticket (R146, R151) -/

/-- The team that holds the ticket of a launch, if it stands. -/
def State.holder (s : State) (n : Nat) : Option Nat :=
  s.liveTeams.find? (fun t => (s.team t).launch == n && (s.team t).index == (s.launch n).ticket && !(s.team t).releasedDet)

/-- Every write of a team has been performed: no store or atomic of it is under way and its staging is empty. -/
def State.writesDone (s : State) (t : Nat) : Bool :=
  (s.team t).staging.isEmpty && !s.flights.any (fun f => f.team == t && f.kind == .store && !f.performed) &&
    !s.ops.any (fun o => o.team == t && !o.finished) && !s.awl.any (fun q => q.team == t)

/-- A team receives the ticket: its region comes back if it was copied away, its staged entries are performed, and its paused
copies go on. -/
def State.giveTicket (s : State) (t : Nat) : State := (s.swapIn t).drainStaging t

/-- The ticket passes to the next team. -/
def State.passTicket (s : State) (n : Nat) : State :=
  let s := s.updLaunch n (fun x => { x with ticket := x.ticket + 1 })
  match s.holder n with
  | some t => if (s.team t).swapped.isSome then s else s.drainStaging t
  | none => s

/-- CINCH_RELEASE: the ticket holder's staged entries are performed, or, when it has exited or completed and every write of it is
performed, it is released and the ticket passes on. -/
def execCinchRelease (launch : Nat) (s : State) : Host.Outcome State Fault Refusal :=
  if !(s.launch launch).lpb.det then s.idle
  else match s.holder launch with
    | none => s.idle
    | some t =>
      let x := s.team t
      if !x.staging.isEmpty then
        if x.swapped.isNone || s.owedFree t then .next (s.giveTicket t) else s.idle
      else if (x.exited || x.pointDone) && s.writesDone t then
        let d := s.teamDigest t
        let s := s.updTeam t (fun y => { y with releasedDet := true, tdigest := d })
        let s := s.updLaunch launch (fun n => { n with digests := n.digests.put 0 x.index d })
        let s := if x.retired then s.dropTeam t else s
        .next ((s.passTicket launch).forgetLaunch launch)
      else s.idle

/-! ### Completion (R163, R191) -/

/-- The last of a launch's work is done: every team is released, or has retired. A seam launch has both behind it, since its record is
complete when its last point retires, which comes before its completion fence (R191, R215,
log 77). -/
def State.completable (s : State) (n : Nat) : Bool :=
  let x := s.launch n
  x.live && !x.completed && x.children == 0 && (!x.lpb.det || x.ticket == x.total) && ((x.lpb.det && !x.lpb.seam) || x.retired == x.total)

/-- The 8 bytes at REFDIG, or the reference cannot be read. -/
def State.readReference (s : State) (tn : Nat) (a : Dword) : Option Dword × State :=
  if a.toNat % 8 ≠ 0 then (none, s)
  else match s.readVa (s.engineCluster tn) tn a.toNat 8 with
    | (.ok bs, s) => (some (leDword bs), s)
    | (.error _, s) => (none, s)

/-- The launch completes, and its record is given up once no team of it stands. -/
def State.closeLaunch (s : State) (n status : Nat) (digest : Dword) : State :=
  (s.completeLaunch n status digest).forgetLaunch n

/-- A mismatch with checkpoints on: the launch is to run again serially, and the context rolls back (R163). -/
def State.rerunSerially (s : State) (n : Nat) : State :=
  let tn := (s.launch n).tenant
  let x := s.launch n
  let kid : List SerialKid := match x.made with
    | some (i, h) => [⟨x.bytes, x.depth, i, h⟩]
    | none => []
  let mark (k : Ckpt) : Ckpt :=
    { k with
      serialKids := k.serialKids ++ kid
      accepted := k.accepted.map (fun r => if r.launch = n then { r with serial := true } else r)
      launches := k.launches.map (fun e => if e.1 = n then (e.1, { e.2 with serial := true }) else e) }
  let s := { s with ckpts := s.ckpts.upd {} tn mark }
  { s.notice (.digestMismatch n) with agenda := ⟨0, .event (.rollback tn)⟩ :: s.agenda }

/-- The comparison of a DET launch's digest with its reference. -/
def State.compareDigest (s : State) (n : Nat) (d : Dword) : State :=
  let x := s.launch n
  match s.readReference x.tenant x.lpb.refdig with
  | (none, s) => s.closeLaunch n stReferenceFault d
  | (some r, s) =>
    if x.serial then
      let st := if r = d then stSerialMatch else stSerialDiffer
      (s.notice (.serialReport n st)).closeLaunch n st d
    else if r = d then s.closeLaunch n stDone d
    else if (s.tenant x.tenant).ckEn then s.rerunSerially n
    else (s.notice (.digestDiffer n)).closeLaunch n stDigestDiffer d

/-- LAUNCH_COMPLETE. A launch without teams is done with digest 0, whatever its reference (R190). A walk that meets a poisoned page-table
entry is a fault of the tenant (R408). -/
def execLaunchComplete (launch : Nat) (s : State) : Host.Outcome State Fault Refusal :=
  if !s.completable launch then s.idle
  else
    let x := s.launch launch
    let d := if x.lpb.det then launchDigest x.digests x.total else 0
    .next (s.unlessWalkFault (if x.lpb.det && x.lpb.refdig != 0 && x.total != 0 then s.compareDigest launch d else s.closeLaunch launch stDone d))

end Sys2Proof.Machine
end

