-- ==== Sys2Proof/Machine/Lacing.lean ====
section
/-! DEFINITION. The Lacing engine (spec 12): enabling and disabling an island set (R218 to R221), reports (R224, R459), the step
boundary (R225 to R230, R232, R234) and poison (R235); rows ISL_SET_ENABLE, ISL_SET_DISABLE, PM1_WRITE, ISL_REPORT_RECEIVE,
STEP_BOUNDARY and ISL_SET_POISON. -/

namespace Sys2Proof.Machine

/-! ### Messages and flags -/

/-- ISSTAT bit b (R218). -/
def IslSlot.flag (x : IslSlot) (b : Nat) : IslSlot := { x with stat := NatSet.set x.stat b true }

def badDesc : Nat := 1
def tooLarge : Nat := 2
def btFull : Nat := 3
def setPoison : Nat := 4
def rptFull : Nat := 5
def linkFull : Nat := 6
def badPm : Nat := 7
def evFault : Nat := 8
def gangFault : Nat := 9

def State.islSlot (s : State) (tn k : Nat) : IslSlot := (s.tenant tn).slots.get {} k

/-- The message of an island set. -/
def State.islMsix (s : State) (tn k : Nat) : State := s.notice (.msix tn (s.islSlot tn k).vec)

/-- The flag of a cause of freezing (R232). -/
def freezeFlag (cause : Nat) : Nat := if cause = 1 then tooLarge else if cause = 2 then btFull else gangFault

/-- An island freezes: its flag, the event record, the message (R232). -/
def State.freezeEvent (s : State) (tn k cause id n parts : Nat) : State :=
  let s := s.updSlot tn k (fun x => x.flag (freezeFlag cause))
  let d := (s.islSlot tn k).desc
  let s := (if d.event = 0 then s
    else match s.writeVa (s.engineCluster tn) tn d.event (leBytes 4 cause ++ leBytes 4 id ++ leBytes 4 n ++ leBytes 4 parts) with
      | (.ok _, s) => s
      | (.error _, s) => s.updSlot tn k (fun x => x.flag evFault))
  s.islMsix tn k

/-! ### Reports to decisions (R225, R226) -/

def Report.lo (r : Report) : Nat := min r.a r.b
def Report.hi (r : Report) : Nat := max r.a r.b

/-- Links present at the start of the step whose pair an UNLINK names. -/
def IslSlot.removals (x : IslSlot) : List Link :=
  x.links.filter (fun l => x.reports.any (fun r => r.kind == 2 && r.lo == l.lo && r.hi == l.hi))

/-- Absent keys that a LINK names, in increasing order. -/
def IslSlot.creations (x : IslSlot) : List Link :=
  sortBy Link.le ((((x.reports.filter (fun r => decide (r.kind < 2))).map (fun r => Link.mk r.lo r.hi r.kind)).dedup).filter
    (fun l => !x.links.contains l))

/-- Removals, then creations while LMAX allows. -/
def IslSlot.relink (x : IslSlot) : IslSlot :=
  let kept := x.links.filter (fun l => !x.removals.contains l)
  let room := x.desc.lmax - kept.length
  let x' := { x with links := sortBy Link.le (kept ++ x.creations.take room) }
  if room < x.creations.length then x'.flag linkFull else x'

/-- Bodies that a boundary's applied changes and WAKE reports touch (R234). -/
def IslSlot.touched (x : IslSlot) : List Nat :=
  let kept := x.links.filter (fun l => !x.removals.contains l)
  let applied := x.removals ++ x.creations.take (x.desc.lmax - kept.length)
  (applied.map (fun l => [l.lo, l.hi])).flatten ++ (x.reports.filter (fun r => r.kind == 3)).map (·.a)

/-! ### What becomes of an island (R228) -/

inductive Fate where
  | noGang
  | asleep
  | frozen (cause : Nat)
  | sleeps (launch : Nat)
  | goesOn (launch : Nat)
  | starts
  deriving DecidableEq, Repr

/-- Two lists hold the same bodies. -/
def sameBodies (a b : List Nat) : Bool := a.length == b.length && a.all b.contains

/-- The island of the step that ends with the same bodies. -/
def IslSlot.islandLike (x : IslSlot) (bodies : List Nat) : Option Island := x.islands.find? (fun i => sameBodies i.bodies bodies)

/-- Every team of an island's gang was still in the step. -/
def State.everyStill (s : State) (x : IslSlot) (i : Island) : Bool :=
  match i.launch with
  | none => false
  | some n => i.stills + ((s.launchTeams n).filter (fun t => (s.team t).still)).length == (partsIn (x.p1 + 1) i.bodies).length

/-- The cause that keeps an island frozen, by R232 and R230, or 0. -/
def State.freezeCause (s : State) (tn : Nat) (x : IslSlot) (bodies : List Nat) : Nat :=
  let p := x.p1 + 1
  let cap := ((s.diePartsOf tn x.desc.die).map (partCapacity x.desc.lpb (s.coreOk x.desc.lpb))).sum
  let parts := (partsIn p bodies).length
  if cap < parts then 1
  else if (List.range parts).any (fun k => decide (x.desc.btcap < (boundaryEntries x.links p bodies k).length)) then 2
  else 0

/-- The fate of an island and its still count (R228; parts are compared as lists, log 71; past 255 the count stays there, log 86). old: the set before the boundary; new: with its new links and part limit; first:
the set has just been enabled. -/
def State.fate (s : State) (tn : Nat) (old new : IslSlot) (touched : List Nat) (first : Bool) (bodies : List Nat) : Fate × Nat :=
  let b0 := new.bodies.get {} (bodies.headD 0)
  let slept := bodies.all (fun b => (new.bodies.get {} b).asleep)
  let woken := bodies.any (fun b => (new.bodies.get {} b).asleep)
  let i := old.islandLike bodies
  let still := (match i with
    | some i => s.everyStill old i
    | none => false)
  let count := if woken then 0 else if first then b0.still else if still then min 255 (b0.still + 1) else 0
  let cause := s.freezeCause tn new bodies
  let going := (match i with
    | some j => if j.retired || partsIn (old.p1 + 1) j.bodies != partsIn (new.p1 + 1) bodies then none else j.launch
    | none => none)
  if slept && !bodies.any touched.contains then (.asleep, if first then b0.still else 0)
  else if !new.en || new.poisoned then (.noGang, count)
  else if cause ≠ 0 then (.frozen cause, count)
  else match going with
    | some n => if still && decide (0 < new.desc.nstill) && decide (new.desc.nstill ≤ count) then (.sleeps n, count) else (.goesOn n, count)
    | none => (.starts, count)

/-- An island as the boundary leaves it: bodies in breadth-first order, fate, still count. -/
structure Judged where
  bodies : List Nat
  fate : Fate
  count : Nat
  deriving DecidableEq, Repr

def Judged.id (j : Judged) : Nat := j.bodies.headD 0

def State.judge (s : State) (tn : Nat) (old new : IslSlot) (touched : List Nat) (first : Bool) : List Judged :=
  (components new.links new.desc.nbody).map (fun b =>
    let r := s.fate tn old new touched first b
    ⟨b, r.1, r.2⟩)

/-! ### Gangs of the next step -/

/-- A gang to start, accepted: its bodies, parameters and arguments. -/
structure NextGang where
  bodies : List Nat
  lpb : Lpb
  args : List Word

/-- The launch parameters of an island's gang: one team for each part. -/
def IslSlot.gangLpb (x : IslSlot) (bodies : List Nat) : Lpb :=
  { x.desc.lpb with e0 := (partsIn (x.p1 + 1) bodies).length, e1 := 1, e2 := 1 }

/-- Every gang that is to start is accepted, or its island freezes with cause 3 (R232). -/
def State.acceptGangs (s : State) (tn : Nat) (x : IslSlot) : List Judged → (List Judged × List NextGang) × State
  | [] => (([], []), s)
  | j :: r =>
    match j.fate with
    | .starts =>
      match s.checkRest tn (x.gangLpb j.bodies) false with
      | (.accepted b args _, s) =>
        let ((js, gs), s) := s.acceptGangs tn x r
        ((j :: js, ⟨j.bodies, b, args⟩ :: gs), s)
      | (.refused _, s) =>
        let ((js, gs), s) := s.acceptGangs tn x r
        (({ j with fate := .frozen 3 } :: js, gs), s)
    | _ =>
      let ((js, gs), s) := s.acceptGangs tn x r
      ((j :: js, gs), s)

/-- A gang is handed to the distributor: its launch. -/
def State.startGang (s : State) (tn k : Nat) (g : NextGang) : State :=
  let id := g.bodies.headD 0
  let p := (s.islSlot tn k).p1 + 1
  let (n, s) := s.fresh
  let o : Offer := { source := .lacing k id, bytes := [], prio := g.lpb.prio }
  let s := (s.enterLaunch tn n o g.lpb g.args {}).updLaunch n (fun x => { x with parts := partsIn p g.bodies })
  s.updSlot tn k (fun x => { x with islands := x.islands.map (fun i => if i.id = id then { i with launch := some n } else i) })

/-! ### The boundary (R227) -/

/-- A PM1 write takes effect, if FABRIC holds the layout (R218). -/
def State.applyPm1 (s : State) (tn k : Nat) : State :=
  let x := s.islSlot tn k
  if !x.pmPending then s
  else if x.desc.layout (x.pm1 + 1) ≤ x.desc.lpb.fabric then s.updSlot tn k (fun x => { x with p1 := x.pm1, pmPending := false })
  else (s.updSlot tn k (fun x => { x.flag badPm with pm1 := x.p1, pmPending := false })).islMsix tn k

/-- The result of a gang of the step that ends. -/
def resultOf (js : List Judged) (n : Nat) : Nat :=
  if js.any (fun j => j.fate == .goesOn n) then 0 else if js.any (fun j => j.fate == .sleeps n) then 2 else 1

/-- Every gang of the step receives its result; its groups have yet to arrive at the next step. -/
def State.giveResults (s : State) (old : IslSlot) (js : List Judged) : State :=
  old.islands.foldl (fun s i => match i.launch with
    | none => s
    | some n =>
      let s := s.giveResult n (resultOf js n)
      (s.launchTeams n).foldl (fun s t =>
        let s := (s.groupsOf t).foldl (fun s g => s.updGroup t g (fun x => { x with arrived := false })) s
        s.updTeam t (fun x => { x with still := false })) s) s

/-- The state word of the bodies of an island; b: as it was. An island that is only retired keeps its frozen bit. -/
def Judged.body (j : Judged) (b : Body) : Body :=
  match j.fate with
  | .noGang => ⟨false, b.frozen, j.count⟩
  | .asleep | .sleeps _ => ⟨true, false, j.count⟩
  | .frozen _ => ⟨false, true, j.count⟩
  | _ => ⟨false, false, j.count⟩

def Judged.island (j : Judged) : Island :=
  { id := j.id, bodies := j.bodies
    launch := (match j.fate with
      | .goesOn n => some n
      | _ => none)
    frozen := (match j.fate with
      | .frozen _ => true
      | _ => false)
    asleep := (match j.fate with
      | .asleep | .sleeps _ => true
      | _ => false) }

/-- The set after the boundary: bodies, islands, empty log, the counts of ISL.INFO. -/
def IslSlot.settle (x : IslSlot) (js : List Judged) (first : Bool) : IslSlot :=
  let step := if first then x.step else x.step + 1
  let count (f : Fate → Bool) : Nat := (js.filter (fun j => f j.fate)).length
  { x with
    step := step
    reports := if first then x.reports else []
    bodies := js.foldl (fun m j => j.bodies.foldl (fun m b => Sparse.upd {} m b j.body) m) x.bodies
    islands := js.map Judged.island
    snapStep := step, snapP := x.p1 + 1, snapLinks := x.links.length
    snapAwake := count (fun f => match f with
      | .goesOn _ | .starts => true
      | _ => false)
    snapAsleep := count (fun f => match f with
      | .asleep | .sleeps _ => true
      | _ => false)
    snapFrozen := count (fun f => match f with
      | .frozen _ => true
      | _ => false) }

/-- Islands that were frozen before stay so without an event. -/
def wasFrozen (old : IslSlot) (first : Bool) (j : Judged) : Bool :=
  if first then j.bodies.all (fun b => (old.bodies.get {} b).frozen)
  else match old.islandLike j.bodies with
    | some i => i.frozen
    | none => false

/-- Islands judged with the links and part limit in force; the store written; gangs handed over in increasing island id. -/
def State.settleStep (s : State) (tn k : Nat) (old : IslSlot) (touched : List Nat) (first : Bool) : State :=
  let x := s.islSlot tn k
  let ((js, gs), s) := s.acceptGangs tn x (s.judge tn old x touched first)
  let s := s.giveResults old js
  let s := (s.updSlot tn k (fun x => x.settle js first)).writeStore tn k
  let s := js.foldl (fun s j => match j.fate with
    | .frozen c => if wasFrozen old first j then s else s.freezeEvent tn k c j.id j.bodies.length (partsIn (x.p1 + 1) j.bodies).length
    | _ => s) s
  gs.foldl (fun s g => s.startGang tn k g) s

def State.boundary (s : State) (tn k : Nat) : State :=
  let old := s.islSlot tn k
  let s := (s.updSlot tn k IslSlot.relink).applyPm1 tn k
  s.settleStep tn k old old.touched false

/-! ### Enabling (R219, R220) -/

def parseIslDesc (bs : List Byte) : IslDesc :=
  let w (off : Nat) : Nat := leNat ((bs.drop off).take 4)
  let d (off : Nat) : Nat := leNat ((bs.drop off).take 8)
  { nbody := w 0x00, recsz := w 0x04, nstill := w 0x08, die := w 0x0C, bodytab := d 0x10, lstore := d 0x18, lmax := w 0x20,
    btcap := w 0x24, rptmax := w 0x28, event := d 0x30, lpb := parseLpb ((bs.drop 0x80).take 128) }

/-- A field out of range, misaligned or reserved-nonzero. -/
def islDescBad (bs : List Byte) : Bool :=
  let d := parseIslDesc bs
  !decide (1 ≤ d.nbody ∧ d.nbody ≤ 2 ^ 22) || d.recsz % 64 != 0 || !decide (64 ≤ d.recsz ∧ d.recsz ≤ 1024) || decide (255 < d.nstill) ||
    decide (7 < d.die) || d.bodytab % 64 != 0 || d.lstore % 4096 != 0 || !decide (1 ≤ d.lmax ∧ d.lmax ≤ 2 ^ 24) ||
    decide (65535 < d.btcap) || !decide (256 ≤ d.rptmax ∧ d.rptmax ≤ 2 ^ 20) || ((bs.drop 0x2C).take 4).any (· != 0) ||
    ((bs.drop 0x38).take 72).any (· != 0) ||
    !d.lpb.isl || d.lpb.e0 != 0 || d.lpb.e1 != 0 || d.lpb.e2 != 0 || d.lpb.refdig != 0 || d.lpb.event != 0

/-- Sets that an engine holds, and their bodies together. -/
def State.setsOn (s : State) (die : Nat) : List IslSlot :=
  ((s.tenants.map (fun t => (t.2.slots.filter (fun x => x.2.active && x.2.desc.die == die)).map (·.2)))).flatten

/-- The checks of R220. -/
def State.setBad (s : State) (tn pm1 : Nat) (bs : List Byte) : Bool × State :=
  let d := parseIslDesc bs
  let sets := s.setsOn d.die
  if islDescBad bs then (true, s)
  else match s.pagesWritable tn d.bodytab (d.nbody * d.recsz) with
    | (false, s) => (true, s)
    | (true, s) => match s.pagesWritable tn d.lstore d.storeSize with
      | (false, s) => (true, s)
      | (true, s) =>
        if (s.diePartsOf tn d.die).isEmpty || decide (16 ≤ sets.length) || decide (2 ^ 23 < (sets.map (·.desc.nbody)).sum + d.nbody) ||
            d.lpb.det || d.lpb.gang || d.lpb.seam || decide (d.lpb.fabric < d.layout (pm1 + 1)) then (true, s)
        else match s.checkLpb tn d.lpb true with
          | (.accepted _ _ _, s) => (false, s)
          | (.refused _, s) => (true, s)

/-- The engine takes the set up: the store is cleared or read, and step 0, or the step the store holds, begins. -/
def State.takeSet (s : State) (tn k : Nat) (d : IslDesc) : State :=
  let x := s.islSlot tn k
  let empty : IslSlot := { x with
    en := true, active := true, desc := d, p1 := x.pm1, pmPending := false, reenable := false, poisoned := false, step := 0,
    bodies := [], links := [], reports := [], islands := [] }
  let z := if x.init then empty else s.readStore tn empty
  let s := (s.updSlot tn k (fun _ => z)).orWalkFault tn (!x.init && s.walkBad tn d.lstore d.storeSize)
  s.settleStep tn k z [] true

/-- The descriptor is read at scope .sys and checked. -/
def State.checkSet (s : State) (tn k : Nat) : State :=
  let x := s.islSlot tn k
  let bad (s : State) : State := s.updSlot tn k (fun x => { x.flag badDesc with en := false, reenable := false })
  match s.readVa (s.engineCluster tn) tn x.addr 256 with
  | (.error _, s) => bad s
  | (.ok bs, s) => match s.setBad tn x.pm1 bs with
    | (true, s) => bad s
    | (false, s) => s.takeSet tn k (parseIslDesc bs)

/-- EN goes from 0 to 1 with no set held: the set is taken up. A walk that meets a poisoned page-table entry is a fault of the tenant, after
whose rollback the engine tries again (R408). -/
def State.enableSet (s : State) (tn k : Nat) : State :=
  (s.updSlot tn k (fun x => { x with en := true, reenable := true })).unlessWalkFault (s.checkSet tn k)

/-- ISCTL's fields other than EN. -/
def IslSlot.setCtl (x : IslSlot) (v : Nat) : IslSlot :=
  let pm := bitsOf v 17 2
  { x with init := v / 2 % 2 == 1, vec := bitsOf v 28 18, pmPending := x.pmPending || x.active, pm1 := pm }

/-- EN rises: the engine takes the set up, or, while it still holds it, once ACTIVE has fallen. -/
def State.raiseSet (s : State) (tn k v : Nat) : State :=
  let s := s.updSlot tn k (fun x => { x.setCtl v with pmPending := false })
  if (s.islSlot tn k).active then s.updSlot tn k (fun x => { x with en := true, reenable := true }) else s.enableSet tn k

/-! ### Disabling (R220) -/

/-- Gangs of a set that have not started are given up. -/
def State.dropUnstarted (s : State) (tn k : Nat) : State :=
  let gone := (s.tenantLaunches tn).filter (fun n => (s.launch n).isIsland && (s.launch n).islandOf.1 == k && (s.launch n).next == 0)
  let s := gone.foldl (fun s n => s.stopWaiting n) s
  let s := { gone.foldl (fun s n => s.closeCode n) s with launches := s.launches.filter (fun e => !gone.contains e.1) }
  s.updSlot tn k (fun x => { x with islands := x.islands.map (fun i => match i.launch with
    | some n => if gone.contains n then { i with launch := none } else i
    | none => i) })

/-- Every gang of a set that waits at the boundary receives RETIRE. -/
def State.retireSet (s : State) (tn k : Nat) : State :=
  (s.islSlot tn k).islands.foldl (fun s i => match i.launch with
    | some n => s.giveResult n 1
    | none => s) s

/-- The placed members of a stranded gang are discarded without write-back (R182). -/
def State.dropStranded (s : State) (tn k : Nat) : State :=
  let gone := (s.tenantLaunches tn).filter (fun n => (s.launch n).isIsland && (s.launch n).islandOf.1 == k && (s.launch n).stranded)
  let ts := (gone.map s.launchTeams).flatten
  let s := (s.dropWork ts).dropTeams ts
  { gone.foldl (fun s n => s.closeCode n) s with launches := s.launches.filter (fun e => !gone.contains e.1) }

/-- EN falls. -/
def State.lowerSet (s : State) (tn k v : Nat) : State :=
  let x := s.islSlot tn k
  let s := s.updSlot tn k (fun x => { x.setCtl v with en := false, reenable := false, pmPending := x.pmPending })
  if x.reenable then s else ((s.dropUnstarted tn k).dropStranded tn k).retireSet tn k

/-- A write of ISCTL, by EN as it stands and as written (R218, R220). -/
def State.writeIsctl (s : State) (tn k v : Nat) : State :=
  match (s.islSlot tn k).en, decide (v % 2 = 1) with
  | false, true => s.raiseSet tn k v
  | true, false => s.lowerSet tn k v
  | true, true => s.updSlot tn k (fun x => x.setCtl v)
  | false, false => s.updSlot tn k (fun x => { x.setCtl v with pmPending := false })

/-- ISL_SET_ENABLE: a write of ISCTL that raises EN; one that does not is the write it is. -/
def execIslSetEnable (tenant slot : Nat) (value : Word) (s : State) : Host.Outcome State Fault Refusal :=
  .next (s.writeIsctl tenant slot value.toNat)

/-- ISL_SET_DISABLE: a write of ISCTL that lowers EN. -/
def execIslSetDisable (tenant slot : Nat) (value : Word) (s : State) : Host.Outcome State Fault Refusal :=
  .next (s.writeIsctl tenant slot value.toNat)

/-- PM1_WRITE: a write of ISCTL that gives PM1 a value. -/
def execPm1Write (tenant slot : Nat) (value : Word) (s : State) : Host.Outcome State Fault Refusal :=
  .next (s.writeIsctl tenant slot value.toNat)

/-! ### Reports (R224) -/

/-- A report reaches the engine: it joins the step in progress, or it is dropped. -/
def State.receive (s : State) (r : Sent) : State :=
  let x := s.islSlot r.tenant r.slot
  if !x.active || x.poisoned then s
  else if x.desc.rptmax ≤ x.reports.length then (s.updSlot r.tenant r.slot (fun x => x.flag rptFull)).count r.part 10 1
  else s.updSlot r.tenant r.slot (fun x => { x with reports := x.reports ++ [r.report] })

/-- ISL_REPORT_RECEIVE: the first report on its way that reads so. -/
def execIslReportReceive (tenant slot kind a b : Nat) (s : State) : Host.Outcome State Fault Refusal :=
  let hit (r : Sent) : Bool := r.tenant == tenant && r.slot == slot && r.report == ⟨kind, a, b⟩
  match s.sent.find? hit with
  | none => s.idle
  | some r => .next (({ s with sent := s.sent.eraseP hit } : State).receive r)

/-! ### STEP_BOUNDARY -/

/-- The teams of a launch have all started. -/
def State.allStarted (s : State) (n : Nat) : Bool := decide ((s.launch n).next = (s.launch n).total)

/-- A gang of the step has reached the boundary, or has retired. -/
def State.gangDone (s : State) (i : Island) : Bool :=
  match i.launch with
  | none => true
  | some n =>
    if i.retired then (s.launchTeams n).isEmpty && s.allStarted n
    else (s.launch n).live && s.allStarted n && (s.launchTeams n).all (fun t => s.atStep t && !(s.team t).exited)

/-- A gang's own report of the step has not reached the engine yet. -/
def State.reportsOnTheWay (s : State) (tn k : Nat) : Bool :=
  s.sent.any (fun r => r.tenant == tn && r.slot == k && r.own)

/-- Nothing of a set stands any more: its gangs have retired. -/
def State.gangsGone (s : State) (tn k : Nat) : Bool :=
  !(s.tenantLaunches tn).any (fun n => (s.launch n).isIsland && (s.launch n).islandOf.1 == k)

/-- ACTIVE falls: the step that ended is worked off and stored, unless the set is poisoned; a waiting enable takes effect. -/
def State.closeSet (s : State) (tn k : Nat) : State :=
  let x := s.islSlot tn k
  let idle := x.reports.isEmpty && !x.pmPending && x.islands.all (fun i => i.launch.isNone)
  let s := if x.poisoned || idle then s
    else (s.updSlot tn k (fun x => { x with en := false })).boundary tn k
  let s := s.updSlot tn k (fun y => { y with active := false, poisoned := false, islands := [], reports := [], en := x.en, pmPending := false })
  if x.reenable then s.enableSet tn k else s

/-- STEP_BOUNDARY. A walk that meets a poisoned page-table entry is a fault of the tenant (R408). -/
def execStepBoundary (tenant slot : Nat) (s : State) : Host.Outcome State Fault Refusal :=
  let x := s.islSlot tenant slot
  if !x.active || s.reportsOnTheWay tenant slot then s.idle
  else if !x.en || x.reenable then
    (if s.gangsGone tenant slot then .next (s.unlessWalkFault (s.closeSet tenant slot)) else s.idle)
  else if x.poisoned || (s.tenant tenant).susp then s.idle
  else if x.islands.all (fun i => i.launch.isNone) && x.reports.isEmpty && !x.pmPending then s.idle
  else if x.islands.all s.gangDone then .next (s.unlessWalkFault (s.boundary tenant slot))
  else s.idle

/-! ### Poison (R235) -/

/-- ISL_SET_POISON: an uncorrectable error in the engine's SRAM. -/
def execIslSetPoison (tenant slot : Nat) (s : State) : Host.Outcome State Fault Refusal :=
  if !(s.islSlot tenant slot).active then s.idle
  else
    let s := (s.updSlot tenant slot (fun x => { x.flag setPoison with poisoned := true, reports := [] })).islMsix tenant slot
    .next ((s.dropUnstarted tenant slot).retireSet tenant slot)

end Sys2Proof.Machine
end

