-- ==== Sys2Proof/Machine/SeamUnit.lean ====
section
/-! DEFINITION. The Seam unit: which points are complete and ready (R203, R209, R210), firing, and the linked records; rows SEAM_FIRE
and SEAM_LINK_REREAD. -/

namespace Sys2Proof.Machine

def LinkSeen.ext (x : LinkSeen) (a : Nat) : Nat := if a = 0 then x.e0 else if a = 1 then x.e1 else x.e2

/-- The in-space rule of R209. -/
def Seam.completeAt (u : Seam) (b : Lpb) (q : Point) : Bool :=
  let n := seamIndex b q
  (u.rows.get {} (u.rowOf b n)).has (u.posOf b n)

/-- A linked record shows a boundary point complete. -/
def linkShows (u : Seam) (b : Lpb) (f : Nat) (q : Point) : Bool :=
  let x := u.links.get {} f
  let p := linkedPoint b x.ext f q
  let l : Lpb := { b with e0 := x.e0, e1 := x.e1, e2 := x.e2 }
  if x.fits && (List.range 3).all (fun a => decide (0 ≤ Point.at p a ∧ Point.at p a < x.ext a)) then
    let n := seamIndex l p
    (x.rows.get {} (u.rowOf l n)).has (u.posOf l n)
  else false

/-- A predecessor is complete; linked points are judged by the records last read. -/
def Seam.predDone (u : Seam) (b : Lpb) (q : Point) : Bool :=
  match faceOf b q with
  | none => u.completeAt b q
  | some f => !u.linked f || linkShows u b f q

/-- A point not yet complete or fired, within the window limit (R210). -/
def Seam.candidate (u : Seam) (b : Lpb) (n : Nat) : Bool :=
  let r := u.rows.get {} (u.rowOf b n)
  !r.has (u.posOf b n) && !u.running.any (fun e => e.index == n) && decide (u.posOf b n < r.prefixLen + 64)

/-- The candidates of every row, by rising linear index. -/
def Seam.candidates (u : Seam) (b : Lpb) : List Nat :=
  (((List.range (u.rowCount b)).map (fun r =>
    (List.range 64).filterMap (fun i =>
      let pos := (u.rows.get {} r).prefixLen + i
      if pos < u.lastExtent b then some (r * u.lastExtent b + pos) else none))).flatten).filter (u.candidate b)

def Seam.readyPoint (u : Seam) (b : Lpb) (n : Nat) : Bool := (u.preds (seamPoint b n)).all (u.predDone b)

/-- SEAM_FIRE: the ready point of lowest index. -/
def execSeamFire (launch : Nat) (s : State) : Host.Outcome State Fault Refusal :=
  let x := s.launch launch
  let u := x.seamUnit
  if !x.live || !x.lpb.seam || u.rstate != 1 || !s.serves x.tenant || decide (u.runcap ≤ u.running.length) then s.idle
  else match (u.candidates x.lpb).find? (u.readyPoint x.lpb) with
    | none => s.idle
    | some n => .next (s.updSeam launch (fun u => { u with running := u.running ++ [⟨n, false, 0, 0⟩] }))

/-- A candidate waits only on linked points, one of them on a face. -/
def Seam.waitsOn (u : Seam) (b : Lpb) (f n : Nat) : Bool :=
  let qs := (u.preds (seamPoint b n)).filter (fun q => !u.predDone b q)
  qs.any (fun q => faceOf b q == some f) && qs.all (fun q => (faceOf b q).isSome)

/-- What a linked record shows: header and rows. -/
def Seam.seeHeader (u : Seam) (b : Lpb) (f : Nat) (bs : List Byte) (old : LinkSeen) : LinkSeen :=
  let w (off : Nat) : Nat := leNat ((bs.drop off).take 4)
  let x : LinkSeen := { old with e0 := w 4, e1 := w 8, e2 := w 12, rows := [] }
  let valid := decide (1 ≤ w 0x80 ∧ w 0x80 ≤ 3)
  let same := bitsOf (w 0) 1 0 == u.ndim && (List.range 3).all (fun a => a == f / 2 || x.ext a == b.ext a)
  { x with fits := valid && same }

/-- The rows of a linked record from its bytes. -/
def readRows (bs : List Byte) (rows : Nat) : Sparse SeamRow :=
  (List.range rows).foldl (fun m r =>
    Sparse.put {} m r ⟨leNat ((bs.drop (16 * r)).take 4), BitVec.ofNat 64 (leNat ((bs.drop (16 * r + 8)).take 8))⟩) []

/-- A read of the linked record failed: it does not fit; the first time it is reported. -/
def State.linkFault (s : State) (n f va : Nat) (old : LinkSeen) : State :=
  let s := s.updLaunch n (fun x => { x with seamUnit := { x.seamUnit with
    links := x.seamUnit.links.put {} f { old with fits := false, rows := [], faultPosted := true } } })
  if old.faultPosted then s else s.notice (.seamLinkFault n f (BitVec.ofNat 64 va))

/-- SEAM_LINK_REREAD: the unit reads the record of a face again at scope .sys. -/
def execSeamLinkReread (launch face : Nat) (s : State) : Host.Outcome State Fault Refusal :=
  let x := s.launch launch
  let u := x.seamUnit
  if !x.live || !x.lpb.seam || u.rstate != 1 || !s.serves x.tenant || !u.linked face ||
      !(u.candidates x.lpb).any (u.waitsOn x.lpb face) then s.idle
  else
    let c := s.engineCluster x.tenant
    let va := u.linkOf face
    let old := u.links.get {} face
    let s0 := s
    match s.readVa c x.tenant va 0x100 with
    | (.error (_, a), s) => .next (s0.unlessWalkFault (s.linkFault launch face a old))
    | (.ok bs, s) =>
      let seen := u.seeHeader x.lpb face bs old
      let put (s : State) (l : LinkSeen) : State :=
        s.updLaunch launch (fun x => { x with seamUnit := { x.seamUnit with links := x.seamUnit.links.put {} face l } })
      if !seen.fits then
        let valid := decide (1 ≤ leNat ((bs.drop 0x80).take 4) ∧ leNat ((bs.drop 0x80).take 4) ≤ 3)
        let s := put s { seen with mismatchPosted := old.mismatchPosted || valid }
        .next (if valid && !old.mismatchPosted then s.notice (.seamLinkMismatch launch face) else s)
      else
        let rows := u.rowCount { x.lpb with e0 := seen.e0, e1 := seen.e1, e2 := seen.e2 }
        match s.readVa c x.tenant (va + 0x100) (16 * rows) with
        | (.error (_, a), s) => .next (s0.unlessWalkFault (s.linkFault launch face a old))
        | (.ok bs, s) => .next (put s { seen with rows := readRows bs rows })

end Sys2Proof.Machine
end

