-- ==== Sys2Proof/Machine/Recovery.lean ====
section
/-! DEFINITION. Pre-emption, faults that no thread owns, checkpoints, rollback and kill (R403, R406 to R416, R57, R58, R81, R182,
R214, R215); rows CONTEXT_SUSPEND, SUSPEND_COMPLETE, CONTEXT_RESUME, CONTEXT_KILL, CHECKPOINT_TAKE, ROLLBACK, CHECKPOINT_ENABLE,
CHECKPOINT_DISABLE, UNDO_LOG_MARK, TEAM_FAULT, TENANT_FAULT, LINK_FLIT_FAILURE, UNCORRECTABLE_ERROR, CORRECTED_ERROR, VF_FLR,
IMAGE_COMPLETION and IMAGE_MOVE. -/

namespace Sys2Proof.Machine

/-! ### Suspending a context (R407, R214) -/

/-- Teams that a suspend stops. -/
def State.mustStop (s : State) (t : Nat) : Bool :=
  let x := s.team t
  x.live && !x.retired && !x.exited && !x.suspended

/-- Every team of a tenant is told to stop. -/
def State.stopTeams (s : State) (tn : Nat) : State :=
  ((s.tenantTeams tn).filter s.mustStop).foldl (fun s t => s.stopTeam t) s

/-- Every team of a tenant is quiet and off the slices. -/
def State.contextQuiet (s : State) (tn : Nat) : Bool :=
  (s.tenantTeams tn).all (fun t => (s.team t).retired || (s.teamQuiet t && s.offSlices t))

/-- The virtual address of a team's image in the fabric window, or where it was moved (R60). -/
def State.imageVa (s : State) (t : Nat) : Nat :=
  let x := s.team t
  match x.moved with
  | some a => a.toNat
  | none => s.fwLo x.tenant + s.fabricOffset x.tenant x.cluster x.base

/-- The bytes of a running-list entry. -/
def SeamRun.bytes (r : SeamRun) : List Byte := leBytes 4 (r.index + (if r.done then 2 ^ 31 else 0)) ++ leBytes 4 0 ++ leBytes 8 r.image.toNat

/-- The points that stand, each with its image's address. -/
def State.listPoints (s : State) (n : Nat) : List SeamRun :=
  (s.launch n).seamUnit.running.map (fun r => if r.team = 0 then r else { r with image := BitVec.ofNat 64 (s.imageVa r.team) })

/-- A seam launch is suspended: the running list and RUNCOUNT are written, then RSTATE (R214). -/
def State.suspendSeam (s : State) (n : Nat) : State :=
  let rs := s.listPoints n
  let s := s.updSeam n (fun u => { u with running := rs })
  let x := s.launch n
  let s := s.seamWrite n (x.seamUnit.listOff x.lpb) ((rs.filter (fun r => r.team != 0)).map SeamRun.bytes).flatten
  (s.seamWrite n 0x84 (leBytes 4 (rs.filter (fun r => r.team != 0)).length)).setRstate n 2

/-- The seam launches of a tenant that stand at an RSTATE. -/
def State.seamsAt (s : State) (tn v : Nat) : List Nat :=
  (s.tenantLaunches tn).filter (fun n => (s.launch n).lpb.seam && (s.launch n).seamUnit.rstate == v)

/-- Every team is suspended, and the seam launches with them. -/
def State.suspendTeams (s : State) (tn : Nat) : State :=
  let s := ((s.tenantTeams tn).filter s.mustStop).foldl (fun s t => s.suspendNow t) s
  (s.seamsAt tn 1).foldl (fun s n => s.suspendSeam n) s

/-- A point of a suspended seam launch resumes from the address that its running-list entry holds (R215). -/
def State.resumePoint (s : State) (n i t : Nat) : State :=
  let x := s.launch n
  match s.readVa (s.engineCluster x.tenant) x.tenant (x.seamUnit.record + x.seamUnit.listOff x.lpb + 16 * i + 8) 8 with
  | (.ok bs, s) =>
    let a := leNat bs % 2 ^ 52
    if a = s.imageVa t then s else s.updTeam t (fun y => { y with moved := some (BitVec.ofNat 64 a) })
  | (.error _, s) => s

/-- The record of a suspended seam launch is read: where each listed point stands; then RSTATE is 1. -/
def State.resumeSeam (s : State) (n : Nat) : State :=
  let ts := ((s.launch n).seamUnit.running.filter (fun r => r.team != 0)).map (·.team)
  ((List.range ts.length).foldl (fun s i => s.resumePoint n i (ts.getD i 0)) s).setRstate n 1

/-- Suspended units are to be placed again (R198, R215). -/
def State.resumeTeams (s : State) (tn : Nat) : State :=
  let ts := (s.tenantTeams tn).filter (fun t => (s.team t).suspended && !(s.team t).retired && !(s.team t).awaiting)
  let s := ts.foldl (fun s t => s.updTeam t (fun x => { x with awaiting := true })) s
  let s := (s.seamsAt tn 2).foldl (fun s n => s.resumeSeam n) s
  ts.foldl (fun s t => s.reportFeatures t) s

/-! ### Checkpoints (R411 to R413) -/

/-- Keys of the fabric slices of a tenant's partitions. -/
def inParts (ps : List Nat) (k : Nat) : Bool := ps.any (fun p => decide (5 * p * 2 ^ 23 ≤ k ∧ k < 5 * (p + 1) * 2 ^ 23))

/-- A partition's five slices into the first 40 MiB of its log (R412). -/
def State.putSlices (s : State) (p : Nat) : State :=
  let a := (s.partition p).ulbase
  let n := 40 * 2 ^ 20
  let lo := 5 * p * 2 ^ 23
  if a + n ≤ hbmTop then
    { s with
      hbm := (s.fab.slice lo (lo + n)).foldl (fun m e => m.put 0 (a + (e.1 - lo)) e.2) (s.hbm.cut a (a + n))
      hbmPoison := s.hbmPoison.cut (a / 64) ((a + n) / 64) }
  else s

/-- A pool entry in the control area: its block, then its state (log 50). -/
def PoolEntry.control (e : PoolEntry) : List Byte :=
  e.lpb ++ leBytes 8 e.parent ++ leBytes 8 e.depth ++ leBytes 8 e.index ++ leBytes 8 e.handle ++
    leBytes 4 (Bool.bit e.live + 2 * Bool.bit e.taken + 4 * Bool.bit e.closed) ++ leBytes 4 e.status ++ leBytes 8 e.teams ++ leBytes 8 e.order

/-- A partition's control area (R412): its pool, and the tickets of the tenant's DET launches in progress. The copies of LPBs follow as they
are accepted. -/
def State.putControl (s : State) (tn p : Nat) : State :=
  let q := s.partition p
  let s := q.pool.foldl (fun s e => if e.2.live then s.writeLog (q.controlAt + 256 * e.1) e.2.control else s) s
  s.writeLog q.ticketsAt
    (((s.tenantLaunches tn).filter (fun n => (s.launch n).lpb.det)).map (fun n => leBytes 8 n ++ leBytes 8 (s.launch n).ticket)).flatten

/-- The checkpoint of a tenant whose units are all suspended: lacing stores current, snapshots, an empty undo log, a new interval. -/
def State.snapshot (s : State) (tn : Nat) : State :=
  let ps := s.partsOf tn
  let ks := (List.range 16).filter (fun k => (s.islSlot tn k).active && !(s.islSlot tn k).poisoned)
  let s := ks.foldl (fun s k => s.writeStore tn k) s
  let s := (s.tenantTeams tn).foldl (fun s t => s.updTeam t (fun x => { x with complete := true })) s
  let x := s.tenant tn
  let k : Ckpt :=
    { live := true
      teams := s.teams.filter (fun e => e.2.tenant == tn)
      launches := s.launches.filter (fun e => e.2.tenant == tn)
      spaces := s.spaces.filter (fun e => e.2.tenant == tn)
      fab := s.fab.filter (fun e => inParts ps e.1)
      fabPoison := s.fabPoison.filter (fun e => inParts ps (8 * e.1))
      pools := ps.map (fun p => (p, (s.partition p).pool))
      slots := x.slots.filter (fun e => e.2.active)
      codes := s.codes.filter (fun (x : CodeView) => (s.launch x.launch).tenant == tn)
      sent := s.sent.filter (fun r => r.tenant == tn) }
  let s := ps.foldl (fun s p => (s.putSlices p).putControl tn p) { s with ckpts := s.ckpts.put {} tn k }
  let s := ps.foldl (fun s p => s.updPartition p (fun q => { q with undo := [] })) s
  s.updTenant tn (fun x => { x with rolls := 0, ckSeq := x.ckSeq + 1, ckPend := false, ckEn := x.ckEn || x.ckRise, ckRise := false })

/-- A checkpoint that was asked for: taken, or, if EN has fallen in the meantime, given up (R415). -/
def State.takeCheckpoint (s : State) (tn : Nat) : State :=
  if (s.tenant tn).ckEn || (s.tenant tn).ckRise then s.snapshot tn else s.updTenant tn (fun x => { x with ckPend := false })

/-- What a suspend that was begun comes to once every team is suspended: the checkpoint, if one was asked for, and SUSP, or the
units resume. -/
def State.afterSuspend (s : State) (tn : Nat) : State :=
  let x := s.tenant tn
  let s := if x.ckPend then s.takeCheckpoint tn else s
  if x.ctxPend then s.updTenant tn (fun x => { x with susp := true, ctxPend := false })
  else if x.susp then s
  else s.resumeTeams tn

/-- A suspend or a checkpoint goes on. Nothing to stop: it completes at once. -/
def State.goSuspend (s : State) (tn : Nat) : State :=
  let s := s.stopTeams tn
  if s.contextQuiet tn then (s.suspendTeams tn).afterSuspend tn else s

/-- A checkpoint begins. -/
def State.beginCheckpoint (s : State) (tn : Nat) : State :=
  (s.updTenant tn (fun x => { x with ckPend := true })).goSuspend tn

/-- CONTEXT_SUSPEND. -/
def execContextSuspend (tenant : Nat) (s : State) : Host.Outcome State Fault Refusal :=
  let x := s.tenant tenant
  if x.susp || x.ctxPend || x.dead then .next s
  else .next ((s.updTenant tenant (fun x => { x with ctxPend := true })).goSuspend tenant)

/-- SUSPEND_COMPLETE. -/
def execSuspendComplete (tenant : Nat) (s : State) : Host.Outcome State Fault Refusal :=
  let x := s.tenant tenant
  if !(x.ctxPend || x.ckPend) || !s.contextQuiet tenant then s.idle
  else .next ((s.suspendTeams tenant).afterSuspend tenant)

/-- CONTEXT_RESUME: of a suspended context; while a suspend is in progress it ends that. -/
def execContextResume (tenant : Nat) (s : State) : Host.Outcome State Fault Refusal :=
  let x := s.tenant tenant
  if x.dead || !(x.susp || x.ctxPend) then .next s
  else
    let s := s.updTenant tenant (fun x => { x with susp := false, ctxPend := false })
    if x.ckPend then .next s
    else .next (((s.tenantTeams tenant).foldl (fun s t => s.updTeam t (fun x => { x with stopping := false })) s).resumeTeams tenant)

/-! ### Kill (R414) -/

/-- An accepted launch completes with KILLED: its record, and its queue's message. -/
def State.killedRecord (s : State) (tn n : Nat) (src : Source) (b : Lpb) (teams : Nat) : State :=
  let s := s.completionRecord n b tn stKilled 0 teams
  match src with
  | .queue q => s.notice (.msix tn ((s.tenant tn).queues.get {} q).vec)
  | _ => s

/-- Children that were accepted and wait in a pool. -/
def State.waitingChildren (s : State) (tn : Nat) : List (Nat × Nat) :=
  ((s.partsOf tn).map (fun p => (((s.partition p).pool.filter (fun e => e.2.live && !e.2.taken)).map (fun e => (p, e.1))))).flatten

/-- A context is killed. -/
def State.killTenant (s : State) (tn : Nat) : State :=
  let ts := s.tenantTeams tn
  let s := ((s.dropWork ts).dropTeams ts).dropReports tn
  let ns := sortBy (fun a b => decide ((s.launch a).order ≤ (s.launch b).order)) ((s.tenantLaunches tn).filter (fun n => !(s.launch n).completed))
  let s := ns.foldl (fun s n => s.killedRecord tn n (s.launch n).source (s.launch n).lpb (s.launch n).retired) s
  let s := (s.tenant tn).retake.foldl (fun s k => s.killedRecord tn k.launch k.source (parseLpb k.lpb) 0) s
  let s := ((s.waitingChildren tn).filter (fun e => !s.retakes tn e.1 e.2)).foldl (fun s e =>
    let k := (s.partition e.1).entry e.2
    s.killedRecord tn k.launch (.pool e.1 e.2) (parseLpb k.lpb) 0) s
  let s := { s with
    codes := s.codes.filter (fun (x : CodeView) => (s.launch x.launch).tenant != tn)
    launches := s.launches.filter (fun e => !(e.2.tenant == tn))
    spaces := s.spaces.filter (fun e => !(e.2.tenant == tn)) }
  let s := (s.partsOf tn).foldl (fun s p => s.updPartition p (fun q => { q with pool := [] })) s
  s.updTenant tn (fun x => { x with
    dead := true, susp := false, ctxPend := false, ckPend := false, ckRise := false, waiting := [], retake := [],
    dbgPend := false
    slots := x.slots.map (fun e => (e.1, { e.2 with en := false, active := false, reenable := false, poisoned := false, islands := [], reports := [] })) })

/-- CONTEXT_KILL. -/
def execContextKill (tenant : Nat) (s : State) : Host.Outcome State Fault Refusal := .next (s.killTenant tenant)

/-! ### Rollback (R413 to R415) -/

/-- The line as it was when the interval began. -/
def State.undoLine (s : State) (u : Undo) : State :=
  { s with hbm := s.hbm.putList 0 (64 * u.line) u.bytes, hbmPoison := NatSet.set s.hbmPoison u.line u.poisoned }

/-- The undo entries of a tenant's partitions, latest first. -/
def State.undoAll (s : State) (tn : Nat) : State :=
  (s.partsOf tn).foldl (fun s p => (s.partition p).undo.reverse.foldl (fun s u => s.undoLine u) s) s

/-- A launch of the interval is taken again; a child only if its entry stands as it did when it was accepted. -/
def State.mayRetake (s : State) (k : Retake) : Bool :=
  match k.source with
  | .pool p e =>
    let x := (s.partition p).entry e
    x.live && !x.taken && x.lpb == k.lpb
  | _ => true

/-- An island set is rebuilt: from its store as restored, or, if it was not held at the checkpoint, from its descriptor (R235). -/
def State.rebuildSet (s : State) (tn k : Nat) (old : IslSlot) : State :=
  let x := s.islSlot tn k
  if old.active then
    (s.orWalkFault tn (s.walkBad tn old.desc.lstore old.desc.storeSize)).updSlot tn k (fun _ => s.readStore tn { old with
      addr := x.addr, en := x.en, init := x.init, pm1 := x.pm1, vec := x.vec, stat := x.stat, pmPending := x.pm1 != old.p1,
      reenable := x.reenable, poisoned := false })
  else if x.active then
    let s := s.updSlot tn k (fun x => { x with active := false, islands := [] })
    if x.en then s.enableSet tn k else s
  else if x.en && x.reenable then s.enableSet tn k
  else s

/-- The state of the checkpoint comes back, the tenant's seam launches too, whatever other launches their die's unit tracks by now (log 84). -/
def State.restore (s : State) (tn : Nat) : State :=
  let ps := s.partsOf tn
  let k := s.ckpts.get {} tn
  let ts := s.tenantTeams tn
  let s := (((s.dropWork ts).dropTeams ts).dropReports tn).undoAll tn
  let s := { s with
    codes := s.codes.filter (fun (x : CodeView) => (s.launch x.launch).tenant != tn) ++ k.codes
    teams := k.teams.foldl (fun (m : Sparse Team) (e : Nat × Team) => m.put {} e.1 e.2) s.teams
    launches := k.launches.foldl (fun (m : Sparse Launch) (e : Nat × Launch) => m.put {} e.1 e.2) (s.launches.filter (fun e => !(e.2.tenant == tn)))
    spaces := k.spaces.foldl (fun (m : Sparse Launch) (e : Nat × Launch) => m.put {} e.1 e.2) (s.spaces.filter (fun e => !(e.2.tenant == tn)))
    fab := k.fab.foldl (fun (m : Sparse Byte) (e : Nat × Byte) => m.put 0 e.1 e.2) (s.fab.filter (fun e => !inParts ps e.1))
    fabPoison := k.fabPoison.foldl (fun (m : NatSet) (e : Nat × Bool) => NatSet.set m e.1 e.2) (s.fabPoison.filter (fun e => !inParts ps (8 * e.1)))
    tlb := s.tlb.filter (fun e => e.tenant != tn)
    lines := s.lines.filter (fun x => !ps.contains (partOf x.cluster)) }
  let s := k.pools.foldl (fun s e => s.updPartition e.1 (fun q => { q with pool := e.2 })) { s with sent := s.sent ++ k.sent }
  let again := (k.accepted ++ (s.tenant tn).retake).filter s.mayRetake
  let s := { s with ckpts := s.ckpts.put {} tn { k with accepted := [] } }
  let s := s.updTenant tn (fun x => { x with
    rolls := x.rolls + 1, rolled := true, waiting := [], retake := again, ckPend := false, dbgPend := false })
  let s := (List.range 16).foldl (fun s i => s.rebuildSet tn i (k.slots.get {} i)) s
  if (s.tenant tn).susp || (s.tenant tn).ctxPend then s else s.resumeTeams tn

/-- A rollback, or, with ROLLS at 2, the kill that takes its place (R414). -/
def State.rollTenant (s : State) (tn : Nat) : State :=
  if (s.tenant tn).rolls = 2 then s.killTenant tn else s.restore tn

/-- A fault that rolls a tenant back kills it while it has no checkpoint (R415). -/
def State.escalate (s : State) (tn : Nat) : State := if (s.tenant tn).ckEn then s.rollTenant tn else s.killTenant tn

/-- ROLLBACK: a write of CKCTL with ROLL = 1, or a digest mismatch. Without a checkpoint nothing is rolled back. -/
def execRollback (tenant : Nat) (s : State) : Host.Outcome State Fault Refusal :=
  let x := s.tenant tenant
  .next (if x.ckEn && !x.dead then s.rollTenant tenant else s)

/-- CHECKPOINT_TAKE: a write of CKCTL with TAKE = 1. While EN is 0 the tenant has no checkpoint. -/
def execCheckpointTake (tenant : Nat) (s : State) : Host.Outcome State Fault Refusal :=
  let x := s.tenant tenant
  .next (if x.ckEn && !x.dead && !x.ckPend then s.beginCheckpoint tenant else s)

/-- CHECKPOINT_ENABLE: EN rises when the checkpoint it takes is complete; one that is under way already is that checkpoint. -/
def execCheckpointEnable (tenant : Nat) (s : State) : Host.Outcome State Fault Refusal :=
  let x := s.tenant tenant
  if x.ckEn then s.idle
  else if x.ckPend then .next (s.updTenant tenant (fun x => { x with ckRise := true }))
  else .next ((s.updTenant tenant (fun x => { x with ckRise := true })).beginCheckpoint tenant)

/-- CHECKPOINT_DISABLE. -/
def execCheckpointDisable (tenant : Nat) (s : State) : Host.Outcome State Fault Refusal :=
  if !(s.tenant tenant).ckEn then s.idle
  else
    let s := { s with ckpts := s.ckpts.del tenant }
    let s := (s.partsOf tenant).foldl (fun s p => s.updPartition p (fun q => { q with undo := [] })) s
    .next (s.updTenant tenant (fun x => { x with ckEn := false }))

/-- Free bytes of a partition's undo log (R412). -/
def Partition.logFree (p : Partition) : Nat := p.sizeg * 2 ^ 30 - 48 * 2 ^ 20 - 72 * p.undo.length

/-- UNDO_LOG_MARK: a log's free space is below 64 MiB. -/
def execUndoLogMark (partition : Nat) (s : State) : Host.Outcome State Fault Refusal :=
  let p := s.partition partition
  let x := s.tenant p.tenant
  if !p.valid || !x.ckEn || x.ckPend || decide (64 * 2 ^ 20 ≤ p.logFree) then s.idle
  else .next ((s.updTenant p.tenant (fun x => { x with forced := true })).beginCheckpoint p.tenant)

/-! ### Team faults (R408 to R410) -/

/-- The groups of a relaunched team, as at team start, on the cores they stood on. -/
def State.restartGroups (s : State) (t : Nat) : Sparse Group :=
  let n := s.launchOf t
  (s.groupsOf t).map (fun g => (g, { s.startGroup n.lpb n.args (s.group t g).core with suspended := (s.group t g).suspended }))

/-- Image and Cinch area of a team's region as they stand, with poison: register words carry theirs in the maps (R73). -/
def State.imagePart (s : State) (t : Nat) : List (Byte × Bool) :=
  let b := s.lpbOf t
  ((List.range (b.declOff / 4)).map (fun i =>
    let w := s.imageWord t (4 * i)
    (leBytes 4 w.1.toNat).map (fun v => (v, w.2 && (b.place (4 * i)).isNone)))).flatten

/-- A point that has retired unreleased stands in its running list again. -/
def Seam.rejoin (u : Seam) (index t : Nat) (done : Bool) : Seam :=
  if u.running.any (fun r => r.index == index) then u else { u with running := u.running ++ [⟨index, done, t, 0⟩] }

/-- A team of an IDEM launch starts again: its images are written as at team start (R410), also where they have been moved to. One that has
exited and stands unreleased has no place on a core any more and waits for one. -/
def State.relaunch (s : State) (t : Nat) : State :=
  let s := s.dropWork [t]
  let gs := s.restartGroups t
  let old := s.team t
  let held := (s.tenant old.tenant).susp || (s.tenant old.tenant).ctxPend || (s.tenant old.tenant).ckPend
  let s := s.updTeam t (fun x => { x with
    groups := if old.exited then gs.map (fun e => (e.1, { e.2 with suspended := true })) else gs
    resv := [], released := [], sb := [], sbWritten := [], sbPoison := [], guard := [], staging := [], handles := [],
    accepted := 0, still := false, exited := false, retired := false, sbSave := {}, sbSaved := false, relaunches := x.relaunches + 1,
    suspended := x.suspended || old.exited, awaiting := x.awaiting || (old.exited && !held), complete := false })
  let s := if old.retired then s.updLaunch old.launch (fun n => { n with retired := n.retired - 1 }) else s
  let s := if old.retired && (s.lpbOf t).seam then s.updSeam old.launch (fun u => u.rejoin old.index t old.pointDone) else s
  let x := s.team t
  let s := (match x.island with
    | none => s
    | some id => let z := s.islSlot x.tenant x.slot; s.preload t id x.member z.desc z.links (s.launch x.launch).parts.flatten (s.readRecords x.tenant z.desc x.bodies))
  let s := match x.moved with
    | some a => s.writeVaP (s.engineCluster x.tenant) x.tenant a.toNat (s.imagePart t)
    | none => s
  s.clearCache x.cluster

/-- A fault of a team: IDEM relaunch where R409 and R410 allow it, else rollback. -/
def State.teamFault (s : State) (t : Nat) : State :=
  let x := s.team t
  let b := s.lpbOf t
  if b.idem && !x.exposed && decide (x.relaunches < b.retry) && x.gangSize == 1 then s.relaunch t else s.escalate x.tenant

/-- TEAM_FAULT. -/
def execTeamFault (team : Nat) (s : State) : Host.Outcome State Fault Refusal :=
  if (s.team team).live then .next (s.teamFault team) else s.idle

/-- TENANT_FAULT. -/
def execTenantFault (tenant : Nat) (s : State) : Host.Outcome State Fault Refusal :=
  if (s.tenant tenant).dead then s.idle else .next (s.escalate tenant)

/-! ### Module faults (R57, R408) -/

/-- Tenants with work on the module. -/
def State.working (s : State) : List Nat :=
  ((s.tenants.filter (fun e => !e.2.dead && (!(s.tenantTeams e.1).isEmpty || !(s.tenantLaunches e.1).isEmpty))).map (·.1))

/-- A module fault of a link for some tenants: rollback, or, when it recurs, kill; then the Wamir complex records the link. -/
def State.moduleFault (s : State) (link : Nat) (tns : List Nat) (recurring : Bool) : State :=
  if recurring then
    { (tns.foldl (fun s t => s.killTenant t) s).notice .linkRecorded with flitFault := NatSet.set s.flitFault link false }
  else { tns.foldl (fun s t => s.escalate t) s with flitFault := NatSet.set s.flitFault link true }

/-- LINK_FLIT_FAILURE. -/
def execLinkFlitFailure (recurring : Bool) (s : State) : Host.Outcome State Fault Refusal :=
  if recurring && !NatSet.has s.flitFault 0 then s.idle else .next (s.moduleFault 0 s.working recurring)

/-! ### Errors in stored data (R57, R58, R81, R408) -/

/-- Poison on both lane words of a 64-bit unit of an image area. -/
def State.poisonArea (s : State) (t g : Nat) (a : Area) : State :=
  match a with
  | .uniform n => s.updGroup t g (fun x => x.sSetP n 0 true)
  | .latch l n => s.updThread t g l (fun th =>
      let y (q : Latches) : Latches := { q with val := q.val.put 0 n 0, poison := NatSet.set q.poison n true }
      if th.inTrap || th.status == .stopped then { th with ySaved := y th.ySaved } else { th with y := y th.y })
  | .vector l n => s.updThread t g l (fun th => th.vSetP n 0 true)
  | .tile a n => s.updGroup t g (fun x => { x with tiles := x.tiles.upd {} a (fun y =>
      { y with val := ⟨(y.val.elems.put 0 (n / 2 * 2) 0).put 0 (n / 2 * 2 + 1) 0, NatSet.set y.val.poison (n / 2) true⟩ }) })
  | _ => s

/-- An error in a guarded word of a team's region: register words are poisoned, everything else is a fault of the team. -/
def State.imageError (s : State) (t off : Nat) : State :=
  let b := s.lpbOf t
  match b.place off with
  | some (_, .fixed) | some (_, .lane _ _) | some (_, .frame _ _ _) => s.teamFault t
  | some (g, .tile a n) => s.poisonArea t g (.tile a n)
  | some (g, a) =>
    let s := s.poisonArea t g a
    match b.place (off + 4) with
    | some (g', a') => s.poisonArea t g' a'
    | none => s
  | none =>
    if 0x300 ≤ off ∧ off < b.groupOff 0 then
      s.updTeam t (fun x => { x with sbSave := { x.sbSave with poison := NatSet.set x.sbSave.poison ((off - 0x300) / 8) true } })
    else s.teamFault t

/-- An error in a fabric word: in the open it is poisoned (R57). -/
def State.fabricError (s : State) (w : Nat) : State :=
  let c := 8 * w / 2 ^ 23
  let b := 8 * w % 2 ^ 23
  match s.regionAt c b with
  | none => s.poisonLoc (.fabric c b) 8
  | some t =>
    let off := b - (s.team t).base
    match s.guardOf t off with
    | .open => s.poisonLoc (.fabric c b) 8
    | .rein => s.teamFault t
    | _ => s.imageError t off

/-- Bytes of a DET team's copy that stand staged (R148). -/
def State.stagedOf (s : State) (o : Op) : Nat :=
  (((s.team o.team).staging.filter (fun e => e.copy && e.op == o.id)).map (fun e => e.data.length)).sum

/-- The data word of byte n of a copy's staged entries is poisoned: the units the byte goes to will be (R57). -/
def spoilStaged (id : Nat) : Nat → List Stage → List Stage
  | _, [] => []
  | n, e :: r =>
    if e.copy && e.op == id then
      if n < e.data.length then { e with poison := NatSet.set e.poison (n / 8) true } :: r
      else e :: spoilStaged id (n - e.data.length) r
    else e :: spoilStaged id n r

/-- Byte n of a copy is spoiled, counted over its staged entries and then over what it has yet to move. -/
def State.spoil (s : State) (o : Op) (n : Nat) : State :=
  if n < s.stagedOf o then s.updTeam o.team (fun x => { x with staging := spoilStaged o.id n x.staging })
  else { s with ops := s.ops.map (fun x => if x.id == o.id then { x with spoiled := NatSet.set x.spoiled (n - s.stagedOf o) true } else x) }

/-- Whether the unit an error strikes exists. -/
def State.unitExists (s : State) : PoisonUnit → Bool
  | .hbmLine l => decide (64 * l < hbmTop)
  | .fabricWord w => decide (8 * w < 320 * 2 ^ 23)
  | .saddlebagWord t id w =>
    let r := (s.team t).resv.get {} id
    (s.team t).live && r.live && decide (8 * w < 64 * r.size)
  | .vectorWord t g l n => (s.group t g).live && decide (l < (s.lpbOf t).w) && decide (n < (s.lpbOf t).nv)
  | .uniformWord t g n => (s.group t g).live && decide (0 < n) && decide (n < min (s.lpbOf t).nu 384)
  | .latchWord t g l n => (s.group t g).live && decide (l < (s.lpbOf t).w) && decide (n < 4)
  | .tileWord t g a w => (s.group t g).live && decide (a < (s.lpbOf t).nt) && decide (w < 512)
  | .stagingByte o n => match s.op o with
    | some o => !o.finished && !o.kind.isXred && decide (n < s.stagedOf o + ((o.kind.segs ++ o.rest).map (·.len)).sum)
    | none => false

/-- The unit is poisoned. -/
def State.strike (s : State) : PoisonUnit → State
  | .hbmLine l => s.poisonLoc (.hbm (64 * l) false) 1
  | .fabricWord w => s.fabricError w
  | .saddlebagWord t id w =>
    let r := (s.team t).resv.get {} id
    s.updTeam t (fun x => { x with sbPoison := NatSet.set x.sbPoison (8 * r.unit + w) true })
  | .vectorWord t g l n => s.poisonArea t g (.vector l n)
  | .uniformWord t g n => s.poisonArea t g (.uniform n)
  | .latchWord t g l n => s.poisonArea t g (.latch l n)
  | .tileWord t g a w => s.poisonArea t g (.tile a (2 * w))
  | .stagingByte o n => match s.op o with
    | some o => s.spoil o n
    | none => s

/-- UNCORRECTABLE_ERROR. -/
def execUncorrectableError (unit : PoisonUnit) (s : State) : Host.Outcome State Fault Refusal :=
  if s.unitExists unit then .next (s.strike unit) else s.idle

/-- CORRECTED_ERROR. -/
def execCorrectedError (partition : Nat) (s : State) : Host.Outcome State Fault Refusal := .next (s.count partition 8 1)

/-- VF_FLR (R436). -/
def execVfFlr (partition : Nat) (s : State) : Host.Outcome State Fault Refusal :=
  .next (if (s.partition partition).valid then s.killTenant (s.partition partition).tenant else s)

/-! ### Images (R60, R65) -/

/-- IMAGE_COMPLETION. -/
def execImageCompletion (team : Nat) (s : State) : Host.Outcome State Fault Refusal :=
  if (s.team team).suspended && !(s.team team).complete then .next (s.updTeam team (fun x => { x with complete := true }))
  else s.idle

/-- The bytes of a suspended team's region as they stand, with poison: where it has been moved to, else image and Cinch area, and declared
bytes. -/
def State.movedBytes (s : State) (t : Nat) : List (Byte × Bool) :=
  let x := s.team t
  let b := s.lpbOf t
  match x.moved with
  | some a => s.engineRead x.tenant a.toNat x.region
  | none =>
    s.imagePart t ++ (List.range (x.region - b.declOff)).map (fun i =>
      let l : Loc := .fabric x.cluster (x.base + b.declOff + i)
      (s.memByte l, s.memPoison l))

/-- The running-list entry of a moved point names the new address (R214). -/
def State.movePoint (s : State) (t : Nat) (a : Dword) : State :=
  let x := s.team t
  let n := s.launch x.launch
  if !n.lpb.seam then s
  else
    let shown := n.seamUnit.running.filter (fun r => r.team != 0)
    let i := shown.findIdx (fun r => r.team == t)
    let s := s.updSeam x.launch (fun u => { u with running := u.running.map (fun r => if r.team = t then { r with image := a } else r) })
    s.seamWrite x.launch (n.seamUnit.listOff n.lpb + 16 * i + 8) (leBytes 8 a.toNat)

/-- IMAGE_MOVE: system software moves a suspended team's image, with its region, to a virtual address in HBM. -/
def execImageMove (team : Nat) (addr : Dword) (s : State) : Host.Outcome State Fault Refusal :=
  let x := s.team team
  if !x.live || !(s.unitOf team).all (fun u => (s.team u).suspended) || x.swapped.isSome then s.idle
  else match s.pagesWritable x.tenant addr.toNat x.region with
    | (false, _) => s.idle
    | (true, s) =>
      let bs := s.movedBytes team
      let s := s.writeVaP (s.engineCluster x.tenant) x.tenant addr.toNat bs
      .next ((s.movePoint team addr).updTeam team (fun y => { y with complete := true, moved := some addr }))

end Sys2Proof.Machine
end

