-- ==== Sys2Proof/Machine/Skive.lean ====
section
/-! DEFINITION. Skive mode (spec 22): margin control, replays, escalation and quarantine, and the passing of core cycles; rows
SKVCTL_WRITE, MARGIN_STEP_SETTLE, SKIVE_WINDOW_EXPIRE, TIMING_REPLAY, NR_LATE_TRANSITION and QUAR_CLEAR. -/

namespace Sys2Proof.Machine

/-! ### Time (R201, R424) -/

/-- n cycles of the reference clock pass, in which the core's own clock makes CUR sixteenths of a cycle each (R427, log 64); at a multiple of
the window's length WCOUNT returns to 0. -/
def Core.tick (n : Nat) (c : Core) : Core :=
  let t := c.clk.toNat
  let k := (c.phase + n * c.cur) / 16
  { c with
    clk := c.clk + BitVec.ofNat 64 k
    phase := (c.phase + n * c.cur) % 16
    wcount := if t / 2 ^ c.winlog = (t + k) / 2 ^ c.winlog then c.wcount else 0 }

/-- n cycles pass on every core that has been brought up. -/
def State.tick (s : State) (n : Nat) : State := { s with cores := s.cores.map (fun c => (c.1, c.2.tick n)) }

/-! ### The clock ratio (R428, R430) -/

/-- Boost is barred. -/
def State.boostBarred (s : State) : Bool := !s.boost || s.occause != 0

/-- The step whose voltage bounds the clock: while a change settles, the lower of the steps it lies between (R423). -/
def Core.boundStep (c : Core) : Nat := if c.settling then min c.stepWas c.cstep else c.cstep

/-- BCAP. -/
def State.bcap (s : State) (core : Nat) : Nat := if s.boostBarred then 16 else min 20 (16 + (s.core core).boundStep / 2)

/-- min(TGT, PCAP, BCAP). -/
def State.ratio (s : State) (core : Nat) : Nat := min (min (s.core core).tgt (s.core core).pcap) (s.bcap core)

/-- A step change begins: until it has settled, the core keeps to the lower of the clocks that the two voltages permit. -/
def State.holdClock (s : State) (core : Nat) : State := s.updCore core (fun c => { c with cur := min c.cur (s.ratio core) })

/-- The core goes to another step, and the change settles. -/
def Core.changeStep (c : Core) (step : Nat) : Core := { c with cstep := step, stepWas := c.boundStep, settling := true }

/-! ### Margin control (R423) -/

/-- SKVCTL's fields from a written value. -/
def Core.setSkv (c : Core) (v : Nat) : Core :=
  let step := bitsOf v 4 1
  let limit := bitsOf v 15 8
  let log := bitsOf v 20 16
  { c with
    skvEn := v % 2 == 1
    tstep := if 10 < step then 10 else step
    limit := if limit = 0 then 1 else limit
    winlog := if 10 ≤ log ∧ log ≤ 24 then log else 16 }

/-- A write of SKVCTL; one that changes TSTEP or EN is a step change. -/
def Core.writeSkv (c : Core) (v : Nat) : Core :=
  let d := c.setSkv v
  if d.tstep = c.tstep ∧ d.skvEn = c.skvEn then d
  else { d.changeStep (if d.skvEn then d.tstep else 10) with wcount := 0, ceil := 0, ceilAt := [] }

/-- SKVCTL_WRITE. -/
def execSkvctlWrite (core : Nat) (value : Word) (s : State) : Host.Outcome State Fault Refusal :=
  .next ((s.updCore core (fun c => c.writeSkv value.toNat)).holdClock core)

/-- MARGIN_STEP_SETTLE. -/
def execMarginStepSettle (core : Nat) (s : State) : Host.Outcome State Fault Refusal :=
  if (s.core core).settling then .next (s.updCore core (fun c => { c with settling := false })) else s.idle

/-- SKIVE_WINDOW_EXPIRE: the core's CLK is at a multiple of the window's length. -/
def execSkiveWindowExpire (core : Nat) (s : State) : Host.Outcome State Fault Refusal :=
  let c := s.core core
  if c.clk.toNat % 2 ^ c.winlog = 0 then .next (s.updCore core (fun c => { c with wcount := 0 })) else s.idle

/-! ### Quarantine (R425, R182) -/

/-- Teams with a group on a core. -/
def State.teamsOn (s : State) (core : Nat) : List Nat :=
  s.liveTeams.filter (fun t => s.onCore t && (s.groupsOf t).any (fun g => (s.group t g).core == core))

/-- An open gang that no longer fits is stranded. -/
def State.strand (s : State) (n : Nat) : State :=
  if s.isOpen n && !s.canFinish n then
    let s := ((s.launchTeams n).filter (fun t => !(s.team t).suspended)).foldl (fun s t => s.stopTeam t) s
    (s.updLaunch n (fun x => { x with stranded := true, coreBack := false })).notice (.gangStranded n)
  else s

/-- A core leaves the distributor's set: its teams stop, gangs whole, open gangs are judged, and units that wait and have lost the last core
with their features are reported (R198). -/
def State.leaveSet (s : State) (core : Nat) : State :=
  let before := s.updCore core (fun c => { c with quar := false })
  let s := (s.stopFiller core 1).stopFiller core 2
  let ts := ((s.teamsOn core).map s.unitOf).flatten
  let s := (ts.filter s.mustStop).foldl (fun s t => s.stopTeam t) s
  let s := s.launches.foldl (fun s e => s.strand e.1) s
  s.tenants.foldl (fun s e =>
    let old := before.featureless e.1
    ((s.featureless e.1).filter (fun t => !old.contains t)).foldl (fun s t => s.notice (.featureWait (s.team t).launch)) s) s

/-- Quarantine by ceiling escalations. -/
def State.quarantine (s : State) (core : Nat) : State :=
  ((s.updCore core (fun c => { c with quar := true, escq := true, ceil := 0, ceilAt := [] })).leaveSet core).notice (.coreQuarantine core)

/-- SKVCAUSE's bits as they stand. -/
def Core.cause (c : Core) : Nat := Bool.bit c.quar + 2 * Bool.bit c.escq + 4 * Bool.bit c.nrdet

/-- A core has returned to the distributor's set: stranded gangs may be admitted afresh (R182). -/
def State.joinSet (s : State) : State :=
  { s with launches := s.launches.map (fun e => (e.1, if e.2.stranded then { e.2 with coreBack := true } else e.2)) }

/-- A write of SKVCAUSE: QUAR 0 returns the core to the set, QUAR 1 takes it out. -/
def State.writeCause (s : State) (core v : Nat) : State :=
  let was := (s.core core).quar
  let quar := v % 2 == 1
  let s := s.updCore core (fun c => { c with quar := quar, escq := v / 2 % 2 == 1, nrdet := v / 4 % 2 == 1 })
  if quar && !was then s.leaveSet core else if was && !quar then s.joinSet else s

/-- QUAR_CLEAR: a write of SKVCAUSE that clears QUAR and keeps the other bits. -/
def execQuarClear (core : Nat) (s : State) : Host.Outcome State Fault Refusal :=
  if (s.core core).quar then .next (s.writeCause core ((s.core core).cause - 1)) else s.idle

/-! ### Replays and escalation (R424, R426) -/

/-- The counts that every replay raises; b: the bundle whose groups' rtick counts it. WCOUNT has 9 bits and stays at its greatest value
(log 86). -/
def State.countReplay (s : State) (core : Nat) (b : Option Bundle) : State :=
  let s := s.updCore core (fun c => { c with replays := c.replays + 1, wcount := min (c.wcount + 1) 511 })
  let s := s.count (partOf (clusterOf core)) 4 1
  match b with
  | none => s
  | some b => b.groups.foldl (fun s g => s.updGroup b.team g (fun x => { x with rtick := if x.rtick = 0xFFFFFFFF then x.rtick else x.rtick + 1 })) s

/-- The counts of an escalation. -/
def State.countEscalation (s : State) (core : Nat) : State :=
  (s.updCore core (fun c => { c with wcount := 0, esc := min (c.esc + 1) 0xFFFF })).updPartition (partOf (clusterOf core))
    (fun p => { p with escalations := p.escalations + 1 })

/-- Ceiling escalations of a core in its last 2^30 cycles. -/
def Core.recentCeil (c : Core) : List Nat := c.ceilAt.filter (fun t => decide (c.clk.toNat < t + 2 ^ 30))

/-- A ceiling escalation: the third within 2^30 cycles quarantines the core. -/
def State.ceiling (s : State) (core : Nat) : State :=
  let c := s.core core
  if 2 ≤ c.recentCeil.length then s.quarantine core
  else s.updCore core (fun c => { c with ceil := min (c.ceil + 1) 2, ceilAt := c.recentCeil ++ [c.clk.toNat] })

/-- What follows a replay: the escalation, if WCOUNT has passed LIMIT and no step change is settling. -/
def State.afterReplay (s : State) (core : Nat) : State :=
  let c := s.core core
  if c.wcount ≤ c.limit ∨ c.settling = true then s
  else
    let s := s.countEscalation core
    if c.cstep < 10 then (s.updCore core (fun c => c.changeStep (c.cstep + 1))).holdClock core else s.ceiling core

/-- Some group of a core has a tile whose accumulation goes on; a tile load is none (R417). -/
def State.accumulates (s : State) (core : Nat) : Bool :=
  s.liveTeams.any (fun t => (s.groupsOf t).any (fun g =>
    (s.group t g).core == core && (s.group t g).tiles.any (fun a => a.2.f && !a.2.byLoad)))

/-- The bundle stands at a non-replayable word (R421). -/
def Bundle.nonReplayable (b : Bundle) (w : Nat) : Bool :=
  match decodeWords (b.words.getD b.pos 0) b.words[b.pos + 1]? with
  | .ok i => (useOf w i).nr
  | .error _ => false

/-- A late transition at a non-replayable word: the core records it and it counts as a ceiling escalation; the team has a fault (R422). -/
def State.lateAtNr (s : State) (core : Nat) (b : Bundle) : State :=
  let s := (s.countReplay core (some b)).updCore core (fun c => { c with nrdet := true })
  let s := s.teamFault b.team
  if (s.core core).settling then s else (s.countEscalation core).ceiling core

/-- A late transition at an issue of the core's bundle: a replay (R418), but at a non-replayable word a fault (R422). -/
def State.lateAtIssue (s : State) (core : Nat) (b : Bundle) : State :=
  if b.nonReplayable (s.lpbOf b.team).w then s.lateAtNr core b else (s.countReplay core (some b)).afterReplay core

/-- TIMING_REPLAY: a late transition at an issue of the core's bundle, or in an accumulation cycle, which counts in no rtick; where both go
on, which of them is a free choice. A replay changes nothing else (R418, R419). -/
def execTimingReplay (core : Nat) (s : State) : Host.Outcome State Fault Refusal :=
  match (s.core core).bundle, s.accumulates core with
  | none, false => s.idle
  | none, true => .next ((s.countReplay core none).afterReplay core)
  | some b, false => .next (s.lateAtIssue core b)
  | some b, true =>
    let (i, s) := s.choose 2
    .next (if i = 0 then s.lateAtIssue core b else (s.countReplay core none).afterReplay core)

/-- NR_LATE_TRANSITION: a late transition at a non-replayable word of the core's bundle. -/
def execNrLateTransition (core : Nat) (s : State) : Host.Outcome State Fault Refusal :=
  match (s.core core).bundle with
  | none => s.idle
  | some b => if b.nonReplayable (s.lpbOf b.team).w then .next (s.lateAtNr core b) else s.idle

end Sys2Proof.Machine
end

