-- ==== Sys2Proof/Machine/Power.lean ====
section
/-! DEFINITION. Clocks, current and the Girth (spec 23); rows CLKRAT_WRITE, CLOCK_RATIO_CHANGE, POWER_CAP_ADJUST, OVERCURRENT,
PCAP_RECOVERY and GIRTH_FILLER. -/

namespace Sys2Proof.Machine

/-! ### Clock ratios (R427 to R430) -/

/-- TGT as a write stores it. -/
def tgtOf (v : Nat) : Nat := if 8 ≤ v % 32 ∧ v % 32 ≤ 20 then v % 32 else 16

/-- CUR follows R428. -/
def State.applyRatio (s : State) (core : Nat) : State := s.updCore core (fun c => { c with cur := s.ratio core })

/-- A write of CLKRAT. -/
def State.writeClkrat (s : State) (core v : Nat) : State := (s.updCore core (fun c => { c with tgt := tgtOf v })).applyRatio core

/-- CLKRAT_WRITE. -/
def execClkratWrite (core : Nat) (value : Word) (s : State) : Host.Outcome State Fault Refusal := .next (s.writeClkrat core value.toNat)

/-- CLOCK_RATIO_CHANGE: CUR comes to stand at what the cap, the target and the barring of boost now give. -/
def execClockRatioChange (core : Nat) (s : State) : Host.Outcome State Fault Refusal :=
  if (s.core core).cur = s.ratio core then s.idle else .next (s.applyRatio core)

/-- POWER_CAP_ADJUST: the power controller sets a core's cap, never below 8; while an alarm of the core is in force it raises none (R431). -/
def execPowerCapAdjust (core cap : Nat) (s : State) : Host.Outcome State Fault Refusal :=
  if 8 ≤ cap ∧ cap ≤ 20 ∧ ((s.core core).alarm = true → cap ≤ (s.core core).pcap) then .next (s.updCore core (fun c => { c with pcap := cap })) else s.idle

/-- PCAP_RECOVERY: the rail has stayed below its limit for 1 ms: the core's alarm is over and its cap returns. -/
def execPcapRecovery (core cap : Nat) (s : State) : Host.Outcome State Fault Refusal :=
  if (s.core core).pcap < cap ∧ cap ≤ 20 then .next (s.updCore core (fun c => { c with pcap := cap, alarm := false })) else s.idle

/-! ### Over-current (R430, R431) -/

/-- The OCCAUSE bit of an alarm. -/
def alarmBit : Alarm → Nat
  | .ocDie d => d % 8
  | .supply => 8
  | .hbmRail => 9
  | .ioRail => 10

/-- The cap to which an alarm lowers a core. -/
def alarmCap (a : Alarm) (core : Nat) : Nat :=
  match a with
  | .ocDie d => if core / 240 = d % 8 then 8 else 16
  | .supply => 8
  | _ => 16

/-- An alarm concerns the rails of a core: those of its die, or the whole module. -/
def alarmAt (a : Alarm) (core : Nat) : Bool :=
  match a with
  | .ocDie d => core / 240 == d % 8
  | _ => true

/-- Every core of the module changed. -/
def State.mapCores (s : State) (f : Nat → Core → Core) : State :=
  { s with cores := ((List.range 1920).map (fun c => (c, f c (s.core c)))).filter (fun e => e.2 != {}) }

/-- OVERCURRENT. -/
def execOvercurrent (alarm : Alarm) (s : State) : Host.Outcome State Fault Refusal :=
  let s := { s with occause := s.occause ||| (1#11 <<< alarmBit alarm), filler := [] }
  let s := s.mapCores (fun k c => { c with pcap := min c.pcap (alarmCap alarm k), alarm := c.alarm || alarmAt alarm k })
  .next (s.notice (.overcurrent s.occause.toNat))

/-! ### The Girth (R432 to R434) -/

/-- The idle units of a core: 1 the vector datapath, while no bundle issues; 2 the matrix slices, while nothing accumulates (R433). -/
def State.idleUnits (s : State) (core : Nat) : Nat :=
  let vector := match (s.core core).bundle with
    | none => true
    | some b => b.stalled
  Bool.bit vector + 2 * Bool.bit (!s.accumulates core)

/-- Filler runs on some core of a die (R432). -/
def State.girthActive (s : State) (die : Nat) : Bool := s.filler.any (fun e => e.1 / 240 == die && e.2 != 0)

/-- Filler energy on a core, charged to its partition if a team of the owner was the last to retire from it or leave it; whole millijoules
show (R434). -/
def State.chargeFiller (s : State) (core uj : Nat) : State :=
  if NatSet.has s.coresLeft core then
    let p := partOf (clusterOf core)
    let e := (s.partition p).energyFrac + uj
    (s.updPartition p (fun q => { q with energyFrac := e % 1000 })).count p 14 (e / 1000)
  else s

/-- A core may run filler: a unit of it is idle, it is not quarantined, and no alarm of it is in force. -/
def State.mayFill (s : State) (core : Nat) : Bool := s.idleUnits core != 0 && !(s.core core).quar && !(s.core core).alarm

/-- GIRTH_FILLER: filler runs in the idle units of a core of a die, or ends there, and has used some energy. -/
def execGirthFiller (die core : Nat) (running : Bool) (microjoules : Nat) (s : State) : Host.Outcome State Fault Refusal :=
  if core / 240 ≠ die ∨ 7 < die ∨ (running = true ∧ s.mayFill core = false) then s.idle
  else .next ({ s with filler := s.filler.put 0 core (if running then s.idleUnits core else 0) }.chargeFiller core microjoules)

end Sys2Proof.Machine
end

