-- ==== Sys2Proof/Machine/Debug.lean ====
section
/-! DEFINITION. The debug port (R404, R405); rows DBG_READ, DBG_WRITE and DBG_TILE_WRITE_DONE. -/

namespace Sys2Proof.Machine

/-- RESULT codes. -/
def dbgOk : Nat := 0
def dbgBusy : Nat := 1
def dbgBadAddr : Nat := 2
def dbgNotStopped : Nat := 3

/-- Where DBGADDR points: a word of a team's image, in the window or where the image was moved. -/
def State.dbgTarget (s : State) (tn : Nat) : Option (Nat × Nat) :=
  let va := (s.tenant tn).dbgAddr.toNat
  (s.tenantTeams tn).findSome? (fun t =>
    let a := s.imageVa t
    if !(s.team t).retired && (s.team t).swapped.isNone && decide (a ≤ va ∧ va < a + (s.lpbOf t).imageSize) then some (t, va - a) else none)

/-- The lane and group an image word belongs to: a lane word, or a group word. -/
def Area.lane? : Area → Option Nat
  | .lane l _ => some l
  | .latch l _ => some l
  | .vector l _ => some l
  | .frame l _ _ => some l
  | _ => none

/-- A word the debugger may not reach: of a thread that is not stopped, or of a group with none stopped. -/
def State.notStopped (s : State) (t off : Nat) : Bool :=
  match (s.lpbOf t).place off with
  | none => false
  | some (g, a) =>
    !(s.team t).suspended && (match a.lane? with
      | some l => (s.thread t g l).status != .stopped
      | none => !(List.range (s.lpbOf t).w).any (fun l => (s.thread t g l).status == .stopped))

/-- A register word with a pending write-back. -/
def State.wordPending (s : State) (t off : Nat) : Bool :=
  match (s.lpbOf t).place off with
  | some (g, .vector l n) => (s.pendingRegs t g l).contains (false, n)
  | some (g, .uniform n) => (s.pendingRegs t g (s.lpbOf t).w).contains (true, n)
  | _ => false

/-- A tile word whose tile has F set. -/
def State.tileBusy (s : State) (t off : Nat) : Bool :=
  match (s.lpbOf t).place off with
  | some (g, .tile a _) => ((s.group t g).tiles.get {} a).f
  | _ => false

/-- A command's result. -/
def State.dbgResult (s : State) (tn r : Nat) (data : Word) (pois : Bool) : State :=
  s.updTenant tn (fun x => { x with dbgResult := r, dbgData := data, dbgPois := pois, dbgPend := false })

/-- A command that returns nothing. -/
def State.dbgFail (s : State) (tn r : Nat) : State :=
  s.updTenant tn (fun x => { x with dbgResult := r, dbgPois := false, dbgPend := false })

/-- The state with the registers of a group of a moved team as the image in memory holds them. -/
def State.filled (s : State) (t g : Nat) : State :=
  match (s.team t).moved with
  | none => s
  | some a =>
    let b := s.lpbOf t
    s.updGroup t g (fun x => Group.load b (fun o => s.homeWord (s.team t).tenant (a.toNat + b.groupOff g + o)) x)

/-- A word of a team's image as the debugger reads it: of a moved image, the memory it was moved to, with the poison its map gives a
register word. -/
def State.dbgWord (s : State) (t off : Nat) : Word × Bool :=
  match (s.team t).moved with
  | none => s.imageWord t off
  | some a =>
    let w := s.homeWord (s.team t).tenant (a.toNat + off)
    (w.1, w.2 || (match (s.lpbOf t).place off with
      | some (g, _) => ((s.filled t g).imageWord t off).2
      | none => false))

/-- DBG_READ: a write of DBGCMD with GO = 1 and OP = 1. The image is completed first. -/
def execDbgRead (tenant : Nat) (force : Bool) (s : State) : Host.Outcome State Fault Refusal :=
  if (s.tenant tenant).dbgPend then .next s
  else
    let s := s.updTenant tenant (fun x => { x with dbgOp := 1, dbgForce := force, dbgGo := true })
    match s.dbgTarget tenant with
    | none => .next (s.dbgFail tenant dbgBadAddr)
    | some (t, off) =>
      if s.notStopped t off then .next (s.dbgFail tenant dbgNotStopped)
      else
        let s := s.updTeam t (fun x => { x with complete := x.suspended })
        if !force && (s.wordPending t off || s.tileBusy t off) then .next (s.dbgFail tenant dbgBusy)
        else
          let (w, bad) := s.dbgWord t off
          .next (s.dbgResult tenant dbgOk (if bad then 0 else w) bad)

/-- The write-backs of one register word are cancelled; whatever they belong to still completes. -/
def State.cancelWrite (s : State) (t g : Nat) (lane : Option Nat) (n : Nat) : State :=
  { s with
    flights := s.flights.map (fun f =>
      if f.team == t && f.group == g && (match lane with
        | some l => !f.uniform && f.lane == l
        | none => f.uniform) then { f with cancel := n :: f.cancel } else f)
    awl := s.awl.map (fun q => if q.team == t then
      { q with lanes := q.lanes.map (fun a => if a.group == g && lane == some a.lane then { a with cancel := n :: a.cancel } else a) } else q) }

/-! ### Words that mirror what the units hold (log 48) -/

/-- A word of the team header. What the launch or the distributor alone determines stays. -/
def State.putHeader (s : State) (t off : Nat) (w : Word) : State :=
  let p := s.lpbOf t
  if off < 8 then s.updTeam t (fun x => { x with index := (withHalf (BitVec.ofNat 64 x.index) (off == 4) w).toNat })
  else if off = 0x0C then s.updTeam t (fun x => { x with complete := w.getLsbD 1, sbSaved := w.getLsbD 2 })
  else if p.det && (off = 0x50 || off = 0x54) then s.updTeam t (fun x => { x with tdigest := withHalf x.tdigest (off == 0x54) w })
  else if p.seam && off = 0x8C then s.updTeam t (fun x => { x with pointDone := w.getLsbD 0 })
  else if p.seam && 0xA0 ≤ off && off < 0xB0 then
    (s.groupsOf t).foldl (fun s g =>
      if g / 32 = (off - 0xA0) / 4 then s.updGroup t g (fun x => { x with done := w.getLsbD (g % 32) }) else s) s
  else s

/-- A word of a live reservation's record; its place stays. -/
def Resv.putWord (r : Resv) (k : Nat) (w : Word) : Resv :=
  if !r.live then r
  else match k with
    | 0 => { r with r0 := w }
    | 1 => { r with r1 := w }
    | 2 => { r with r2 := w }
    | 3 => { r with r3 := w }
    | _ => r

/-- A word of a group header: counters, g, V and D of the tiles, rejoin masks. -/
def Group.putHeader (x : Group) (p : Lpb) (off : Nat) (w : Word) : Group :=
  if off = 0x18 then { x with counters := (List.range 4).foldl (fun m k => m.put 0 k (bitsOf w.toNat (6 * k + 5) (6 * k))) x.counters }
  else if off = 0x20 || off = 0x24 then { x with g := withHalf x.g (off == 0x24) w }
  else if off = 0x28 then
    { x with tiles := (List.range p.nt).foldl (fun m n => Sparse.upd {} m n (fun a => { a with v := w.getLsbD n })) x.tiles }
  else if off = 0x2C then
    { x with tiles := (List.range p.nt).foldl (fun m n => Sparse.upd {} m n (fun a => { a with d := w.getLsbD n })) x.tiles }
  else if 0x40 ≤ off && off < 0x80 then
    let n := (off - 0x40) / 8
    { x with joins := x.joins.put 0 n (withHalf (x.joins.get 0 n) (off % 8 == 4) w &&& BitVec.ofNat 64 (2 ^ p.w - 1)) }
  else x

/-- Thirty-two bits of a set, from bit n on. -/
def NatSet.putWord (m : NatSet) (n : Nat) (w : Word) : NatSet := (List.range 32).foldl (fun m i => NatSet.set m (n + i) (w.getLsbD i)) m

/-- A bit of a lane's map for each of the lanes from k on. -/
def Group.putLanes (x : Group) (p : Lpb) (k : Nat) (w : Word) (f : Thread → Bool → Thread) : Group :=
  { x with threads := (List.range 32).foldl (fun ts i =>
      if k + i < p.w then Sparse.upd {} ts (k + i) (fun th => f th (w.getLsbD i)) else ts) x.threads }

/-- The latches an image shows, changed. -/
def Thread.onImageLatches (th : Thread) (f : Latches → Latches) : Thread :=
  if th.status == .handler || th.status == .stopped then { th with ySaved := f th.ySaved } else { th with y := f th.y }

/-- A word of the poison map. -/
def Group.putMap (x : Group) (p : Lpb) (off : Nat) (w : Word) : Group :=
  if off < 64 then { x with sPoison := NatSet.putWord x.sPoison (8 * off) w }
  else if off < 96 then
    x.putLanes p (32 * (off / 4 % 2)) w (fun th b => th.onImageLatches (fun y => { y with poison := NatSet.set y.poison ((off - 64) / 8) b }))
  else if off < 96 + 8 * p.nv then
    x.putLanes p (32 * (off / 4 % 2)) w (fun th b => { th with vPoison := NatSet.set th.vPoison ((off - 96) / 8) b })
  else
    let o := off - 96 - 8 * p.nv
    { x with tiles := Sparse.upd {} x.tiles (o / 64) (fun a =>
        { a with val := { a.val with poison := NatSet.putWord a.val.poison (8 * (o % 64)) w } }) }

/-- A word of a staging entry: its address, its operation, or its data, whose poison is cleared. -/
def Stage.putWord (e : Stage) (off : Nat) (w : Word) : Stage :=
  if off < 8 then { e with va := (withHalf (BitVec.ofNat 64 e.va) (off == 4) w).toNat % 2 ^ 52 }
  else if off = 8 then { e with red := w.getLsbD 0, aop := bitsOf w.toNat 4 1, atype := bitsOf w.toNat 7 5 }
  else if off = 12 then e
  else
    { e with
      data := (e.data.take (off - 16) ++ leBytes 4 w.toNat ++ e.data.drop (off - 12)).take e.data.length
      poison := NatSet.set e.poison ((off - 16) / 8) false }

/-- The staging entries with a word of the buffer replaced. -/
def putStaging : List Stage → Nat → Word → List Stage
  | [], _, _ => []
  | e :: r, off, w => if off < e.image.length then e.putWord off w :: r else e :: putStaging r (off - e.image.length) w

/-- A word of the Cinch area: a thread's CRC and record count, or a staging entry. -/
def State.putCinch (s : State) (t off : Nat) (w : Word) : State :=
  let p := s.lpbOf t
  if off < 16 * p.t then
    s.updThread t (off / 16 / p.w) (off / 16 % p.w) (fun th =>
      match off % 16 / 4 with
      | 0 => { th with crc := withHalf th.crc false w }
      | 1 => { th with crc := withHalf th.crc true w }
      | 2 => { th with records := w.toNat }
      | _ => th)
  else if off < p.tableSize then s
  else s.updTeam t (fun x => { x with staging := putStaging x.staging (off - p.tableSize) w })

/-- A word outside the register areas. -/
def State.putFixed (s : State) (t off : Nat) (w : Word) : State :=
  let p := s.lpbOf t
  if off < 0x100 then s.putHeader t off w
  else if off < 0x300 then
    s.updTeam t (fun x => { x with resv := Sparse.upd {} x.resv ((off - 0x100) / 32 + 1) (fun r => r.putWord (off % 32 / 4) w) })
  else if off < p.groupOff 0 then
    s.updTeam t (fun x => { x with sbSave :=
      ⟨x.sbSave.bytes.putList 0 (off - 0x300) (leBytes 4 w.toNat), NatSet.set x.sbSave.poison ((off - 0x300) / 8) false⟩ })
  else if off < p.imageSize then
    let g := (off - p.groupOff 0) / p.gimgsz
    let o := (off - p.groupOff 0) % p.gimgsz
    if o < 256 then s.updGroup t g (fun x => x.putHeader p o w)
    else if p.mapOff ≤ o ∧ o < p.mapOff + 96 + 8 * p.nv + 64 * p.nt then s.updGroup t g (fun x => x.putMap p (o - p.mapOff) w)
    else s
  else s.putCinch t (off - p.imageSize) w

/-! ### Writing a word -/

/-- A stopped thread resumes as TRET would: its target is checked, and a thread whose target fails takes the nested trap (R402). -/
def State.dbgResume (s : State) (t g l : Nat) : State :=
  let x := s.team t
  let th := s.thread t g l
  match s.target x.cluster x.tenant x.launch th.trap.trpc with
  | (.ok (), s) => s.updThread t g l (fun th => th.leaveTrap (s.lpbOf t).nv (s.core (s.group t g).core).clk.toNat)
  | (.error (.walkPoison, _), s) => s.walkFault x.tenant
  | (.error (.trap k, _), s) =>
    let s := if k == .pageFault then s.notice (.pageFault t g l th.trap.trpc) else s
    (s.updThread t g l (fun th => { th with trap := { th.trap with nest := true, dbg := true } })).notice (.trapNested t g l k.code th.pc)

/-- A write of STATE: 1 resumes a stopped thread. -/
def State.dbgState (s : State) (t g l : Nat) (w : Word) : State × Nat :=
  if w ≠ 1 then (s, dbgBadAddr)
  else if (s.thread t g l).status ≠ .stopped then (s, dbgNotStopped)
  else (s.dbgResume t g l, dbgOk)

/-- A word of a group is written, and its poison is cleared: its write-back is cancelled first. A value that a field of a lane's state
cannot hold is not written. -/
def State.dbgArea (s : State) (t off g : Nat) (w : Word) : Area → State × Nat
  | .lane l 12 => s.dbgState t g l w
  | .lane l o => if laneHolds (s.lpbOf t) o w then (s.putArea t g (.lane l o) w false, dbgOk) else (s, dbgBadAddr)
  | .vector l n => ((s.cancelWrite t g (some l) n).putArea t g (.vector l n) w false, dbgOk)
  | .uniform n => ((s.cancelWrite t g none n).putArea t g (.uniform n) w false, dbgOk)
  | .tile a n => (s.putArea t g (.tile a n) w true, dbgOk)
  | .fixed => (s.putFixed t off w, dbgOk)
  | a => (s.putArea t g a w false, dbgOk)

/-- The bytes of a group's image. -/
def State.groupBytes (s : State) (t g : Nat) : List (Byte × Bool) :=
  let b := s.lpbOf t
  ((List.range (b.gimgsz / 4)).map (fun i =>
    let off := b.groupOff g + 4 * i
    (leBytes 4 (s.imageWord t off).1.toNat).map (fun v => (v, false)))).flatten

/-- The word is written. In a moved image the group is read from memory and stored there again, so that its poison map follows. -/
def State.dbgPut (s : State) (tn t off : Nat) (w : Word) : State :=
  match (s.lpbOf t).place off, (s.team t).moved with
  | some (g, a), none => let r := s.dbgArea t off g w a; r.1.dbgFail tn r.2
  | none, none => (s.putFixed t off w).dbgFail tn dbgOk
  | none, some m => (s.writeVaPart (s.engineCluster tn) tn (m.toNat + off) (leBytes 4 w.toNat)).dbgFail tn dbgOk
  | some (g, a), some m =>
    let r := (s.filled t g).dbgArea t off g w a
    (if r.2 = dbgOk then
      r.1.writeVaP (r.1.engineCluster tn) tn (m.toNat + (s.lpbOf t).groupOff g) (r.1.groupBytes t g)
    else s).dbgFail tn r.2

/-- DBG_WRITE: a write of DBGCMD with GO = 1 and OP = 2. A tile word waits until F clears. -/
def execDbgWrite (tenant : Nat) (force : Bool) (s : State) : Host.Outcome State Fault Refusal :=
  if (s.tenant tenant).dbgPend then .next s
  else
    let s := s.updTenant tenant (fun x => { x with dbgOp := 2, dbgForce := force, dbgGo := true })
    match s.dbgTarget tenant with
    | none => .next (s.dbgFail tenant dbgBadAddr)
    | some (t, off) =>
      if s.notStopped t off then .next (s.dbgFail tenant dbgNotStopped)
      else
        let s := s.updTeam t (fun x => { x with complete := x.suspended })
        if s.tileBusy t off then .next (s.updTenant tenant (fun x => { x with dbgPend := true }))
        else .next (s.dbgPut tenant t off (s.tenant tenant).dbgData)

/-- DBG_TILE_WRITE_DONE: F has cleared, or the team is gone. -/
def execDbgTileWriteDone (tenant : Nat) (s : State) : Host.Outcome State Fault Refusal :=
  if !(s.tenant tenant).dbgPend then s.idle
  else match s.dbgTarget tenant with
    | none => .next (s.dbgFail tenant dbgBadAddr)
    | some (t, off) =>
      if s.tileBusy t off then s.idle else .next (s.dbgPut tenant t off (s.tenant tenant).dbgData)

end Sys2Proof.Machine
end

