-- ==== Sys2Proof/Machine/Crypto.lean ====
section
/-! DEFINITION. The algorithms that R443 and R444 name and their standards give (log 10): SHA-384 and SHA-512 (FIPS 180-4), SHAKE
(FIPS 202), the verification of Ed25519 (RFC 8032) and of ML-DSA-65 (FIPS 204). -/

namespace Sys2Proof.Machine

/-! ### SHA-384 and SHA-512 -/

/-- A number from its bytes, the most significant first. -/
def beNat (bs : List Byte) : Nat := bs.foldl (fun n b => 256 * n + b.toNat) 0

def beBytes (len n : Nat) : List Byte := (leBytes len n).reverse

/-- The whole part of the k-th root of n, below 2^72. -/
def rootOf (k n : Nat) : Nat := (List.range 72).reverse.foldl (fun r b => if (r + 2 ^ b) ^ k ≤ n then r + 2 ^ b else r) 0

/-- The first 80 primes. -/
def shaPrimes : List Nat := (List.range 410).filter (fun n => decide (2 ≤ n) && (List.range n).all (fun d => decide (d < 2) || n % d != 0))

/-- The first 64 bits of the fraction of a root. -/
def rootBits (k p : Nat) : Dword := BitVec.ofNat 64 (rootOf k (p * 2 ^ (64 * k)))

def shaRound : List Dword := shaPrimes.map (rootBits 3)
def sha512Start : List Dword := (shaPrimes.take 8).map (rootBits 2)
def sha384Start : List Dword := ((shaPrimes.drop 8).take 8).map (rootBits 2)

/-- The padded message. -/
def shaPad (bs : List Byte) : List Byte :=
  bs ++ [0x80] ++ List.replicate ((239 - bs.length % 128) % 128) 0 ++ beBytes 16 (8 * bs.length)

/-- The message schedule, from the words there are. -/
def shaSchedule : Nat → List Dword → List Dword
  | 0, w => w
  | n + 1, w =>
    let g (i : Nat) : Dword := w.getD (w.length - i) 0
    let s0 := (g 15).rotateRight 1 ^^^ (g 15).rotateRight 8 ^^^ (g 15) >>> 7
    let s1 := (g 2).rotateRight 19 ^^^ (g 2).rotateRight 61 ^^^ (g 2) >>> 6
    shaSchedule n (w ++ [s1 + g 7 + s0 + g 16])

/-- One round on the eight working words. -/
def shaStep (v : List Dword) (kw : Dword × Dword) : List Dword :=
  let g (i : Nat) : Dword := v.getD i 0
  let s1 := (g 4).rotateRight 14 ^^^ (g 4).rotateRight 18 ^^^ (g 4).rotateRight 41
  let t1 := g 7 + s1 + ((g 4 &&& g 5) ^^^ (~~~(g 4) &&& g 6)) + kw.1 + kw.2
  let s0 := (g 0).rotateRight 28 ^^^ (g 0).rotateRight 34 ^^^ (g 0).rotateRight 39
  let t2 := s0 + ((g 0 &&& g 1) ^^^ (g 0 &&& g 2) ^^^ (g 1 &&& g 2))
  [t1 + t2, g 0, g 1, g 2, g 3 + t1, g 4, g 5, g 6]

def shaBlock (h : List Dword) (b : List Byte) : List Dword :=
  let w := shaSchedule 64 ((List.range 16).map (fun i => BitVec.ofNat 64 (beNat ((b.drop (8 * i)).take 8))))
  List.zipWith (· + ·) h ((shaRound.zip w).foldl shaStep h)

/-- The chaining words after a message. -/
def shaFrom (start : List Dword) (bs : List Byte) : List Byte :=
  let m := shaPad bs
  let h := (List.range (m.length / 128)).foldl (fun h i => shaBlock h ((m.drop (128 * i)).take 128)) start
  (h.map (fun w => beBytes 8 w.toNat)).flatten

def sha512 (bs : List Byte) : List Byte := shaFrom sha512Start bs

/-- SHA-384 (R443, R444). -/
def sha384 (bs : List Byte) : List Byte := (shaFrom sha384Start bs).take 48

/-! ### Ed25519 -/

/-- a^n modulo m, over the bits of n given. -/
def powMod (m a n : Nat) : Nat → Nat
  | 0 => 1 % m
  | k + 1 =>
    let r := powMod m a (n / 2) k
    if n % 2 = 1 then r * r % m * a % m else r * r % m

def edP : Nat := 2 ^ 255 - 19
def edQ : Nat := 2 ^ 252 + 27742317777372353535851937790883648493
def edInv (x : Nat) : Nat := powMod edP x (edP - 2) 256
def edD : Nat := (edP - 121665) * edInv 121666 % edP

/-- A point in extended coordinates. -/
structure EdPoint where
  x : Nat
  y : Nat
  z : Nat
  t : Nat
  deriving DecidableEq, Repr

def edSub (a b : Nat) : Nat := (a + edP - b) % edP

def EdPoint.add (p q : EdPoint) : EdPoint :=
  let a := edSub p.y p.x * edSub q.y q.x % edP
  let b := (p.y + p.x) * (q.y + q.x) % edP
  let c := 2 * p.t * q.t % edP * edD % edP
  let d := 2 * p.z * q.z % edP
  let e := edSub b a
  let f := edSub d c
  let g := (d + c) % edP
  let h := (b + a) % edP
  ⟨e * f % edP, g * h % edP, f * g % edP, e * h % edP⟩

/-- n times a point, over the bits of n given. -/
def EdPoint.times (p : EdPoint) (n : Nat) : Nat → EdPoint
  | 0 => ⟨0, 1, 1, 0⟩
  | k + 1 =>
    let r := p.times (n / 2) k
    if n % 2 = 1 then (r.add r).add p else r.add r

def EdPoint.same (p q : EdPoint) : Bool := p.x * q.z % edP == q.x * p.z % edP && p.y * q.z % edP == q.y * p.z % edP

/-- The x of a y and a sign, if the point is on the curve. -/
def edX (y sign : Nat) : Option Nat :=
  let x2 := (y * y + edP - 1) % edP * edInv ((edD * (y * y % edP) + 1) % edP) % edP
  if x2 = 0 then (if sign = 1 then none else some 0)
  else
    let r := powMod edP x2 ((edP + 3) / 8) 256
    let r := if r * r % edP = x2 then r else r * powMod edP 2 ((edP - 1) / 4) 256 % edP
    if r * r % edP ≠ x2 then none else some (if r % 2 = sign then r else edP - r)

/-- A point from its 32 bytes. -/
def edDecode (bs : List Byte) : Option EdPoint :=
  let n := leNat bs
  let y := n % 2 ^ 255
  if edP ≤ y then none else (edX y (n / 2 ^ 255)).map (fun x => ⟨x, y, 1, x * y % edP⟩)

def edBase : EdPoint :=
  let y := 4 * edInv 5 % edP
  let x := (edX y 0).getD 0
  ⟨x, y, 1, x * y % edP⟩

/-- Pure Ed25519 verification (RFC 8032, 5.1.7): key, message, signature. -/
def ed25519 (key msg sig : List Byte) : Bool :=
  match edDecode key, edDecode (sig.take 32) with
  | some a, some r =>
    let s := leNat (sig.drop 32)
    let k := leNat (sha512 (sig.take 32 ++ key ++ msg)) % edQ
    key.length == 32 && sig.length == 64 && decide (s < edQ) &&
      ((edBase.times s 256).times 8 4).same ((r.add (a.times k 256)).times 8 4)
  | _, _ => false

/-! ### SHAKE -/

def keccakRound : List Dword :=
  [0x0000000000000001, 0x0000000000008082, 0x800000000000808A, 0x8000000080008000, 0x000000000000808B, 0x0000000080000001,
   0x8000000080008081, 0x8000000000008009, 0x000000000000008A, 0x0000000000000088, 0x0000000080008009, 0x000000008000000A,
   0x000000008000808B, 0x800000000000008B, 0x8000000000008089, 0x8000000000008003, 0x8000000000008002, 0x8000000000000080,
   0x000000000000800A, 0x800000008000000A, 0x8000000080008081, 0x8000000000008080, 0x0000000080000001, 0x8000000080008008]

def keccakTurn : List Nat := [0, 1, 62, 28, 27, 36, 44, 6, 55, 20, 3, 10, 43, 25, 39, 41, 45, 15, 21, 8, 18, 2, 61, 56, 14]

/-- One round of Keccak-f on 25 lanes, lane x + 5·y. -/
def keccakStep (a : List Dword) (rc : Dword) : List Dword :=
  let g (l : List Dword) (x y : Nat) : Dword := l.getD (x % 5 + 5 * (y % 5)) 0
  let c := (List.range 5).map (fun x => g a x 0 ^^^ g a x 1 ^^^ g a x 2 ^^^ g a x 3 ^^^ g a x 4)
  let a := (List.range 25).map (fun i => a.getD i 0 ^^^ c.getD ((i + 4) % 5) 0 ^^^ (c.getD ((i % 5 + 1) % 5) 0).rotateLeft 1)
  let b := (List.range 25).map (fun i =>
    let x := i % 5
    let y := i / 5
    let j := (x + 3 * y) % 5 + 5 * x
    (a.getD j 0).rotateLeft (keccakTurn.getD j 0))
  let r := (List.range 25).map (fun i => g b i (i / 5) ^^^ (~~~(g b (i % 5 + 1) (i / 5)) &&& g b (i % 5 + 2) (i / 5)))
  r.set 0 (r.getD 0 0 ^^^ rc)

def keccak (a : List Dword) : List Dword := keccakRound.foldl keccakStep a

/-- A block of rate bytes taken in. -/
def absorb (a : List Dword) (b : List Byte) : List Dword :=
  keccak ((List.range 25).map (fun i => a.getD i 0 ^^^ BitVec.ofNat 64 (leNat ((b.drop (8 * i)).take 8))))

/-- The state that has taken in a message, ready to give bytes. -/
def shakeState (rate : Nat) (bs : List Byte) : List Dword :=
  let n := rate - bs.length % rate
  let m := bs ++ (if n = 1 then [0x9F] else [0x1F] ++ List.replicate (n - 2) 0 ++ [0x80])
  (List.range (m.length / rate)).foldl (fun a i => absorb a ((m.drop (rate * i)).take rate)) (List.replicate 25 0)

/-- The bytes of one block that a state gives. -/
def squeeze (rate : Nat) (a : List Dword) : List Byte := ((a.map (fun w => leBytes 8 w.toNat)).flatten).take rate

/-- The first blocks of SHAKE's output. -/
def shakeBlocks (rate : Nat) : Nat → List Dword → List Byte
  | 0, _ => []
  | n + 1, a => squeeze rate a ++ shakeBlocks rate n (keccak a)

/-- SHAKE256's first n bytes, H of FIPS 204. -/
def shake256 (bs : List Byte) (n : Nat) : List Byte := (shakeBlocks 136 ((n + 135) / 136) (shakeState 136 bs)).take n

/-! ### ML-DSA-65 -/

def dsaQ : Nat := 8380417

/-- A polynomial: 256 coefficients modulo q. -/
abbrev Poly := List Nat

def polyAdd (a b : Poly) : Poly := List.zipWith (fun x y => (x + y) % dsaQ) a b
def polySub (a b : Poly) : Poly := List.zipWith (fun x y => (x + dsaQ - y) % dsaQ) a b
def polyMul (a b : Poly) : Poly := List.zipWith (fun x y => x * y % dsaQ) a b

/-- The power of the root 1753 whose exponent is the bit reversal of k. -/
def dsaZeta (k : Nat) : Nat := powMod dsaQ 1753 ((List.range 8).foldl (fun r i => r + (if k.testBit i then 2 ^ (7 - i) else 0)) 0) 8

/-- One layer of the transform: halves of the given length, with the roots from k on. -/
def nttLayer (len k : Nat) (a : Poly) : Poly :=
  ((List.range (128 / len)).map (fun j =>
    let lo := (a.drop (2 * len * j)).take len
    let hi := ((a.drop (2 * len * j + len)).take len).map (fun x => dsaZeta (k + j) * x % dsaQ)
    polyAdd lo hi ++ polySub lo hi)).flatten

def ntt (a : Poly) : Poly := [(128, 1), (64, 2), (32, 4), (16, 8), (8, 16), (4, 32), (2, 64), (1, 128)].foldl (fun a l => nttLayer l.1 l.2 a) a

/-- One layer of the inverse transform. -/
def invLayer (len k : Nat) (a : Poly) : Poly :=
  ((List.range (128 / len)).map (fun j =>
    let lo := (a.drop (2 * len * j)).take len
    let hi := (a.drop (2 * len * j + len)).take len
    polyAdd lo hi ++ (polySub hi lo).map (fun x => dsaZeta (k - j) * x % dsaQ))).flatten

def invNtt (a : Poly) : Poly :=
  ([(1, 255), (2, 127), (4, 63), (8, 31), (16, 15), (32, 7), (64, 3), (128, 1)].foldl (fun a l => invLayer l.1 l.2 a) a).map
    (fun x => x * 8347681 % dsaQ)

/-- Coefficients below q from bytes, three at a time. -/
def rejected : List Byte → List Nat
  | a :: b :: c :: r =>
    let n := a.toNat + 256 * b.toNat + 65536 * (c.toNat % 128)
    if n < dsaQ then n :: rejected r else rejected r
  | _ => []

/-- 256 coefficients from a stream, block by block. -/
def sampleNtt : Nat → List Dword → List Nat → Poly
  | 0, _, acc => acc.take 256
  | n + 1, a, acc => if 256 ≤ acc.length then acc.take 256 else sampleNtt n (keccak a) (acc ++ rejected (squeeze 168 a))

/-- The entry of the matrix in row r and column s. -/
def expandA (rho : List Byte) (r s : Nat) : Poly := sampleNtt 4096 (shakeState 168 (rho ++ [BitVec.ofNat 8 s, BitVec.ofNat 8 r])) []

/-- A ball sample: 49 coefficients of 1 or −1. From position i on, with the signs left and the bytes of the stream. -/
def ballFrom (signs : Nat) : Nat → List Byte → Poly → Poly
  | _, [], c => c
  | i, b :: r, c =>
    if 256 ≤ i then c
    else if i < b.toNat then ballFrom signs i r c
    else
      let v := if signs.testBit (i - 207) then dsaQ - 1 else 1
      ballFrom signs (i + 1) r ((c.set i (c.getD b.toNat 0)).set b.toNat v)

def sampleInBall (seed : List Byte) : Poly :=
  let s := shake256 seed (8 + 136 * 64)
  ballFrom (leNat (s.take 8)) 207 (s.drop 8) (List.replicate 256 0)

/-- Values of w bits each, packed. -/
def unpackBits (w count : Nat) (bs : List Byte) : List Nat :=
  let n := leNat bs
  (List.range count).map (fun i => n / 2 ^ (w * i) % 2 ^ w)

/-- The hint: for each of six polynomials, the places that stand at 1. None where it is malformed. -/
def unpackHint (bs : List Byte) : Option (List (List Nat)) :=
  let y (i : Nat) : Nat := (bs.getD i 0).toNat
  let r := (List.range 6).foldl (fun (r : Option (Nat × List (List Nat))) i =>
    match r with
    | none => none
    | some (first, acc) =>
      let last := y (55 + i)
      let ps := ((List.range 55).map y).drop first |>.take (last - first)
      if last < first ∨ 55 < last ∨ (ps.zip ps.tail).any (fun q => decide (q.2 ≤ q.1)) then none else some (last, acc ++ [ps])) (some (0, []))
  match r with
  | none => none
  | some (last, acc) => if (((List.range 55).map y).drop last).any (· != 0) then none else some acc

/-- γ2. -/
def dsaG2 : Nat := (dsaQ - 1) / 32

/-- High part and low part of a coefficient. -/
def decompose (r : Nat) : Nat × Int :=
  let m := r % (2 * dsaG2)
  let r0 : Int := if m ≤ dsaG2 then m else (m : Int) - (2 * dsaG2 : Nat)
  if (r : Int) - r0 = (dsaQ : Int) - 1 then (0, r0 - 1) else ((((r : Int) - r0) / (2 * dsaG2 : Nat)).toNat, r0)

def useHint (h : Bool) (r : Nat) : Nat :=
  let d := decompose r
  if h then (if 0 < d.2 then (d.1 + 1) % 16 else (d.1 + 15) % 16) else d.1

/-- Pairs of 4-bit values in bytes. -/
def packNibbles : List Nat → List Byte
  | a :: b :: r => BitVec.ofNat 8 (a + 16 * b) :: packNibbles r
  | _ => []

/-- ML-DSA-65 verification with an empty context (FIPS 204): key, message, signature. -/
def mlDsa65 (key msg sig : List Byte) : Bool :=
  let rho := key.take 32
  let t1 := (List.range 6).map (fun i => unpackBits 10 256 ((key.drop (32 + 320 * i)).take 320))
  let c0 := sig.take 48
  let raw := (List.range 5).map (fun i => unpackBits 20 256 ((sig.drop (48 + 640 * i)).take 640))
  let z := raw.map (fun p => p.map (fun v => (2 ^ 19 + dsaQ - v) % dsaQ))
  match unpackHint (sig.drop 3248) with
  | none => false
  | some hint =>
    let mu := shake256 (shake256 key 64 ++ [0, 0] ++ msg) 64
    let c := ntt (sampleInBall c0)
    let zs := z.map ntt
    let w1 := (List.range 6).map (fun r =>
      let az := (List.range 5).foldl (fun acc s => polyAdd acc (polyMul (expandA rho r s) (zs.getD s []))) (List.replicate 256 0)
      let ct := polyMul c (ntt ((t1.getD r []).map (fun x => x * 2 ^ 13 % dsaQ)))
      let w := invNtt (polySub az ct)
      (List.range 256).map (fun i => useHint ((hint.getD r []).contains i) (w.getD i 0)))
    key.length == 1952 && sig.length == 3309 &&
      raw.all (fun p => p.all (fun v => decide ((2 ^ 19 : Int) - v < 2 ^ 19 - 196 ∧ -(2 ^ 19 - 196 : Int) < 2 ^ 19 - v))) &&
      shake256 (mu ++ (w1.map packNibbles).flatten) 48 == c0

end Sys2Proof.Machine
end

