-- ==== Sys2Proof/Machine/Links.lean ====
section
/-! DEFINITION. The Renaz link, the host's writes, boot, management and resets (spec 24, R436 to R445); rows RENAZ_PORT_DOWN,
RENAZ_INBOUND_ACCESS, XRED_CONTRIBUTION, INBOUND_HOST_WRITE, PF_RESET, POWER_ON, POWER_LOSS, NETWORK_BOOT, REDFISH_REQUEST and the
SPDM requests. -/

namespace Sys2Proof.Machine

/-! ### Inbound windows (R438) -/

def State.window (s : State) (n : Nat) : Window := s.windows.get {} n

/-- A window admits an access of len bytes at an HBM physical address. -/
def Window.admits (w : Window) (sender : Nat) (right : Bool) (addr len : Nat) : Bool :=
  w.en && right && (w.src == 0xFFF || w.src == sender) &&
    decide (w.base * 2 ^ 30 ≤ addr ∧ addr + len ≤ (w.base + w.size) * 2 ^ 30 ∧ addr + len ≤ hbmTop)

/-- The first window that admits an access. -/
def State.admitting (s : State) (sender : Nat) (right : Window → Bool) (addr len : Nat) : Option Nat :=
  (List.range 16).find? (fun n => (s.window n).admits sender (right (s.window n)) addr len)

/-- The right a kind of access needs. -/
def Window.right (w : Window) : PeerKind → Bool
  | .load => w.rd
  | .store => w.wr
  | .atomic => w.at_

/-- An indivisible operation of an Awl group for an inbound request: the old value and whether it was poisoned. A poisoned word is left
as it is (R58). -/
def State.inboundRmw (s : State) (part pa size : Nat) (f : Nat → Option Nat) : (Nat × Bool) × State :=
  let tn := (s.partition part).tenant
  let old := leNat (s.hbm.getList 0 pa size)
  let s := if (s.partsOf tn).isEmpty then s else s.dropTouched (s.ownerOf tn (.hbm pa false)) pa size
  if s.memBad (.hbm pa false) size then ((0, true), s)
  else match f old with
    | none => ((old, false), s)
    | some n => ((old, false), s.putHbm part pa (leBytes size n))

/-- An inbound atomic: operation 8 compares with the first half of the data and stores the second. -/
def inboundNew (aop atype size : Nat) (data : List Byte) (old : Nat) : Option Nat :=
  if aop = 8 then (if old = leNat (data.take size) then some (leNat ((data.drop size).take size)) else none)
  else some (atomNew aop atype old (leNat (data.take size)))

/-! ### Accesses in pieces (R439) -/

/-- The end of the range about an address that lies in the same windows throughout. -/
def windowEnd (addr : Nat) : Nat :=
  let g := (addr / 2 ^ 30 + 1) * 2 ^ 30
  if addr < hbmTop then min g hbmTop else g

/-- A place cut where the windows that hold it may change. -/
def cutPlace : Nat → Nat × Nat → List (Nat × Nat)
  | 0, _ => []
  | fuel + 1, (addr, len) =>
    if len = 0 then []
    else
      let n := min len (windowEnd addr - addr)
      (addr, n) :: cutPlace fuel (addr + n, len - n)

/-- Places cut so, each of which lies in a window whole or not at all. -/
def cutPlaces (places : List (Nat × Nat)) : List (Nat × Nat) := (places.map (fun q => cutPlace (q.2 / 2 ^ 30 + 3) q)).flatten

/-- The first byte that no window admits (R439). -/
def State.firstRejected (s : State) (sender : Nat) (right : Window → Bool) (places : List (Nat × Nat)) : Option Nat :=
  ((cutPlaces places).find? (fun q => (s.admitting sender right q.1 q.2).isNone)).map (·.1)

/-- Every place has been checked before the first byte is written: the bytes of a write go to the places in order, each logged for the owner
of its window (R412). -/
def State.putPlaces (s : State) (sender : Nat) : List (Nat × Nat) → List Byte → State
  | [], _ => s
  | (addr, len) :: r, data =>
    let w := s.window ((s.admitting sender (·.wr) addr len).getD 0)
    State.putPlaces (s.putHbm w.owner addr (data.take len)) sender r (data.drop len)

/-- The bytes at some places, and whether a unit of them is poisoned. -/
def State.getPlaces (s : State) (places : List (Nat × Nat)) : List Byte × Bool :=
  ((places.map (fun q => s.hbm.getList 0 q.1 q.2)).flatten, places.any (fun q => s.memBad (.hbm q.1 false) q.2))

/-- An XCPY: rejected whole at its first rejected byte, or done whole (R439). -/
def State.transfer (s : State) (sender : Nat) (write : Bool) (places : List (Nat × Nat)) (data : List Byte) : State :=
  match s.firstRejected sender (if write then (·.wr) else (·.rd)) places with
  | some a => s.notice (.peerReply sender false [] false (some a))
  | none =>
    if write then (s.putPlaces sender (cutPlaces places) data).notice (.peerReply sender true [] false none)
    else let r := s.getPlaces places; s.notice (.peerReply sender true r.1 r.2 none)

/-- An admitted access, and its answer, which says whether its data is poisoned (R58, log 53). -/
def State.inbound (s : State) (part sender : Nat) (kind : PeerKind) (addr len : Nat) (data : List Byte) (aop atype : Nat) : State :=
  match kind with
  | .load => s.notice (.peerReply sender true (s.hbm.getList 0 addr len) (s.memBad (.hbm addr false) len) none)
  | .store => (s.putHbm part addr data).notice (.peerReply sender true [] false none)
  | .atomic =>
    let r := s.inboundRmw part addr len (inboundNew aop atype len data)
    r.2.notice (.peerReply sender true (leBytes len r.1.1) r.1.2 none)

/-- A single access (R438). -/
def State.single (s : State) (sender : Nat) (kind : PeerKind) (addr len : Nat) (data : List Byte) (aop atype : Nat) : State :=
  match s.admitting sender (fun w => w.right kind) addr (if kind == .store then data.length else len) with
  | none => s.notice (.peerReply sender false [] false (some addr))
  | some w => s.inbound (s.window w).owner sender kind addr len data aop atype

/-- What an inbound access does. -/
def Inbound.access : Inbound → Option (State → State)
  | .peer q k a n d o t => some (fun s => s.single q k a n d o t)
  | .transfer q w ps d => some (fun s => s.transfer q w ps d)
  | _ => none

/-- RENAZ_INBOUND_ACCESS: the oldest one that waits is accepted or rejected. -/
def execRenazInboundAccess (s : State) : Host.Outcome State Fault Refusal :=
  match s.takeInbox Inbound.access with
  | none => s.idle
  | some (f, s) => .next (f s)

/-! ### XRED rounds (R440) -/

/-- The address at an offset into some places. -/
def placeAt : List (Nat × Nat) → Nat → Nat
  | [], _ => 0
  | (addr, len) :: r, off => if off < len then addr + off else placeAt r (off - len)

/-- A contribution's elements applied in address order. -/
def State.applyXred (s : State) (part : Nat) (c : Contribution) : State :=
  let size := atypeSize c.atype
  (List.range (c.data.length / size)).foldl (fun s e =>
    (s.inboundRmw part (placeAt c.places (e * size)) size (fun old =>
      some (atomNew c.aop c.atype old (leNat ((c.data.drop (e * size)).take size))))).2) s

def State.updWindow (s : State) (n : Nat) (f : Window → Window) : State := { s with windows := s.windows.upd {} n f }

/-- While the buffer holds the contribution whose turn it is, it is applied. -/
def State.drainRound : Nat → Nat → State → State
  | 0, _, s => s
  | fuel + 1, n, s =>
    let w := s.window n
    match w.buffer.find? (fun c => c.index == w.next) with
    | none => s
    | some c =>
      let s := s.applyXred w.owner c
      State.drainRound fuel n (s.updWindow n (fun w =>
        { w with next := (w.next + 1) % w.xrn, buffer := w.buffer.eraseP (fun c => c.index == w.next) }))

/-- A contribution that a window has admitted waits in its buffer until its turn. -/
def State.addContribution (s : State) (n : Nat) (c : Contribution) : State :=
  State.drainRound 65 n (s.updWindow n (fun w => { w with buffer := w.buffer ++ [c] }))

/-- The first window that admits a contribution whole. -/
def State.xredWindow (s : State) (sender : Nat) (places : List (Nat × Nat)) : Option Nat :=
  (List.range 16).find? (fun n => places.all (fun q => (s.window n).admits sender (s.window n).at_ q.1 q.2))

/-- What becomes of a contribution. -/
inductive XredVerdict where
  /-- Rejected, at a byte. -/
  | reject (addr : Nat)
  /-- Taken by a window. -/
  | take (window : Nat)
  deriving DecidableEq, Repr

/-- What happens to a waiting contribution: rejected, taken, or, none, it waits for buffer room. -/
def State.xredVerdict (s : State) : Inbound → Option (Nat × Contribution × XredVerdict)
  | .xred sender index aop atype places data =>
    let c : Contribution := ⟨index, aop, atype, places, data⟩
    let first := (places.map (·.1)).headD 0
    match s.xredWindow sender places with
    | none => some (sender, c, .reject ((s.firstRejected sender (·.at_) places).getD first))
    | some n =>
      let w := s.window n
      if w.xrn ≤ index then some (sender, c, .reject first)
      else if index = w.next ∨ w.buffer.length < 64 then some (sender, c, .take n)
      else none
  | _ => none

/-- XRED_CONTRIBUTION: the oldest one that need not wait for buffer room. -/
def execXredContribution (s : State) : Host.Outcome State Fault Refusal :=
  match s.takeInbox s.xredVerdict with
  | none => s.idle
  | some ((sender, _, .reject a), s) => .next (s.notice (.peerReply sender false [] false (some a)))
  | some ((sender, c, .take n), s) => .next ((s.addContribution n c).notice (.peerReply sender true [] false none))

/-! ### The host (R412, R435) -/

/-- INBOUND_HOST_WRITE: the oldest one that waits is performed. -/
def execInboundHostWrite (s : State) : Host.Outcome State Fault Refusal :=
  match s.takeInbox asHost with
  | none => s.idle
  | some (w, s) => s.hostWrite w

/-! ### Ports (R437) -/

def Loc.peer? : Loc → Option Nat
  | .peer m _ => some m
  | _ => none

/-- Peers that a tenant has outstanding traffic to: accesses, atomics, transfers, and transfers whose answer is awaited. -/
def State.peersOf (s : State) (tn : Nat) : List Nat :=
  let mine (t : Nat) : Bool := (s.team t).tenant == tn
  (s.flights.filter (fun f => mine f.team && !f.performed)).filterMap (fun f => f.loc.peer?) ++
    ((s.awl.filter (fun q => mine q.team)).map (fun q => q.lanes.filterMap (fun l => l.loc.peer?))).flatten ++
    ((s.ops.filter (fun o => mine o.team && !o.finished)).map (fun o =>
      ((o.kind.segs ++ o.rest).map (fun g => [g.src, g.dst].filterMap Loc.peer?)).flatten)).flatten ++
    (s.cores.map (fun e => match e.2.bundle with
      | some b => if mine b.team && b.asked && b.peer.isNone then b.peers else []
      | none => [])).flatten

/-- The tenants with traffic to a peer. -/
def State.tenantsTo (s : State) (m : Nat) : List Nat := (s.tenants.map (·.1)).filter (fun tn => (s.peersOf tn).contains m)

/-- The peers with outstanding traffic that have no live port left. -/
def State.lostPeers (s : State) : List Nat := (((s.tenants.map (fun e => s.peersOf e.1)).flatten).dedup).filter s.cutOff

/-- Module faults of several peers: the tenants of those whose fault recurs are killed, and each of the others is rolled back once. -/
def State.peerFaults (s : State) (ms : List Nat) : State :=
  let again := ms.filter (fun m => NatSet.has s.flitFault (m + 1))
  let kill := ((again.map s.tenantsTo).flatten).dedup
  let fresh := ms.filter (fun m => !NatSet.has s.flitFault (m + 1))
  let roll := (((fresh.map s.tenantsTo).flatten).dedup).filter (fun tn => !kill.contains tn)
  let s := if again.isEmpty then s else s.moduleFault (again.headD 0 + 1) kill true
  let s := if fresh.isEmpty then s else s.moduleFault (fresh.headD 0 + 1) roll false
  { s with flitFault := fresh.foldl (fun f m => NatSet.set f (m + 1) true) (again.foldl (fun f m => NatSet.set f (m + 1) false) s.flitFault) }

/-- RENAZ_PORT_DOWN: the port's traffic moves to others; tenants with traffic to a peer that has none left have a module fault. -/
def execRenazPortDown (port : Nat) (s : State) : Host.Outcome State Fault Refusal :=
  let s := { s with portsDown := NatSet.set s.portsDown port true }
  .next (s.peerFaults s.lostPeers)

/-! ### The Vuone image (R442, R443) -/

/-- An image's parts. -/
structure Vuone where
  body : List Byte
  svn : Nat
  key1 : List Byte
  key2 : List Byte
  sig1 : List Byte
  sig2 : List Byte
  deriving DecidableEq, Repr

/-- TYPE, OFFSET and SIZE of the section entries. -/
def vuoneSections (bs : List Byte) : List (Nat × Nat × Nat) :=
  (List.range (leNat ((bs.drop 0x0C).take 4))).map (fun i =>
    let e := (bs.drop (0x40 + 32 * i)).take 32
    (leNat (e.take 4), leNat ((e.drop 8).take 8), leNat ((e.drop 16).take 8)))

/-- The bytes "VUON". -/
def vuoneMagic : List Byte := [0x56, 0x55, 0x4F, 0x4E]

def parseVuone (bs : List Byte) : Vuone :=
  let n := leNat ((bs.drop 0x10).take 8)
  let cut (off len : Nat) : List Byte := (bs.drop (n + off)).take len
  ⟨bs.take n, leNat ((bs.drop 8).take 4), cut 0 32, cut 32 1952, cut 1984 64, cut 2048 3309⟩

/-- The header checks. -/
def vuoneHeaderOk (bs : List Byte) : Bool :=
  let n := leNat ((bs.drop 0x10).take 8)
  let ss := vuoneSections bs
  let k := leNat ((bs.drop 0x0C).take 4)
  bs.take 4 == vuoneMagic && leNat ((bs.drop 4).take 4) == 1 && decide (1 ≤ k ∧ k ≤ 16) && decide (n + 5357 ≤ bs.length) &&
    decide (0x40 + 32 * k ≤ n) && ss.all (fun e => decide (e.2.1 + e.2.2 ≤ n)) &&
    [1, 2, 3, 4].all (fun t => (ss.filter (fun e => e.1 == t)).length == 1) && ss.all (fun e => decide (1 ≤ e.1 ∧ e.1 ≤ 4))

/-- Every check of R443. -/
def vuoneOk (bs : List Byte) : Bool :=
  let v := parseVuone bs
  vuoneHeaderOk bs && decide (Config.fusedSvn ≤ v.svn) && sha384 v.key1 == Config.fusedEd25519 &&
    sha384 v.key2 == Config.fusedMlDsa65 && ed25519 v.key1 v.body v.sig1 && mlDsa65 v.key2 v.body v.sig2

/-! ### Bring-up (R445) -/

/-- The registers of a core after step 5. -/
def bootCore (barred : Bool) (k : Nat) (c : Core) : Core :=
  let c := { c.writeSkv (Config.skvctlOf k).toNat with feat := Config.featOf k &&& 0xFF, up := true, tgt := tgtOf (Config.clkratOf k).toNat }
  { c with cur := min (min c.tgt c.pcap) (if barred then 16 else min 20 (16 + c.cstep / 2)) }

/-- Step 5: the registers of every core, the module number, and the Renaz ports. -/
def State.bringDies (s : State) : State :=
  { s.mapCores (bootCore s.boostBarred) with rnzid := Config.moduleNumber.toNat, portsDown := [] }

/-- Steps 3 to 6 with a verified image. Whether one of them fails is a free choice (log 12); a failure stops bring-up and is reported. -/
def State.bringUp (s : State) (image : List Byte) : State :=
  let s := { s with boot := { s.boot with image := image, stage := 2 } }
  let (i, s) := s.choose 5
  let s := if i = 0 ∨ i = 4 then s.bringDies else s
  if i = 0 then { s with boot := { s.boot with stage := 6 } }
  else { s.notice (.bootReport (2 + i) false) with boot := { s.boot with stage := 1 + i, failed := true } }

/-- POWER_ON: step 1, which may fail (log 12). -/
def execPowerOn (s : State) : Host.Outcome State Fault Refusal :=
  if s.boot.stage = 0 ∧ s.boot.failed = false then
    let (i, s) := s.choose 2
    .next (if i = 0 then { s with boot := { stage := 1 } } else { s.notice (.bootReport 1 false) with boot := { failed := true } })
  else s.idle

/-- POWER_LOSS: every register and every memory of the module. What stands outside it stays: the host's memory, and peers with theirs. -/
def execPowerLoss (s : State) : Host.Outcome State Fault Refusal :=
  .next { State.reset with
    agenda := s.agenda, inbox := s.inbox, notices := s.notices, free := s.free, hostMem := s.hostMem, peerMem := s.peerMem
    xredNext := s.xredNext }

def asOffer : Inbound → Option (Nat × List Byte)
  | .offer p url => if p < 2 then some (p, url) else none
  | _ => none

/-- The answer to the fetch from a port. -/
def asImage (port : Nat) : Inbound → Option (List Byte)
  | .image p bs => if p = port then some bs else none
  | _ => none

/-- The offer to try next, by its place: the first, then the first of the other port, then those left in order (R443). -/
def Boot.nextOffer (b : Boot) : Option Nat :=
  let left := (List.range b.offers.length).filter (fun i => !b.tried.contains i)
  let port (i : Nat) : Nat := (b.offers.getD i (0, [])).1
  match b.tried with
  | [i] => (left.find? (fun k => port k != port i)).orElse (fun _ => left.head?)
  | _ => left.head?

/-- DHCP is asked on both ports, DHCPv4 or DHCPv6 on each: a free choice (R441). -/
def State.askDhcp (s : State) : State :=
  let (i, s) := s.choose 2
  let (j, s) := s.choose 2
  { (s.notice (.dhcp 0 (i != 0))).notice (.dhcp 1 (j != 0)) with boot := { s.boot with asked := true } }

/-- The next fetch is sent; with no offer left every attempt has failed, and the Wamir complex stays in recovery. -/
def State.nextFetch (s : State) : State :=
  match s.boot.nextOffer with
  | none => { s.notice (.bootReport 2 false) with boot := { s.boot with recovery := true } }
  | some i =>
    let o := s.boot.offers.getD i (0, [])
    { s.notice (.httpGet o.1 o.2) with boot := { s.boot with tried := s.boot.tried ++ [i], waiting := some o.1 } }

/-- The awaited answer: a good image goes on to the next steps, another is discarded; a fetch without an answer has failed. -/
def State.fetched (s : State) (port : Nat) : State :=
  let s := { s with boot := { s.boot with waiting := none } }
  match s.takeInbox (asImage port) with
  | none => s
  | some (bs, s) => if vuoneOk bs then s.bringUp bs else s

/-- NETWORK_BOOT, one turn of step 2: DHCP is asked, an offer is taken down, the awaited answer comes or fails to come, or the next fetch is
sent. -/
def execNetworkBoot (s : State) : Host.Outcome State Fault Refusal :=
  if s.boot.stage ≠ 1 ∨ s.boot.recovery = true then s.idle
  else if s.boot.asked = false then .next s.askDhcp
  else match s.takeInbox asOffer with
    | some (o, s) => .next { s with boot := { s.boot with offers := s.boot.offers ++ [o] } }
    | none => match s.boot.waiting with
      | some p => .next (s.fetched p)
      | none => .next s.nextFetch

/-! ### Resets (R7, R436) -/

/-- What the RWS registers of a core keep, and the alarm its rails are in, which is no register. -/
def Core.sticky (c : Core) : Core := { quar := c.quar, escq := c.escq, nrdet := c.nrdet, alarm := c.alarm }

/-- Every register at its reset value, but for the RWS registers; memory stands as it is. -/
def State.resetRegs (s : State) : State :=
  { State.reset with
    agenda := s.agenda, inbox := s.inbox, notices := s.notices, nextId := s.nextId, free := s.free,
    hbm := s.hbm, hbmPoison := s.hbmPoison, fab := s.fab, fabPoison := s.fabPoison, hostMem := s.hostMem, peerMem := s.peerMem,
    portsDown := s.portsDown, xredNext := s.xredNext, occause := s.occause, boot := s.boot
    cores := (s.cores.map (fun e => (e.1, e.2.sticky))).filter (fun e => e.2 != {}) }

/-- PF_RESET: every context is killed, registers are reset, and the boot sequence runs again from the verification of the image the
Wamir complex holds. An image that no longer passes is discarded, and step 2 begins again (R443). -/
def execPfReset (s : State) : Host.Outcome State Fault Refusal :=
  let s := (((s.tenants.map (·.1)).filter (fun t => !(s.tenant t).dead)).foldl (fun s t => s.killTenant t) s).resetRegs
  let img := s.boot.image
  .next (if img.isEmpty then s
    else if vuoneOk img then s.bringUp img
    else { s.notice (.bootReport 2 false) with boot := { stage := 1 } })

/-! ### Management (R441) -/

def asRedfish : Inbound → Option Nat
  | .redfish p => if p < 2 then some p else none
  | _ => none

/-- REDFISH_REQUEST: answered on its port, one of the two. -/
def execRedfishRequest (s : State) : Host.Outcome State Fault Refusal :=
  match s.takeInbox asRedfish with
  | none => s.idle
  | some (p, s) => .next (s.notice (.redfish p))

/-! ### SPDM (R444) -/

def asSpdm (code : Nat) : Inbound → Option (Nat × List Byte)
  | .spdm c p n => if c = code then some (p, n) else none
  | _ => none

/-- The OR of all cores' FEAT registers. -/
def State.allFeat (s : State) : Dword := (List.range 1920).foldl (fun d c => d ||| (s.core c).feat) 0

/-- A measurement. -/
def State.measurement (s : State) (i : Nat) : List Byte :=
  match i with
  | 1 => sha384 Config.bootRom
  | 2 => sha384 (parseVuone s.boot.image).body
  | 3 => leBytes 4 (parseVuone s.boot.image).svn
  | 4 => leBytes 8 s.allFeat.toNat
  | _ => []

/-- The measurements a request's parameter asks for, by index: one, or all with 0xFF. -/
def State.measurements (s : State) (p : Nat) : List (Nat × List Byte) :=
  ([1, 2, 3, 4].filter (fun i => p == 0xFF || p == i)).map (fun i => (i, s.measurement i))

/-- The chain of slot 0, from the Kolell root to the device key. -/
def certChain : List (List Byte) := Config.rootCert :: Config.deviceCerts

def chainDigest : List Byte := sha384 certChain.flatten

/-- A request is answered. reply: what R444 states of the answer, by the request's parameter and nonce. -/
def State.answerSpdm (s : State) (code : Nat) (reply : State → Nat → List Byte → SpdmReply) : Host.Outcome State Fault Refusal :=
  match s.takeInbox (asSpdm code) with
  | none => s.idle
  | some ((p, n), s) => .next (s.notice (.spdm code (reply s p n)))

/-- The request codes of SPDM 1.2 (PRESUMED, log 10). -/
def spdmVersion : Nat := 0x84
def spdmDigests : Nat := 0x81
def spdmCertificate : Nat := 0x82
def spdmChallenge : Nat := 0x83
def spdmMeasurements : Nat := 0xE0
def spdmCapabilities : Nat := 0xE1
def spdmAlgorithms : Nat := 0xE3

/-- The device key's signature over what a reply states (log 10). -/
def signed (bytes : List Byte) : List Byte := Config.deviceSign (sha384 bytes)

def execGetVersion (s : State) : Host.Outcome State Fault Refusal := s.answerSpdm spdmVersion (fun _ _ _ => .version 1 2)
def execGetCapabilities (s : State) : Host.Outcome State Fault Refusal := s.answerSpdm spdmCapabilities (fun _ _ _ => .capabilities)
def execNegotiateAlgorithms (s : State) : Host.Outcome State Fault Refusal := s.answerSpdm spdmAlgorithms (fun _ _ _ => .ecdsaP384Sha384)
def execGetDigests (s : State) : Host.Outcome State Fault Refusal := s.answerSpdm spdmDigests (fun _ _ _ => .digests chainDigest)
def execGetCertificate (s : State) : Host.Outcome State Fault Refusal := s.answerSpdm spdmCertificate (fun _ _ _ => .certificate certChain)
def execChallenge (s : State) : Host.Outcome State Fault Refusal :=
  s.answerSpdm spdmChallenge (fun _ _ n => .challengeAuth chainDigest n (signed (chainDigest ++ n)))
def execGetMeasurements (s : State) : Host.Outcome State Fault Refusal :=
  s.answerSpdm spdmMeasurements (fun s p n =>
    .measurements (s.measurements p) n (signed (((s.measurements p).map (·.2)).flatten ++ n)))

/-! ### What the host can send (R445) -/

/-- What reaches the module over PCIe only. -/
def fromHost : Instr → Bool
  | .registerWrite .. | .partownWrite .. | .tninvTenant .. | .tninvPage .. | .queueEnable .. | .qtailWrite .. | .islSetEnable ..
  | .islSetDisable .. | .pm1Write .. | .eventRingEnable .. | .dbgRead .. | .dbgWrite .. | .contextSuspend .. | .contextResume ..
  | .contextKill .. | .checkpointTake .. | .checkpointEnable .. | .checkpointDisable .. | .skvctlWrite .. | .quarClear .. | .clkratWrite ..
  | .vfFlr .. | .pfReset | .inboundHostWrite | .imageMove .. | .getVersion | .getCapabilities | .negotiateAlgorithms | .getDigests
  | .getCertificate | .challenge | .getMeasurements => true
  | _ => false

/-- Before step 6 the host sees no device on the link, so nothing of it arrives. -/
def State.hears (s : State) (i : Instr) : Bool := !fromHost i || s.boot.stage == 6

end Sys2Proof.Machine
end

