-- ==== Sys2Proof/Machine/Matrix.lean ====
section
/-! DEFINITION. Class X: matrix products (R362 to R364, R366, R367, R369), tiles (R370 to R372), MSEARCH (R368), reservations and
GANG (R359 to R361, R365). -/

namespace Sys2Proof.Machine

/-! ### MMA, MMAB, SMMA -/

/-- The result of a word whose shape is empty (R364): a cause, or what the tile becomes (none: nothing changes). -/
def emptyProduct (s : State) (t g : Nat) (d c : BitVec 4) (zi : Bool) : Except Cause (Option TileVal) :=
  if zi then .ok (some {})
  else if d = c then .ok none
  else if (s.tile t g c.toNat).bad then .error .poisonRead
  else .ok (some (s.tile t g c.toNat).read)

/-- The dimension register's value, if the word names one. -/
def Group.dims (g : Group) (e : XExt) : Option Word := if e.dims == 0 then none else some (g.sGet e.dims.toNat)

/-- The tile an accumulating word starts from. -/
def State.accTile (s : State) (t g : Nat) (c : BitVec 4) (zi : Bool) : Except Cause TileVal :=
  if zi then .ok {}
  else if (s.tile t g c.toNat).bad then .error .poisonRead
  else .ok (s.tile t g c.toNat).read

/-- Whether an operand of a matrix word is poisoned (R284's sixth check): its accumulator, and where the word's own A and B are
read (lead), its vector registers and descriptor pairs. An empty shape reads no operand but the accumulator it copies (R364). -/
def State.matOperandBad (s : State) (t g : Nat) (d c : BitVec 4) (m : MatWord) (lead : Bool) : Bool :=
  let grp := s.group t g
  let bad (e : Bool) : Bool := e || (lead && m.regsBad grp (s.lpbOf t).w)
  if lead && (dimsOf m.fmt (grp.dims m.e)).2 then
    match emptyProduct s t g d c m.e.zi with
    | .error _ => true
    | .ok _ => false
  else match s.accTile t g c m.e.zi with
    | .error _ => bad true
    | .ok _ => bad false

/-- The common path of MMA, MMAB and SMMA (R363): register fields, poison of the operands, then the word's own checks (R284). -/
def mmaWord (i : Instr) (d c : BitVec 4) (m : MatWord) (s : State) : Host.Outcome State Fault Refusal :=
  runWord i s fun x s =>
    let g := s.group x.team x.g
    let (badDims, empty) := dimsOf m.fmt (g.dims m.e)
    let count (s : State) : State := s.count x.part 3 1
    if !empty && m.outside x.lpb then x.all s .illegalOperand
    else if s.matOperandBad x.team x.g d c m true then x.all s .poisonRead
    else if !x.full s then x.all s .illegalOperand
    else if badDims then x.all s .illegalOperand
    else if empty then
      match emptyProduct s x.team x.g d c m.e.zi with
      | .error k => x.all s k
      | .ok v => done (count (s.sendTile x.team x.g d.toNat v []))
    else match s.accTile x.team x.g c m.e.zi, s.fetchMat x.team g m [0] with
      | .error k, _ => x.all s k
      | _, .error k => x.all (s.count x.part 9 (s.matPoison x.team g m [0])) k
      | .ok acc, .ok (a, bs, blk, kept) =>
        done (count (s.sendTile x.team x.g d.toNat (some (product m.fmt blk acc kept a (bs.headD ⟨[], []⟩)))
          (s.grantsOf x.team g m)))

def execMma (d c : BitVec 4) (a b : BitVec 8) (e : XExt) (s : State) : Host.Outcome State Fault Refusal :=
  mmaWord (.mma d c a b e) d c ⟨a, b, e, false⟩ s

def execMmab (d c : BitVec 4) (a b : BitVec 8) (e : XExt) (s : State) : Host.Outcome State Fault Refusal :=
  mmaWord (.mmab d c a b e) d c ⟨a, b, e, false⟩ s

def execSmma (d c : BitVec 4) (a b : BitVec 8) (e : XExt) (s : State) : Host.Outcome State Fault Refusal :=
  mmaWord (.smma d c a b e) d c ⟨a, b, e, true⟩ s

/-! ### MMAG (R366, R367) -/

/-- The MMAG word a group stands at in its rendezvous: tiles, operands. -/
def gangWord (r : Rendezvous) : Option (BitVec 4 × BitVec 4 × MatWord) :=
  match decodeWords r.base (some r.ext) with
  | .ok (.mmag d c a b e) => some (d, c, ⟨a, b, e, false⟩)
  | _ => none

/-- Groups of the team that conflict with an arrival: one of the two lists the other, with a different g or extension word. -/
def State.gangConflicts (s : State) (t g : Nat) (r : Rendezvous) : List Nat :=
  (s.waitingGroups t).filter (fun w => w != g && match (s.group t w).rendezvous with
    | some q => ((gangList q.g).contains g || (gangList r.g).contains w) && (q.g != r.g || q.ext != r.ext)
    | none => false)

/-- A listed group that has not arrived and cannot: no live thread, or one in trap state or stopped. -/
def State.gangDead (s : State) (t w : Nat) : Bool :=
  (s.group t w).rendezvous.isNone && ((s.liveLanes t w).isEmpty ||
    (s.liveLanes t w).any (fun l => (s.thread t w l).status == .handler || (s.thread t w l).status == .stopped))

/-- Rendezvous of waiting groups broken, and those that await them (R367). -/
def State.breakAll (s : State) (t : Nat) (ws : List Nat) : State :=
  let s := ws.foldl (fun s w => s.breakGroup t w) s
  ws.foldl (fun s w => State.breakGangs 8 t w s) s

/-- A waiting group's threads continue past their MMAG word. -/
def State.passGang (s : State) (t g : Nat) : State :=
  match (s.group t g).rendezvous with
  | none => s
  | some r =>
    let clk := (s.core (s.group t g).core).clk.toNat
    let s := s.updGroup t g (fun x => { x with rendezvous := none })
    let s := s.count (partOf (s.clusterOfGroup t g)) 2 1
    (List.range (s.lpbOf t).w).foldl (fun s l => s.updThread t g l (fun th =>
      if th.status = .blocked .mmag then
        (if hdrCount r.header ≤ th.pos + 2 then
          { th with status := .ready, pc := th.pc + BitVec.ofNat 64 (4 * (hdrCount r.header + 1)), pos := 0, y := {}, readyAt := clk }
        else { th with status := .ready, pos := th.pos + 2, readyAt := clk })
      else th)) s

/-- Every thread of a waiting group traps at its MMAG word. -/
def State.trapGang (s : State) (t g : Nat) (k : Cause) : State :=
  (List.range (s.lpbOf t).w).foldl (fun s l =>
    let th := s.thread t g l
    if th.status = .blocked .mmag then s.takeTrap t (g, l) { cause := k, pc := th.pc, rpos := th.pos } else s) s

/-- One group's product in a completed rendezvous: its own columns, its own accumulator. -/
def State.gangProduct (s : State) (t g : Nat) (r : Rendezvous) (empty : Bool)
    (ab : Option (MatOperand × MatOperand × Nat)) (held : List Nat) : Except Cause State :=
  match gangWord r with
  | none => .ok s
  | some (d, c, m) =>
    let v := if empty then emptyProduct s t g d c m.e.zi
      else match s.accTile t g c m.e.zi, ab with
        | .error k, _ => .error k
        | .ok acc, some (a, b, blk) => .ok (some (product m.fmt blk acc (keepAll m.fmt) a b))
        | .ok _, none => .ok none
    match v with
    | .error k => .error k
    | .ok v => .ok ((s.sendTile t g d.toNat v held).count (partOf (s.clusterOfGroup t g)) 3 1)

/-- The rendezvous of a listed set completes (R366): the operation runs in every group. The groups whose threads trap, with the
cause of each; the others have their result on the way. -/
def State.runGang (s : State) (t : Nat) (rs : List (Nat × Rendezvous)) : List (Nat × Cause) × State :=
  match rs with
  | [] => ([], s)
  | (g0, r0) :: _ =>
    match gangWord r0 with
    | none => ([], s)
    | some (_, _, m) =>
      let grp := s.group t g0
      let (badDims, empty) := dimsOf m.fmt (grp.dims m.e)
      let all (k : Cause) : List (Nat × Cause) := rs.map (fun r => (r.1, k))
      if !(m.e.dims == 0) && grp.sBad m.e.dims.toNat then (all .poisonRead, s)
      else if badDims then (all .illegalOperand, s)
      else
        let ops := if empty then (.ok none) else (s.fetchMat t grp m (List.range rs.length)).map some
        match ops with
        | .error k => (all k, s.count (partOf (s.clusterOfGroup t g0)) 9 (s.matPoison t grp m (List.range rs.length)))
        | .ok o =>
          (rs.zip (List.range rs.length)).foldl (fun (q : List (Nat × Cause) × State) x =>
            let ab := o.map (fun y => (y.1, y.2.1.getD x.2 ⟨[], []⟩, y.2.2.1))
            match q.2.gangProduct t x.1.1 x.1.2 empty ab (if empty then [] else s.grantsOf t grp m) with
            | .error k => (q.1 ++ [(x.1.1, k)], q.2)
            | .ok s => (q.1, s)) (([], s) : List (Nat × Cause) × State)

/-- MMAG. -/
def execMmag (d c : BitVec 4) (a b : BitVec 8) (e : XExt) (s : State) : Host.Outcome State Fault Refusal :=
  runWord (.mmag d c a b e) s fun x s =>
    let grp := s.group x.team x.g
    let r := Rendezvous.mk grp.g (x.b.words.getD x.b.pos 0) e.toWord x.b.header
    let ls := gangList grp.g
    if !x.full s || grp.g.extractLsb' 0 4 == 0 then
      x.all s (if s.matOperandBad x.team x.g d c ⟨a, b, e, false⟩ (ls.head? == some x.g) then .poisonRead else .illegalOperand)
    else
      let bad := s.gangConflicts x.team x.g r
      if !bad.isEmpty then x.all (s.breakAll x.team bad) .gangBroken
      else if ls.any (fun w => w != x.g && s.gangDead x.team w) then
        x.all (s.breakAll x.team ((s.waitingGroups x.team).filter (fun w => ls.contains w))) .gangBroken
      else if ls.all (fun w => w == x.g || (s.group x.team w).rendezvous.isSome) then
        let rs := ls.filterMap (fun w => if w = x.g then some (w, r) else ((s.group x.team w).rendezvous).map (fun q => (w, q)))
        let (traps, s) := s.runGang x.team rs
        let others := ls.filter (fun w => w != x.g)
        let s := (others.filter (fun w => !traps.any (fun q => q.1 == w))).foldl (fun s w => s.passGang x.team w) s
        let s := others.foldl (fun s w => s.updGroup x.team w (fun g => { g with rendezvous := none })) s
        let s := (traps.filter (fun q => q.1 != x.g)).foldl (fun s q => s.trapGang x.team q.1 q.2) s
        match traps.find? (fun q => q.1 == x.g) with
        | some q => x.all s q.2
        | none => done s
      else
        { s := s.updGroup x.team x.g (fun g => { g with rendezvous := some r }), after := .block .mmag }

/-! ### Results (R355, R371) -/

/-- A tile's result arrives: V and D are set, F is clear, the units its word held are free (R372). -/
def Tile.arrive (a : Tile) : Tile :=
  match a.next with
  | none => { a with f := false, held := [], byLoad := false }
  | some v => { a with val := v, v := true, d := true, f := false, next := none, held := [], byLoad := false }

def State.arriveTile (s : State) (t g n : Nat) : State :=
  s.updGroup t g (fun x => { x with tiles := x.tiles.upd {} n Tile.arrive })

/-- MATRIX_RESULT. -/
def execMatrixResult (team group tile : Nat) (s : State) : Host.Outcome State Fault Refusal :=
  if (s.tile team group tile).f && !(s.tile team group tile).byLoad then .next (s.arriveTile team group tile) else s.idle

/-- TILE_LOAD_COMPLETE. -/
def execTileLoadComplete (team group tile : Nat) (s : State) : Host.Outcome State Fault Refusal :=
  if (s.tile team group tile).f && (s.tile team group tile).byLoad then .next (s.arriveTile team group tile) else s.idle

/-! ### Words of slot 0x76 (R370) -/

def execTzero (d : BitVec 4) (s : State) : Host.Outcome State Fault Refusal :=
  runWord (.tzero d) s fun x s => done (s.setTile x.team x.g d.toNat {})

def execTmov (d c : BitVec 4) (s : State) : Host.Outcome State Fault Refusal :=
  runWord (.tmov d c) s fun x s =>
    let a := s.tile x.team x.g c.toNat
    if a.bad then x.all s .poisonRead else done (s.setTile x.team x.g d.toNat a.read)

/-- TWAIT: the common readiness rule has waited for F. -/
def execTwait (d : BitVec 4) (s : State) : Host.Outcome State Fault Refusal := runWord (.twait d) s fun _ s => done s

def execTstat (a : BitVec 8) (s : State) : Host.Outcome State Fault Refusal :=
  runWord (.tstat a) s fun x s =>
    let bits (f : Tile → Bool) : Nat := ((List.range x.lpb.nt).map (fun n => if f (s.tile x.team x.g n) then 2 ^ n else 0)).sum
    done (s.uniformPair x (a.toNat - 0x80) (BitVec.ofNat 32 (bits (·.v) + 2 ^ 16 * bits (·.d))) (BitVec.ofNat 32 (bits (·.f))))

/-- The type code of a tile word's fmt: 10 f16, 11 bf16, 12 t8, 13 t6, else f32. -/
def tileType (fmt : BitVec 4) : ElemTy :=
  if fmt == 10#4 then .f16 else if fmt == 11#4 then .bf16 else if fmt == 12#4 then .t8 else if fmt == 13#4 then .t6 else .f32

/-- An f32 element narrowed, nearest even, subnormals kept. -/
def narrow (t : ElemTy) (x : Nat) : Nat := (convert .f32 t .rne false x).1
/-- An element widened to f32. -/
def widenF32 (t : ElemTy) (x : Nat) : Nat := (convert t .f32 .rne false x).1

/-- An f16 or bf16 element widened exactly: a NaN keeps its payload, shifted to the top of the fraction (R247, R371). -/
def widenExact (t : ElemTy) (x : Nat) : Nat :=
  let f := fmtOf t
  if f.isNan x then
    fmtF32.signBit (x / 2 ^ (f.ebits + f.fbits) % 2 == 1) + fmtF32.emask * 2 ^ fmtF32.fbits + x % 2 ^ f.fbits * 2 ^ (fmtF32.fbits - f.fbits)
  else widenF32 t x

def execTcvt (d c : BitVec 4) (e : XExt) (s : State) : Host.Outcome State Fault Refusal :=
  runWord (.tcvt d c e) s fun x s =>
    let a := s.tile x.team x.g c.toNat
    let t := tileType e.fmt
    if a.bad then x.all s .poisonRead
    else
      let v := (List.range 1024).foldl (fun (m : Sparse Word) n =>
        m.put 0 n (BitVec.ofNat 32 (widenF32 t (narrow t (a.read.elems.get 0 n).toNat)))) []
      done (s.setTile x.team x.g d.toNat ⟨v, []⟩)

/-! ### MSEARCH (R368) -/

/-- A magnitude as it is ordered: NaNs above infinity, all alike. -/
def magKey (x : Word) : Nat :=
  let m := x.toNat % 2 ^ 31
  if 0x7F800000 < m then 0x7F800001 else m

/-- A mask of 32 rows, by row: kept columns. -/
abbrev Mask := List Nat

def Mask.has (k : Mask) (r j : Nat) : Bool := (k.getD r 0).testBit j

def Mask.flip (k : Mask) (r j : Nat) : Mask := k.set r ((k.getD r 0) ^^^ 2 ^ j)

/-- The two largest of a row's four columns, ties to the lower column. -/
def topTwo (mag : Nat → Nat → Nat) (i u : Nat) : Nat :=
  ((List.range 4).map (fun a =>
    let better := ((List.range 4).filter (fun b => b != a &&
      (decide (mag i (4 * u + a) < mag i (4 * u + b)) || (mag i (4 * u + a) == mag i (4 * u + b) && decide (b < a))))).length
    if better < 2 then 2 ^ (4 * u + a) else 0)).sum

def startMask (mag : Nat → Nat → Nat) : Mask :=
  (List.range 32).map (fun i => ((List.range 8).map (fun u => topTwo mag i u)).sum)

/-- Rows of a sub-block that keep a column. -/
def Mask.colCount (k : Mask) (h j : Nat) : Nat := ((List.range 4).filter (fun r => k.has (4 * h + r) j)).length

/-- Columns of a sub-block whose count is not 2. -/
def Mask.unbalanced (k : Mask) (h u : Nat) : List Nat := ((List.range 4).map (fun a => 4 * u + a)).filter (fun j => k.colCount h j != 2)

/-- The exchange of a sub-block: row, column dropped, column kept. -/
def exchange (mag : Nat → Nat → Nat) (k : Mask) (h u : Nat) : Option (Nat × Nat × Nat) :=
  let cols := (List.range 4).map (fun a => 4 * u + a)
  match cols.find? (fun j => decide (2 < k.colCount h j)), cols.find? (fun j => decide (k.colCount h j < 2)) with
  | some j, some j2 =>
    let rows := ((List.range 4).map (fun r => 4 * h + r)).filter (fun r => k.has r j && !k.has r j2)
    let best := rows.foldl (fun (b : Option Nat) r => match b with
      | none => some r
      | some q =>
        if mag r j < mag q j ∨ (mag r j = mag q j ∧ mag q j2 < mag r j2) then some r else some q) none
    best.map (fun r => (r, j, j2))
  | _, _ => none

/-- The exchanges of one sub-block; the flag says that the search has stopped at its bound. -/
def searchBlock (mag : Nat → Nat → Nat) (h u : Nat) : Nat → Mask × Nat × Bool → Mask × Nat × Bool
  | 0, r => r
  | fuel + 1, (k, ex, stop) =>
    if stop || (k.unbalanced h u).isEmpty then (k, ex, stop)
    else match exchange mag k h u with
      | none => (k, ex, stop)
      | some (r, j, j2) =>
        if ex = 64 then (k, ex, true)
        else searchBlock mag h u fuel ((k.flip r j).flip r j2, ex + 1, false)

def searchMask (mag : Nat → Nat → Nat) : Mask :=
  ((List.range 64).foldl (fun r n => searchBlock mag (n / 8) (n % 8) 65 r) (startMask mag, 0, false)).1

/-- Rows and columns left unsatisfied. -/
def unsatRows (k : Mask) : Nat :=
  ((List.range 32).map (fun i => if (List.range 8).any (fun u => !(k.unbalanced (i / 4) u).isEmpty) then 2 ^ i else 0)).sum
def unsatCols (k : Mask) : Nat :=
  ((List.range 32).map (fun j => if (List.range 8).any (fun h => (k.unbalanced h (j / 4)).contains j) then 2 ^ j else 0)).sum

/-- One lane's results: mask registers, then the two words of what is unsatisfied. -/
def Thread.msearch (x : Thread) (k : Mask) (w l d ipos : Nat) : Thread :=
  let n := if w ≤ 32 then 32 / w else 1
  let word (r : Nat) : Word := if w ≤ 32 then BitVec.ofNat 32 (k.getD (r * w + l) 0) else if l < 32 then BitVec.ofNat 32 (k.getD l 0) else 0
  let x := (List.range n).foldl (fun (x : Thread) r => x.vSet (d + r) (word r)) x
  let x := (x.vSet (d + n) (BitVec.ofNat 32 (unsatRows k))).vSet (d + n + 1) (BitVec.ofNat 32 (unsatCols k))
  { x with y := x.y.write (ipos % 4) (word 0) }

def execMsearch (c : BitVec 4) (m : BitVec 8) (s : State) : Host.Outcome State Fault Refusal :=
  runWord (.msearch c m) s fun x s =>
    let a := s.tile x.team x.g c.toNat
    if a.bad then x.all s .poisonRead
    else if !x.full s then x.all s .illegalOperand
    else
      let v := a.read.elems
      let k := searchMask (fun i j => magKey (v.get 0 (32 * i + j)))
      done (x.mems.foldl (fun s q => s.updThread x.team q.1 q.2 (fun th => th.msearch k x.lpb.w q.2 m.toNat x.b.ipos)) s)

/-! ### Reservations (R359 to R361) -/

/-- The checks of R77. A SIZE above 4,096 is refused as 0 is (log 68). -/
def recordBad (r0 r1 r2 r3 : Nat) : Bool :=
  decide (4 ≤ bitsOf r0 3 0) || bitsOf r0 5 4 == 3 || decide (2 ^ 7 ≤ r0) || decide (2 ^ 13 ≤ r1) || r1 == 0 || decide (4096 < r1) ||
    decide (2 ^ 30 ≤ r2) || decide (2 ^ 28 ≤ r3) ||
    (bitsOf r0 6 6 == 1 && (decide (2 ≤ bitsOf r0 3 0) || decide (64 * r1 ≤ bitsOf r2 17 0)))

/-- Whether a logical unit belongs to a live reservation. -/
def Team.unitTaken (x : Team) (u : Nat) : Bool :=
  (List.range 15).any (fun k => let r := x.resv.get {} (k + 1); r.live && decide (r.unit ≤ u ∧ u < r.unit + r.size))

def Team.freeUnits (x : Team) (units : Nat) : Nat := ((List.range units).filter (fun u => !x.unitTaken u)).length

/-- Operations that still work with a grant's units: copies, and matrix words whose result is on its way (R79). -/
def State.grantBusy (s : State) (t grant : Nat) : Bool :=
  s.ops.any (fun o => o.team == t && !o.finished && match o.kind with
    | .copy _ (some g) => g == grant
    | _ => false) ||
    (s.groupsOf t).any (fun g => (List.range 16).any (fun n => (s.tile t g n).f && (s.tile t g n).held.contains grant))

/-- Released units that are not yet returned. -/
def State.releasedBusy (s : State) (t : Nat) : List Released := (s.team t).released.filter (fun r => s.grantBusy t r.grant)

/-- A granted reservation: its units hold nothing written (R360). -/
def Team.grant (x : Team) (id : Nat) (r : Resv) : Team :=
  let lo := 64 * r.unit
  let hi := lo + 64 * r.size
  { x with
    resv := x.resv.put {} id r
    sb := x.sb.cut lo hi
    sbWritten := Sparse.cut x.sbWritten lo hi
    sbPoison := Sparse.cut x.sbPoison (lo / 8) (hi / 8) }

def execResv (p q : BitVec 8) (s : State) : Host.Outcome State Fault Refusal :=
  runWord (.resv p q) s fun x s =>
    let g := s.group x.team x.g
    let r (k : Nat) : Word := g.sGet (2 * q.toNat + k)
    let t := s.team x.team
    let units := x.lpb.sbb / 64
    let answer (s : State) (a b : Word) : Res := done (s.uniformPair x (2 * p.toNat) a b)
    if recordBad (r 0).toNat (r 1).toNat (r 2).toNat (r 3).toNat then x.all s .illegalOperand
    else
      let size := (r 1).toNat
      match (List.range 15).find? (fun k => !(t.resv.get {} (k + 1)).live) with
      | none => answer s 0 1
      | some k =>
        match (List.range (units + 1 - size)).find? (fun u => (List.range size).all (fun i => !t.unitTaken (u + i))) with
        | none => answer s 0 2
        | some u =>
          if (s.releasedBusy x.team).any (fun b => decide (b.unit < u + size ∧ u < b.unit + b.size)) then stalled s
          else
            let (n, s) := s.fresh
            let e : Resv := Resv.mk true (r 0) (r 1) (r 2) (r 3) u n (s.partition x.part).sbPast
            let kept := s.releasedBusy x.team
            answer (s.updTeam x.team (fun t => { t.grant (k + 1) e with released := kept })) (BitVec.ofNat 32 (k + 1)) (r 3)

def execRels (p : BitVec 8) (s : State) : Host.Outcome State Fault Refusal :=
  runWord (.rels p) s fun x s =>
    let id := bitsOf ((s.group x.team x.g).sGet (2 * p.toNat)).toNat 7 0
    let r := (s.team x.team).resvOf id
    if !r.live then x.all s .access
    else done (s.updTeam x.team (fun t => { t with
      resv := t.resv.put {} id {}
      released := t.released ++ [⟨r.unit, r.size, r.grant⟩] }))

def execRqry (p q : BitVec 8) (s : State) : Host.Outcome State Fault Refusal :=
  runWord (.rqry p q) s fun x s =>
    let r := (s.team x.team).resvOf (bitsOf ((s.group x.team x.g).sGet (2 * q.toNat)).toNat 7 0)
    let a := if r.live then r.r0.toNat % 2 ^ 7 + r.size * 2 ^ 16 else 0
    done (s.uniformPair x (2 * p.toNat) (BitVec.ofNat 32 a) (BitVec.ofNat 32 ((s.team x.team).freeUnits (x.lpb.sbb / 64))))

/-! ### GANG (R365) -/

/-- The rules of R365 on a value of g, in a team of n groups and for group x. -/
def gangBad (g : Dword) (n x : Nat) : Bool :=
  let v := g.toNat
  let ls := gangList g
  decide (bitsOf v 3 0 < 2 ∨ 6 < bitsOf v 3 0) || bitsOf v 7 4 != 0 || bitsOf v 63 56 != 0 || ls.any (fun k => decide (n ≤ k)) ||
    decide (ls.dedup.length ≠ ls.length) ||
    (List.range 6).any (fun k => decide (bitsOf v 3 0 ≤ k) && bitsOf v (8 * k + 15) (8 * k + 8) != 0) || !ls.contains x

def execGang (p : BitVec 8) (s : State) : Host.Outcome State Fault Refusal :=
  runWord (.gang p) s fun x s =>
    let v := (s.group x.team x.g).sPair (2 * p.toNat)
    if gangBad v x.lpb.groups x.g then x.all s .illegalOperand
    else done (s.updGroup x.team x.g (fun g => { g with g := v }))

end Sys2Proof.Machine
end

