-- ==== Sys2Proof/Machine/MemOps.lean ====
section
/-! DEFINITION. Class M and A accesses of one thread each: loads, stores, uniform loads, gathers, scatters, prefetch (R335 to R340). -/

namespace Sys2Proof.Machine

/-- One lane's load leaves for memory, or reads an image word at once (R458), one of a tile whose F is set too (log 70). -/
def issueLoad (c : Ctx) (reg size : Nat) (sx fill uniform : Bool) (op : Option Nat) (word : Nat) (s : State) (a : Acc) : State :=
  match a.place with
  | .image off =>
    let (bs, bad) := s.imageBytes c.team off size
    s.addResult c.team a.m.1 a.m.2 uniform op (loadWrites reg size sx bs bad)
  | .mem l =>
    s.addFlight { id := 0, kind := .load, team := c.team, group := a.m.1, lane := a.m.2, uniform := uniform, reg := reg, size := size, sx := sx
                  va := a.va, loc := l, fill := fill, op := op, pc := c.b.pc, pos := c.b.pos, akind := 1, word := word
                  mems := if uniform then c.mems else [] }

/-- A load waits for the ticket: it would read a byte under a staged reduction (R149, R154). -/
def Plan.readWaits (r : Plan) (t size : Nat) : Bool :=
  r.accs.any (fun a => match a.place with
    | .mem l => r.s.detReadWaits t l size
    | .image _ => false)

/-- LD, LDF and GATH (R336, R337, R339). -/
def loadWord (i : Instr) (d : BitVec 7) (p ix : BitVec 8) (e : Option MExt) (wide fabricOnly counted : Bool) (s : State) :
    Host.Outcome State Fault Refusal :=
  runWord i s fun c s =>
    let size := mSize wide e
    let r := s.planAll c (s.eaOf c p ix size (mOff e)) size .read fabricOnly true true 1
    if r.walkPoison then poisonedWalk r.s
    else if r.accs.any (fun a => r.s.placePending c.team a.place size) || (counted && r.s.counterFull c.team (accGroups r.accs) cGth) then stalled r.s
    else if r.readWaits c.team size then waitTicket c r.s
    else
      let fill := (match e with
        | some x => x.hint != 1#2
        | none => true)
      let word := r.s.nextId
      let (op, s) := if counted && !r.accs.isEmpty then
          let q := r.s.startOp c.team (accGroups r.accs) cGth .lanes false (r.accs.map (·.m))
          (some q.1, q.2)
        else (none, r.s)
      { done (r.accs.foldl (issueLoad c d.toNat size (mSx e) fill false op word) s) with traps := r.traps }

/-- The bytes a store takes from its register (R336). -/
def storeBytes (th : Thread) (d size : Nat) : List Byte :=
  if size = 8 then leBytes 8 (th.vPair d).toNat else leBytes size (th.vGet d).toNat

/-- One lane's store: an image word, a staged write of a DET team, or a flight. none: the image refuses it. -/
def issueStore (c : Ctx) (d size : Nat) (op : Option Nat) (word : Nat) (s : State) (a : Acc) : State :=
  let bs := storeBytes (s.thread c.team a.m.1 a.m.2) d size
  match a.place with
  | .image off => (s.imageStore c.team a.m off bs).getD s
  | .mem l =>
    let s := if l.isFabric then s else s.recordWrite c.team a.m 0 a.va bs
    if !l.isFabric && s.stages c.team then s.stageWrite c.team a.m l a.va bs
    else s.addFlight { id := 0, kind := .store, team := c.team, group := a.m.1, lane := a.m.2, reg := d, size := size, va := a.va, loc := l
                       data := bs, op := op, pc := c.b.pc, pos := c.b.pos, akind := 2, word := word }

/-- Stores that the image refuses trap ACCESS (R458); each is judged on the state it would change. -/
def Plan.afterImage (r : Plan) (c : Ctx) (d size : Nat) : Plan :=
  let bad (a : Acc) : Bool := match a.place with
    | .image off => (r.s.imageStore c.team a.m off (storeBytes (r.s.thread c.team a.m.1 a.m.2) d size)).isNone
    | .mem _ => false
  { r with
    accs := r.accs.filter (fun a => !bad a)
    traps := r.traps ++ (r.accs.filter bad).map (fun a => ⟨a.m, .access, 2, BitVec.ofNat 64 a.va⟩) }

/-- Staging bytes that the global stores of a word need. -/
def Plan.stageNeed (r : Plan) (size : Nat) : Nat := (r.accs.map (fun a => if a.place.isGlobal then stageSize size else 0)).sum

/-- ST, STF and SCAT (R336, R337, R339). -/
def storeWord (i : Instr) (d : BitVec 7) (p ix : BitVec 8) (e : Option MExt) (wide fabricOnly counted : Bool) (s : State) :
    Host.Outcome State Fault Refusal :=
  runWord i s fun c s =>
    let size := mSize wide e
    let r := ((s.planAll c (s.eaOf c p ix size (mOff e)) size .write fabricOnly true true 2).afterDone c.team 2).afterImage c d.toNat size
    let tileBusy := r.accs.any (fun a => match a.place with
      | .image off => r.s.imageTileBusy c.team off size
      | .mem _ => false)
    if r.walkPoison then poisonedWalk r.s
    else if tileBusy || (counted && r.s.counterFull c.team (accGroups r.accs) cGth) then stalled r.s
    else if r.s.stages c.team && !r.s.stageFits c.team (r.stageNeed size) then waitTicket c r.s
    else
      let word := r.s.nextId
      let (op, s) := if counted && !r.accs.isEmpty then
          let q := r.s.startOp c.team (accGroups r.accs) cGth .lanes false (r.accs.map (·.m))
          (some q.1, q.2)
        else (none, r.s)
      let s := s.exposeIf c.team (r.accs.any (fun a => a.place.isHost))
      let s := match op with
        | some o => if s.stages c.team && r.accs.any (fun a => a.place.isGlobal) then s.performIssuers o else s
        | none => s
      { done (r.accs.foldl (issueStore c d.toNat size op word) s) with traps := r.traps }

def execLd32 (d : BitVec 7) (p i : BitVec 8) (e : Option MExt) (s : State) : Host.Outcome State Fault Refusal :=
  loadWord (.ld32 d p i e) d p i e false false false s

def execLd64 (d : BitVec 7) (p i : BitVec 8) (e : Option MExt) (s : State) : Host.Outcome State Fault Refusal :=
  loadWord (.ld64 d p i e) d p i e true false false s

def execSt32 (d : BitVec 7) (p i : BitVec 8) (e : Option MExt) (s : State) : Host.Outcome State Fault Refusal :=
  storeWord (.st32 d p i e) d p i e false false false s

def execSt64 (d : BitVec 7) (p i : BitVec 8) (e : Option MExt) (s : State) : Host.Outcome State Fault Refusal :=
  storeWord (.st64 d p i e) d p i e true false false s

def execLdf32 (d : BitVec 7) (p i : BitVec 8) (e : Option MExt) (s : State) : Host.Outcome State Fault Refusal :=
  loadWord (.ldf32 d p i e) d p i e false true false s

def execLdf64 (d : BitVec 7) (p i : BitVec 8) (e : Option MExt) (s : State) : Host.Outcome State Fault Refusal :=
  loadWord (.ldf64 d p i e) d p i e true true false s

def execStf32 (d : BitVec 7) (p i : BitVec 8) (e : Option MExt) (s : State) : Host.Outcome State Fault Refusal :=
  storeWord (.stf32 d p i e) d p i e false true false s

def execStf64 (d : BitVec 7) (p i : BitVec 8) (e : Option MExt) (s : State) : Host.Outcome State Fault Refusal :=
  storeWord (.stf64 d p i e) d p i e true true false s

def execGath (d : BitVec 7) (p i : BitVec 8) (e : Option MExt) (s : State) : Host.Outcome State Fault Refusal :=
  loadWord (.gath d p i e) d p i e false false true s

def execScat (d : BitVec 7) (p i : BitVec 8) (e : Option MExt) (s : State) : Host.Outcome State Fault Refusal :=
  storeWord (.scat d p i e) d p i e false false true s

/-! ### Uniform loads (R338) -/

/-- Size and sign extension of LDU: atype 0 z32, 1 z64, 2 z8, 3 s8, 4 z16, 5 s16. -/
def lduSize (b : STail) : Nat × Bool :=
  match b with
  | .short _ => (4, false)
  | .ext e => match e.atype.toNat with
    | 1 => (8, false)
    | 2 => (1, false)
    | 3 => (1, true)
    | 4 => (2, false)
    | 5 => (2, true)
    | _ => (4, false)

/-- LDU: one access of the lowest executing thread; a failing check traps every executing thread. -/
def execLdu (d a : BitVec 9) (b : STail) (s : State) : Host.Outcome State Fault Refusal :=
  runWord (.ldu d a b) s fun c s =>
    let (size, sx) := lduSize b
    let g := s.group c.team c.g
    let ea : Int := ((g.sPair a.toNat).toNat : Int) + ((g.sGet b.reg).toNat * size : Nat)
    match s.place c c.low ea size .read false true true with
    | (.error .walkPoison, s) => poisonedWalk s
    | (.error (.trap k), s) => c.all s k 1 (BitVec.ofInt 64 ea)
    | (.ok p, s) =>
      let waits := (match p with
        | .mem l => s.detReadWaits c.team l size
        | .image _ => false)
      if s.placePending c.team p size then stalled s
      else if waits then waitTicket c s
      else done (issueLoad c d.toNat size sx true true none s.nextId s ⟨c.low, ea.toNat, p⟩)

/-! ### Prefetch (R340) -/

/-- PREF: only ADDR_NONCANON traps; the line of a cacheable local page comes into the cluster's cache, for the rest nothing
happens. -/
def execPref (p i : BitVec 8) (e : Option MExt) (s : State) : Host.Outcome State Fault Refusal :=
  runWord (.pref p i e) s fun c s =>
    let tn := (s.team c.team).tenant
    c.mems.foldl (fun r m =>
      let ea := s.eaOf c p i 1 (mOff e) m
      let seen := r.s.noteLookup c.cluster tn ea 1 false r.seen
      match r.s.access c.cluster tn ea 1 .read false true r.seen with
      | (.error (.trap .addrNoncanon), _) => { r with traps := r.traps ++ [⟨m, .addrNoncanon, 1, BitVec.ofInt 64 ea⟩] }
      | (.ok (.hbm pa false), s) =>
        { r with seen := seen, s := if (s.cached c.cluster (pa / 64)).isSome then s else s.fillLine c.cluster (pa / 64) }
      | _ => { r with seen := seen }) (done s)

end Sys2Proof.Machine
end

