-- ==== Sys2Proof/Machine/HostReads.lean ====
section
/-! DEFINITION. What the host reads in BAR0 of the PCIe functions (R7): every register of R17 to R22, R34, R187, R218, R388, R399, R404,
R406, R411, R423, R427, R430, R432, R437 and R438. Reserved fields, write-only actions and offsets without a register read as zero. -/

namespace Sys2Proof.Machine

/-- A word from fields: value and lowest bit. -/
def packed (fs : List (Nat × Nat)) : Nat := (fs.map (fun f => f.1 * 2 ^ f.2)).sum

/-- BUSY of PARTOWN: a unit stands on the partition, resident or suspended (R18). -/
def State.busy (s : State) (p : Nat) : Bool := s.liveTeams.any (fun t => s.partOfTeam t == p)

/-! ### Tenant registers (R187, R218, R388, R399) -/

/-- A queue's registers, by offset of a 32-bit word. -/
def Queue.read (q : Queue) : Nat → Nat
  | 0x0 => q.base % 2 ^ 32
  | 0x4 => q.base / 2 ^ 32
  | 0x8 => packed [(q.log2n, 0), (q.prio, 5), (Bool.bit q.en, 7), (q.vec, 8)]
  | 0xC => q.tail
  | 0x10 => q.head
  | 0x14 => packed [(Bool.bit q.badtail, 0), (Bool.bit q.badcfg, 1), (Bool.bit q.ringfault, 2)]
  | _ => 0

/-- The event ring's registers. -/
def Tenant.readRing (x : Tenant) : Nat → Nat
  | 0x0 => x.evBase.toNat % 2 ^ 32
  | 0x4 => x.evBase.toNat / 2 ^ 32
  | 0x8 => packed [(x.evLog, 0), (Bool.bit x.evEn, 5), (x.evVec, 6)]
  | 0xC => x.evHead
  | 0x10 => x.evTail
  | 0x14 => packed [(Bool.bit x.evOverflow, 0), (Bool.bit x.evFault, 1), (Bool.bit x.evBadcfg, 2), (x.evDrops, 16)]
  | _ => 0

/-- An island-set slot's registers. -/
def IslSlot.read (x : IslSlot) : Nat → Nat
  | 0x0 => x.addr % 2 ^ 32
  | 0x4 => x.addr / 2 ^ 32
  | 0x8 => packed [(Bool.bit x.en, 0), (Bool.bit x.init, 1), (x.pm1, 2), (x.vec, 18)]
  | 0xC => packed ((Bool.bit x.active, 0) :: (List.range 9).map (fun k => (Bool.bit (NatSet.has x.stat (k + 1)), k + 1)))
  | 0x10 => x.step.toNat % 2 ^ 32
  | 0x14 => x.step.toNat / 2 ^ 32
  | _ => 0

/-- A tenant register in its virtual function. -/
def Tenant.readVf (x : Tenant) (off : Nat) : Nat :=
  if 0x1000 ≤ off ∧ off < 0x2000 then (x.queues.get {} ((off - 0x1000) / 0x40)).read (off % 0x40)
  else if 0x2000 ≤ off ∧ off < 0x2018 then x.readRing (off - 0x2000)
  else if 0x3000 ≤ off ∧ off < 0x3200 then (x.slots.get {} ((off - 0x3000) / 0x20)).read (off % 0x20)
  else match off with
    | 0x2800 => x.trapEnt.toNat % 2 ^ 32
    | 0x2804 => x.trapEnt.toNat / 2 ^ 32
    | 0x2808 => packed [(Bool.bit x.dbgAll, 0), (Bool.bit x.dbgBrk, 1)]
    | _ => 0

/-- The tenant whose registers a virtual function shows: that of its partition, if it is the tenant's lowest. -/
def State.vfTenant (s : State) (fn : Nat) : Option Nat :=
  let p := s.partition (fn - 1)
  if p.valid && (s.partsOf p.tenant).head? == some (fn - 1) then some p.tenant else none

/-! ### Privileged registers (R18, R34, R404, R406, R411) -/

/-- A word of a tenant's block. -/
def State.readBlock (s : State) (tn rel : Nat) : Nat :=
  let x := s.tenant tn
  let half (d : Dword) (hi : Bool) : Nat := if hi then d.toNat / 2 ^ 32 else d.toNat % 2 ^ 32
  if 0x40 ≤ rel ∧ rel < 0x90 then (x.fwperm.get 0 ((rel - 0x40) / 4)).toNat
  else match rel with
    | 0x0 => half x.tnptb false
    | 0x4 => half x.tnptb true
    | 0x8 => half x.fwbase false
    | 0xC => half x.fwbase true
    | 0x10 => packed [(s.nclus tn, 0), ((s.nclus tn + 127) / 128, 9)]
    | 0x18 => half x.tninv false
    | 0x1C => half x.tninv true
    | 0x20 => packed [(Bool.bit x.invPend, 0), (Bool.bit x.invDrop, 1)]
    | 0x2C => packed [(Bool.bit x.susp, 0), (Bool.bit x.ctxPend, 1), (Bool.bit x.dead, 2)]
    | 0x90 => Bool.bit x.ckEn
    | 0x94 => packed [(Bool.bit x.ckPend, 0), (Bool.bit x.forced, 1), (Bool.bit x.rolled, 2), (x.rolls % 256, 8)]
    | 0x98 => half x.ckSeq false
    | 0x9C => half x.ckSeq true
    | 0xA0 => half x.dbgAddr false
    | 0xA4 => half x.dbgAddr true
    | 0xA8 => x.dbgData.toNat
    | 0xAC => packed [(x.dbgOp, 0), (Bool.bit x.dbgForce, 2), (Bool.bit x.dbgGo, 31)]
    | 0xB0 => packed [(Bool.bit x.dbgPend, 0), (x.dbgResult, 1), (Bool.bit x.dbgPois, 3)]
    | _ => 0

/-- A partition's undo-log pair. -/
def Partition.readLog (q : Partition) (rel : Nat) : Nat :=
  let base := q.sizeg + q.ulbase
  let used := 72 * q.undo.length
  match rel with
  | 0x0 => base % 2 ^ 32
  | 0x4 => base / 2 ^ 32
  | 0x8 => used % 2 ^ 32
  | 0xC => used / 2 ^ 32
  | _ => 0

/-- A core's margin registers (R423). -/
def Core.readSkv (c : Core) : Nat → Nat
  | 0x0 => packed [(Bool.bit c.skvEn, 0), (c.tstep, 1), (c.limit, 8), (c.winlog, 16)]
  | 0x4 => packed [(c.cstep, 0), (c.wcount, 4), (c.ceil, 13)]
  | 0x8 => c.replays.toNat % 2 ^ 32
  | 0xC => c.replays.toNat / 2 ^ 32
  | 0x10 => c.esc
  | 0x14 => c.cause
  | _ => 0

/-- CLKRAT (R427). -/
def Core.readRat (c : Core) : Nat := packed [(c.tgt, 0), (c.cur, 8), (c.pcap, 16)]

/-- An inbound window's registers (R438). -/
def Window.read (w : Window) : Nat → Nat
  | 0x0 => packed [(Bool.bit w.en, 0), (Bool.bit w.rd, 1), (Bool.bit w.wr, 2), (Bool.bit w.at_, 3), (w.owner, 4), (w.src, 16),
      (w.base % 4, 30)]
  | 0x4 => w.base / 4
  | 0x8 => packed [(w.size, 0), (w.xrn, 8)]
  | _ => 0

/-- A privileged register. -/
def State.readPf (s : State) (off : Nat) : Nat :=
  if 0x80000 ≤ off ∧ off < 0x80200 then
    let k := (off - 0x80000) / 8
    if off % 8 = 0 then packed [((s.partition k).tenant, 0), (Bool.bit (s.partition k).valid, 6), (Bool.bit (s.busy k), 7)] else 0
  else if 0xA0000 ≤ off ∧ off < 0xA0400 then (s.partition ((off - 0xA0000) / 16)).readLog (off % 16)
  else if 0x100000 ≤ off ∧ off < 0x108000 then s.readBlock ((off - 0x100000) / 0x200) (off % 0x200)
  else if 0x200000 ≤ off ∧ off < 0x20F000 then (s.core ((off - 0x200000) / 0x20)).readSkv (off % 0x20)
  else if 0x210000 ≤ off ∧ off < 0x213C00 then (if off % 8 = 0 then (s.core ((off - 0x210000) / 8)).readRat else 0)
  else if off = 0x218000 then Bool.bit s.boost
  else if off = 0x218004 then s.occause.toNat
  else if 0x218100 ≤ off ∧ off < 0x218140 then
    let d := (off - 0x218100) / 8
    if off % 8 = 0 then packed [(s.girthRate.get 400 d, 0), (Bool.bit (s.girthActive d), 16)] else 0
  else if 0x220000 ≤ off ∧ off < 0x220100 then (s.window ((off - 0x220000) / 16)).read (off % 16)
  else if off = 0x220100 then s.rnzid
  else 0

/-! ### Reads -/

/-- A 32-bit word of BAR0: fn 0 is the physical function, fn p + 1 the virtual function of partition p. -/
def State.readWord (s : State) (fn off : Nat) : Nat :=
  if fn = 0 then s.readPf off
  else match s.vfTenant fn with
    | none => 0
    | some tn => (s.tenant tn).readVf off

/-- A host's read of 4 or 8 aligned bytes. -/
def State.readReg (s : State) (fn off width : Nat) : Dword :=
  if width = 8 then BitVec.ofNat 64 (s.readWord fn off + s.readWord fn (off + 4) * 2 ^ 32) else BitVec.ofNat 64 (s.readWord fn off)

end Sys2Proof.Machine
end

