-- ==== Sys2Proof/Machine/Registers.lean ====
section
/-! DEFINITION. Registers in BAR0 of the PCIe functions: ownership and translation (R17 to R23, R34, R35) and every write that has no
row of its own (R7, R18, R187, R218, R388, R399, R404, R406, R411, R423, R427, R430, R432, R438); rows REGISTER_WRITE,
PARTOWN_WRITE, TNINV_TENANT, TNINV_PAGE, TNINV_DONE and TRANSLATION_WALK. -/

namespace Sys2Proof.Machine

/-! ### Translations (R34, R35) -/

/-- An access or transfer of the tenant that used a translation has not been performed. -/
def State.translated (s : State) (tn : Nat) : Bool :=
  let mine (t : Nat) : Bool := (s.team t).tenant == tn
  s.flights.any (fun f => mine f.team && !f.performed && f.kind != .result && (f.kind == .sweep || !f.loc.isFabric)) ||
    s.awl.any (fun q => mine q.team && q.lanes.any (fun l => !l.loc.isFabric)) ||
    s.ops.any (fun o => mine o.team && !o.finished && (o.kind.segs ++ o.rest).any (fun g => !g.src.isFabric || (g.sb.isNone && !g.dst.isFabric)))

/-- Cached translations of a tenant, or those that cover an address, are removed. -/
def State.dropTlb (s : State) (tn : Nat) (va : Option Nat) : State :=
  { s with tlb := s.tlb.filter (fun e => !(match va with
    | none => e.tenant == tn
    | some a => e.covers tn a)) }

/-- TNINV's stored fields. -/
def tninvMask (v : Dword) : Dword := v &&& 0x800FFFFFFFFFF001

/-- A write of TNINV with START = 1. -/
def State.startInv (s : State) (tn : Nat) (v : Dword) : State :=
  s.updTenant tn (fun x => if x.invPend then { x with invDrop := true } else { x with tninv := tninvMask v, invScope := tninvMask v, invPend := true })

/-- A write of TNINV: with START = 0 it begins no invalidation. -/
def State.writeInv (s : State) (tn : Nat) (v : Dword) : State :=
  if v.getLsbD 63 then s.startInv tn v else s.updTenant tn (fun x => { x with tninv := tninvMask v })

/-- TNINV_TENANT: a write of TNINV with SCOPE = 0. -/
def execTninvTenant (tenant : Nat) (value : Dword) (s : State) : Host.Outcome State Fault Refusal := .next (s.writeInv tenant value)

/-- TNINV_PAGE: a write of TNINV with SCOPE = 1. -/
def execTninvPage (tenant : Nat) (value : Dword) (s : State) : Host.Outcome State Fault Refusal := .next (s.writeInv tenant value)

/-- PARTOWN takes a new owner or VALID: the counters return to 0, the Saddlebags of the clusters are cleared, and no filler is charged to the
new owner for what the old one left (R17, R360, R391, R434). -/
def State.changeOwner (s : State) (partition : Nat) (v : Word) : State :=
  { s with coresLeft := s.coresLeft.filter (fun c => partOf (clusterOf c.1) != partition) }.updPartition partition (fun q =>
    { q with tenant := v.toNat % 64, valid := v.getLsbD 6, counters := [], energyFrac := 0, sbPast := [], ownPend := none })

/-- The partitions whose owner changes once the invalidation for a tenant is done. -/
def State.ownWaiting (s : State) (tn : Nat) : List (Nat × Word) :=
  (List.range 64).filterMap (fun p => if (s.partition p).tenant = tn then (s.partition p).ownPend.map (fun v => (p, v)) else none)

/-- TNINV_DONE: every access that used a removed translation has been performed; the entries are gone, PEND falls, and the writes of
PARTOWN that waited complete, whatever the partition holds by then (log 79). -/
def execTninvDone (tenant : Nat) (s : State) : Host.Outcome State Fault Refusal :=
  let x := s.tenant tenant
  let ws := s.ownWaiting tenant
  if (!x.invPend && ws.isEmpty) || s.translated tenant then s.idle
  else
    let va := if x.invScope.getLsbD 0 && ws.isEmpty then some (bitsOf x.invScope.toNat 51 12 * 4096) else none
    let s := (s.dropTlb tenant va).updTenant tenant (fun x => { x with invPend := false })
    .next (ws.foldl (fun s w => s.changeOwner w.1 w.2) s)

/-- TRANSLATION_WALK: a walk for a page finishes; the cluster holds what it found. A poisoned entry is a fault of the tenant. -/
def execTranslationWalk (cluster tenant page : Nat) (s : State) : Host.Outcome State Fault Refusal :=
  match s.translate cluster tenant (page * 4096) with
  | (.error .walkPoison, s) => .next (s.escalate tenant)
  | (_, s) => .next s

/-! ### Ownership (R17, R18) -/

/-- PARTOWN_WRITE: ignored while BUSY; a change of owner ends the old owner's translations, as TNINV does, and clears the counters and the
Saddlebags. It completes when the invalidation does, which shows in PEND. A later write while one waits takes its place, or ends the wait
where it names the owner as it stands (log 79). -/
def execPartownWrite (partition : Nat) (value : Word) (s : State) : Host.Outcome State Fault Refusal :=
  let p := s.partition partition
  if s.busy partition then .next s
  else if p.tenant = value.toNat % 64 ∧ p.valid = value.getLsbD 6 then .next (s.updPartition partition (fun q => { q with ownPend := none }))
  else if p.valid && s.translated p.tenant then
    .next ((s.updPartition partition (fun q => { q with ownPend := some value })).updTenant p.tenant (fun x => { x with invPend := true, invScope := 0 }))
  else .next ((if p.valid then s.dropTlb p.tenant none else s).changeOwner partition value)

/-! ### Tenant registers in a virtual function -/

/-- QSTAT written with ones. -/
def Queue.clear (q : Queue) (v : Nat) : Queue :=
  { q with badtail := q.badtail && v % 2 == 0, badcfg := q.badcfg && v / 2 % 2 == 0, ringfault := q.ringfault && v / 4 % 2 == 0 }

/-- A write to a queue's registers (R187, R188). -/
def State.putQueue (s : State) (tn q rel v : Nat) : Host.Outcome State Fault Refusal :=
  let k := (s.tenant tn).queues.get {} q
  match rel with
  | 0 => .next (if k.en then s else s.updQueue tn q (fun k => { k with base := bitsOf v 51 7 * 128 }))
  | 0x8 => execQueueEnable tn q (BitVec.ofNat 32 v) s
  | 0xC => execQtailWrite tn q (BitVec.ofNat 32 v) s
  | 0x14 => .next (s.updQueue tn q (fun k => k.clear v))
  | _ => .next s

/-- EVRSTAT written with ones (R388). -/
def Tenant.clearRing (x : Tenant) (v : Nat) : Tenant :=
  let x := if v % 2 = 1 then { x with evOverflow := false, evDrops := 0 } else x
  { x with evFault := x.evFault && v / 2 % 2 == 0, evBadcfg := x.evBadcfg && v / 4 % 2 == 0 }

/-- A write to the event ring's registers (R388). -/
def State.putRing (s : State) (tn rel v : Nat) : Host.Outcome State Fault Refusal :=
  let x := s.tenant tn
  match rel with
  | 0 => .next (if x.evEn then s else s.updTenant tn (fun x => { x with evBase := BitVec.ofNat 64 (bitsOf v 51 5 * 32) }))
  | 0x8 => execEventRingEnable tn (BitVec.ofNat 32 v) s
  | 0xC => .next (if v % 2 ^ 16 < 2 ^ x.evLog then s.updTenant tn (fun x => { x with evHead := v % 2 ^ 16 }) else s)
  | 0x14 => .next (s.updTenant tn (fun x => x.clearRing v))
  | _ => .next s

/-- A write to an island-set slot's registers (R218, R220). -/
def State.putSlot (s : State) (tn k rel v : Nat) : Host.Outcome State Fault Refusal :=
  let x := s.islSlot tn k
  match rel with
  | 0 => .next (if x.en then s else s.updSlot tn k (fun x => { x with addr := bitsOf v 51 8 * 256 }))
  | 0x8 =>
    .next (s.writeIsctl tn k v)
  | 0xC => .next (s.updSlot tn k (fun x => { x with stat := x.stat.filter (fun e => v / 2 ^ e.1 % 2 == 0) }))
  | _ => .next s

/-- A write to a tenant register (R187, R218, R388, R399). -/
def State.putVf (s : State) (tn off v : Nat) : Host.Outcome State Fault Refusal :=
  if 0x1000 ≤ off ∧ off < 0x2000 then s.putQueue tn ((off - 0x1000) / 0x40) (off % 0x40) v
  else if 0x2000 ≤ off ∧ off < 0x2018 then s.putRing tn (off - 0x2000) v
  else if off = 0x2800 then
    .next (s.updTenant tn (fun x => { x with trapEnt := BitVec.ofNat 64 (v % 2 + bitsOf v 51 2 * 4) }))
  else if off = 0x2808 then .next (s.updTenant tn (fun x => { x with dbgAll := v % 2 == 1, dbgBrk := v / 2 % 2 == 1 }))
  else if 0x3000 ≤ off ∧ off < 0x3200 then s.putSlot tn ((off - 0x3000) / 0x20) (off % 0x20) v
  else .next s

/-! ### Privileged registers in the physical function -/

/-- CTXCTL (R406). -/
def State.putCtx (s : State) (tn v : Nat) : Host.Outcome State Fault Refusal :=
  if v / 4 % 2 = 1 then execContextKill tn s
  else if v % 2 = 1 then execContextSuspend tn s
  else if v / 2 % 2 = 1 then execContextResume tn s
  else .next s

/-- CKCTL (R411, R415). -/
def State.putCk (s : State) (tn v : Nat) : Host.Outcome State Fault Refusal :=
  let x := s.tenant tn
  match x.ckEn, v % 2 == 1 with
  | false, true => execCheckpointEnable tn s
  | true, false => execCheckpointDisable tn s
  | _, _ => if v / 4 % 2 = 1 then execRollback tn s else if v / 2 % 2 = 1 then execCheckpointTake tn s else .next s

/-- DBGCMD (R404). -/
def State.putDbg (s : State) (tn v : Nat) : Host.Outcome State Fault Refusal :=
  let op := v % 4
  let force := v / 4 % 2 == 1
  if v / 2 ^ 31 % 2 = 1 ∧ op = 1 then execDbgRead tn force s
  else if v / 2 ^ 31 % 2 = 1 ∧ op = 2 then execDbgWrite tn force s
  else if v / 2 ^ 31 % 2 = 1 ∧ (s.tenant tn).dbgPend = true then .next s
  else .next (s.updTenant tn (fun x => { x with dbgOp := op, dbgForce := force, dbgGo := v / 2 ^ 31 % 2 == 1 }))

/-- A write to a register of a tenant's privileged block. -/
def State.putBlock (s : State) (tn rel v : Nat) : Host.Outcome State Fault Refusal :=
  let set (f : Tenant → Tenant) : Host.Outcome State Fault Refusal := .next (s.updTenant tn f)
  if 0x40 ≤ rel ∧ rel < 0x90 then set (fun x => { x with fwperm := x.fwperm.put 0 ((rel - 0x40) / 4) (BitVec.ofNat 32 v) })
  else match rel with
    | 0 => set (fun x => { x with tnptb := BitVec.ofNat 64 (v % 2 + bitsOf v 51 16 * 65536) })
    | 0x8 => set (fun x => { x with fwbase := BitVec.ofNat 64 (v % 2 + bitsOf v 51 30 * 2 ^ 30) })
    | 0x18 => .next (s.writeInv tn (BitVec.ofNat 64 v))
    | 0x20 => set (fun x => { x with invDrop := x.invDrop && v / 2 % 2 == 0 })
    | 0x28 => s.putCtx tn v
    | 0x90 => s.putCk tn v
    | 0x94 => set (fun x => { x with forced := x.forced && v / 2 % 2 == 0, rolled := x.rolled && v / 4 % 2 == 0 })
    | 0xA0 => set (fun x => { x with dbgAddr := BitVec.ofNat 64 (bitsOf v 51 2 * 4) })
    | 0xA8 => set (fun x => { x with dbgData := BitVec.ofNat 32 v })
    | 0xAC => s.putDbg tn v
    | _ => .next s

/-- ULBASE: ignored while the owner's CKCTL.EN is 1 (R411). -/
def State.putLog (s : State) (p v : Nat) : State :=
  let q := s.partition p
  if q.valid && (s.tenant q.tenant).ckEn then s
  else
    let n := v % 16
    s.updPartition p (fun q => { q with sizeg := if 1 ≤ n ∧ n ≤ 8 then n else 1, ulbase := bitsOf v 51 30 * 2 ^ 30 })

/-- RNZWINA and RNZWINB (R438). -/
def Window.setA (w : Window) (v : Nat) : Window :=
  { w with en := v % 2 == 1, rd := v / 2 % 2 == 1, wr := v / 4 % 2 == 1, at_ := v / 8 % 2 == 1, owner := bitsOf v 9 4,
           src := bitsOf v 27 16, base := bitsOf v 51 30 }

def Window.setB (w : Window) (v : Nat) : Window :=
  let n := v % 256
  let x := bitsOf v 19 8
  { w with size := if n = 0 then 1 else n, xrn := if x = 0 then 1 else x }

/-- RATE as a write stores it (R432). -/
def rateOf (v : Nat) : Nat := if 50 ≤ v % 1024 ∧ v % 1024 ≤ 400 then v % 1024 else 400

/-- A write to a privileged register (R18, R404, R406, R411, R423, R427, R430, R432, R438). -/
def State.putPf (s : State) (off v : Nat) : Host.Outcome State Fault Refusal :=
  if 0x80000 ≤ off ∧ off < 0x80200 then
    (if off % 8 = 0 then execPartownWrite ((off - 0x80000) / 8) (BitVec.ofNat 32 v) s else .next s)
  else if 0xA0000 ≤ off ∧ off < 0xA0400 then .next (if off % 16 = 0 then s.putLog ((off - 0xA0000) / 16) v else s)
  else if 0x100000 ≤ off ∧ off < 0x108000 then s.putBlock ((off - 0x100000) / 0x200) (off % 0x200) v
  else if 0x200000 ≤ off ∧ off < 0x20F000 then
    let c := (off - 0x200000) / 0x20
    if off % 0x20 = 0 then execSkvctlWrite c (BitVec.ofNat 32 v) s
    else .next (if off % 0x20 = 0x14 then s.writeCause c v else s)
  else if 0x210000 ≤ off ∧ off < 0x213C00 then
    (if off % 8 = 0 then execClkratWrite ((off - 0x210000) / 8) (BitVec.ofNat 32 v) s else .next s)
  else if off = 0x218000 then .next { s with boost := v % 2 == 1 }
  else if off = 0x218004 then .next { s with occause := BitVec.ofNat 11 v }
  else if 0x218100 ≤ off ∧ off < 0x218140 then
    .next (if off % 8 = 0 then { s with girthRate := s.girthRate.put 400 ((off - 0x218100) / 8) (rateOf v) } else s)
  else if 0x220000 ≤ off ∧ off < 0x220100 then
    let n := (off - 0x220000) / 16
    .next (if off % 16 = 0 then s.updWindow n (fun w => w.setA v) else if off % 16 = 8 then s.updWindow n (fun w => w.setB v) else s)
  else .next s

/-! ### REGISTER_WRITE -/

/-- The registers of 64 bits, by the offset they begin at: PF, then VF. -/
def wideReg (fn off : Nat) : Bool :=
  if fn = 0 then
    (decide (0xA0000 ≤ off ∧ off < 0xA0400)) ||
      (decide (0x100000 ≤ off ∧ off < 0x108000) && [0x0, 0x8, 0x18, 0x98, 0xA0].contains (off % 0x200)) ||
      (decide (0x200000 ≤ off ∧ off < 0x20F000) && off % 0x20 == 8) || (decide (0x220000 ≤ off ∧ off < 0x220100) && off % 16 == 0)
  else
    (decide (0x1000 ≤ off ∧ off < 0x2000) && off % 0x40 == 0) || off == 0x2000 || off == 0x2800 ||
      (decide (0x3000 ≤ off ∧ off < 0x3200) && (off % 0x20 == 0 || off % 0x20 == 0x10))

/-- A write of one whole register. -/
def State.putReg (s : State) (fn off v : Nat) : Host.Outcome State Fault Refusal :=
  if fn = 0 then s.putPf off v
  else match s.vfTenant fn with
    | none => .next s
    | some tn => s.putVf tn off v

/-- One write after another. -/
def thenWrite (r : Host.Outcome State Fault Refusal) (f : State → Host.Outcome State Fault Refusal) : Host.Outcome State Fault Refusal :=
  match r with
  | .next s => f s
  | r => r

/-- REGISTER_WRITE: a write of one half of a 64-bit register leaves the other as it reads (log 59). fn 0 is the physical function, fn p + 1 the virtual function of partition p. -/
def execRegisterWrite (fn off width : Nat) (value : Dword) (s : State) : Host.Outcome State Fault Refusal :=
  let v := value.toNat
  let lo := v % 2 ^ 32
  if width = 8 ∧ off % 8 = 0 then
    if wideReg fn off then s.putReg fn off v
    else thenWrite (s.putReg fn off lo) (fun s => s.putReg fn (off + 4) (v / 2 ^ 32))
  else if width = 4 ∧ off % 4 = 0 then
    let base := off / 8 * 8
    if wideReg fn base then
      let old := (s.readReg fn base 8).toNat
      s.putReg fn base (if off = base then old / 2 ^ 32 * 2 ^ 32 + lo else lo * 2 ^ 32 + old % 2 ^ 32)
    else s.putReg fn off lo
  else s.idle

end Sys2Proof.Machine
end

