-- ==== Sys2Proof/Machine/Sync.lean ====
section
/-! DEFINITION. Class M, fences and waits on counters (R88, R344 to R346). -/

namespace Sys2Proof.Machine

/-- The agent scope a fence acts at: in a DET launch .clus and .part act as .dev (R87). -/
def effScope (det : Bool) (scope : Nat) : Nat := if det && (scope == 2 || scope == 3) then 4 else scope

/-- Kinds of R88. -/
def fAcquires (kind : BitVec 2) : Bool := kind != 1#2
def fReleases (kind : BitVec 2) : Bool := kind != 0#2

/-- Whether a flight's storage lies in a storage scope (R85). -/
def inStorage (storage : BitVec 2) (l : Loc) : Bool := storage == 3#2 || (if l.isFabric then storage == 0#2 else storage == 1#2)

/-- An earlier access of the thread that the fence waits for: any for a release, a read for an acquire (log 19). A counted access
is none of its business (R88, R93). -/
def Flight.holdsFence (f : Flight) (t : Nat) (m : Member) (storage kind : BitVec 2) : Bool :=
  f.team == t && f.group == m.1 && f.lane == m.2 && !f.performed && f.op.isNone &&
    (f.kind == .sweep || (inStorage storage f.loc && (f.kind == .load || (f.kind == .store && fReleases kind))))

/-- An implied fence of storage scope .all still waits for an access of the bundle's threads (R92). -/
def State.fenceBusy (s : State) (c : Ctx) (kind : BitVec 2) : Bool :=
  c.mems.any (fun m => s.flights.any (fun f => f.holdsFence c.team m 3 kind))

/-- A fence that exposes its team (R409). -/
def fenceExposes (det : Bool) (scope : Nat) (kind : BitVec 2) : Bool := fReleases kind && decide (4 ≤ effScope det scope)

/-- FENCE. Memory has one copy of every byte, so a performed access is performed for every thread; REMOTE then asks for nothing
more (R346). An acquire wider than .clus over global memory clears the cluster's global-line cache. -/
def execFence (remote : Bool) (storage : BitVec 2) (scope : BitVec 3) (kind : BitVec 2) (s : State) :
    Host.Outcome State Fault Refusal :=
  runWord (.fence remote storage scope kind) s fun c s =>
    let glob := storage == 1#2 || storage == 3#2
    let det := c.lpb.det
    if det && fAcquires kind && glob && decide (2 ≤ scope.toNat) && !s.holdsTicket c.team then waitTicket c s
    else if c.mems.any (fun m => s.flights.any (fun f => f.holdsFence c.team m storage kind)) then stalled s
    else
      let s := s.exposeIf c.team (fenceExposes det scope.toNat kind)
      done (if fAcquires kind && glob && decide (3 ≤ effScope det scope.toNat) then s.clearCache c.cluster else s)

/-- A wait on counters: it holds the slice, or, when it covers a copy paused for the ticket, frees it (R55, R344). cover: the threshold of
the wait on c.cpy, if it has one. -/
def waitWord (i : Instr) (ok : Group → Bool) (cover : Option Nat) (s : State) : Host.Outcome State Fault Refusal :=
  runWord i s fun c s =>
    if c.b.groups.all (fun g => ok (s.group c.team g)) then done s
    else match cover with
      | none => stalled s
      | some n => waitCopy c n s

def execWaitc (ctr : BitVec 2) (n : BitVec 8) (s : State) : Host.Outcome State Fault Refusal :=
  waitWord (.waitc ctr n) (fun g => decide (g.count ctr.toNat ≤ n.toNat)) (if ctr = 0#2 then some n.toNat else none) s

def execDrain (s : State) : Host.Outcome State Fault Refusal :=
  waitWord .drain (fun g => (List.range 4).all (fun k => g.count k == 0)) (some 0) s

end Sys2Proof.Machine
end

