-- ==== Sys2Proof/Machine/Reins.lean ====
section
/-! DEFINITION. Class M, reins (R133 to R140, R349, R350): PUSH, POP, their forms that do not block, REIN.OPEN and REIN.CLOSE, and
the answers of an owner on another member. -/

namespace Sys2Proof.Machine

/-- The threads of a bundle no longer wait at a rein. -/
def leaveRein (c : Ctx) (s : State) : State :=
  c.mems.foldl (fun s m => s.updThread c.team m.1 m.2 (fun x => { x with rein := none, arrived := 0 })) s

/-- The bundle's threads wait at a rein, in the order in which they came. -/
def waitRein (c : Ctx) (w : ReinWait) (s : State) : Res :=
  let fresh := c.mems.any (fun m => (s.thread c.team m.1 m.2).rein != some w)
  let (id, s) := s.fresh
  let s := if fresh then
      c.mems.foldl (fun s m => s.updThread c.team m.1 m.2 (fun x => { x with rein := some w, arrived := id })) s
    else s
  { s := s, after := .block (if w.pop then .pop else .push) }

/-- The place of a bundle in the order at a rein: that of its threads, or last. -/
def arrivalOf (c : Ctx) (s : State) (w : ReinWait) : Nat :=
  let th := s.thread c.team c.low.1 c.low.2
  if th.rein = some w then th.arrived else s.nextId

/-- Ask the owning team's cluster (R140) and wait at issue for its reply. -/
def askRein (c : Ctx) (s : State) : Res :=
  stalled (s.updCore c.core (fun x => { x with bundle := x.bundle.map (fun b => { b with asked := true }) }))

/-- The status a push gets from a rein: 0 it may push, 1 no allowance, 2 pending, 3 closed, 4 no such port. -/
def State.pushStatus (s : State) (t k off port : Nat) : Nat :=
  match s.reinState t k off, s.memberTeam t k with
  | .closed, _ => 3
  | .opened, some u =>
    if cfgPorts (s.reinCfg u off) ≤ port then 4 else if 0 < s.reinAllow u off port then 0 else 1
  | _, _ => 2

/-- A granted push to another member: counted on c.col, the handle's write on its way (R140). -/
def sendPush (c : Ctx) (k off port : Nat) (h : Word) (s : State) : State :=
  let u := (s.memberTeam c.team k).getD 0
  (s.startOp c.team c.b.groups cCol (.push u off port h) true []).2.exposeIf c.team true

/-- PUSH. -/
def execPush (a : BitVec 9) (b : STail) (s : State) : Host.Outcome State Fault Refusal :=
  runWord (.push a b) s fun c s =>
    let g := s.group c.team c.g
    let n := reinName (g.sGet a.toNat)
    let h := g.sGet b.reg
    let x := s.team c.team
    let k := x.reinMember n
    let w : ReinWait := ⟨false, k, n.off, n.port⟩
    let own := x.reinOwn n
    let free := s.reinFirst c.team w (arrivalOf c s w)
    if x.reinBad n then c.all s .illegalOperand
    else if !s.reinAllowed c.team k true then c.all s .access 3 (s.reinVa c.team k n.off)
    else if s.fenceBusy c 1 then stalled s
    else if own then
      match s.pushStatus c.team k n.off n.port with
      | 0 => if free then done ((leaveRein c s).reinPush c.team n.off n.port h) else waitRein c w s
      | 3 => c.all s .reinClosed
      | 4 => c.all s .illegalOperand
      | _ => waitRein c w s
    else if s.counterFull c.team c.b.groups cCol then stalled s
    else match c.b.rein with
      | none => if s.pushReady c.team k n.off n.port && free then askRein c s else waitRein c w s
      | some 0 => done (sendPush c k n.off n.port h (leaveRein c s))
      | some 3 => c.all s .reinClosed
      | some 4 => c.all s .illegalOperand
      | some _ => waitRein c w s

/-- PUSHT: the status as a uniform word; only status 0 carries the implied fence. -/
def execPusht (d a : BitVec 9) (b : STail) (s : State) : Host.Outcome State Fault Refusal :=
  runWord (.pusht d a b) s fun c s =>
    let g := s.group c.team c.g
    let n := reinName (g.sGet a.toNat)
    let h := g.sGet b.reg
    let x := s.team c.team
    let k := x.reinMember n
    let answer (s : State) (v : Nat) : Res := done (s.uniform32 c d.toNat (BitVec.ofNat 32 v))
    if x.reinBad n then c.all s .illegalOperand
    else if !s.reinAllowed c.team k true then c.all s .access 3 (s.reinVa c.team k n.off)
    else if x.reinOwn n then
      match s.pushStatus c.team k n.off n.port with
      | 0 => if s.fenceBusy c 1 then stalled s else answer (s.reinPush c.team n.off n.port h) 0
      | 4 => c.all s .illegalOperand
      | v => answer s v
    else if s.counterFull c.team c.b.groups cCol then stalled s
    else match c.b.rein with
      | none => askRein c s
      | some 0 => if s.fenceBusy c 1 then stalled s else answer (sendPush c k n.off n.port h s) 0
      | some 4 => c.all s .illegalOperand
      | some v => answer s v

/-- The acquire at .dev that a pop carries: the cluster's cache is cleared (R92, R346). -/
def acquireDev (c : Ctx) (s : State) : State := s.clearCache c.cluster

/-- POP. -/
def execPop (d a : BitVec 9) (s : State) : Host.Outcome State Fault Refusal :=
  runWord (.pop d a) s fun c s =>
    let n := reinName ((s.group c.team c.g).sGet a.toNat)
    let x := s.team c.team
    let w : ReinWait := ⟨true, x.member, n.off, 0⟩
    if x.reinBad n || !x.reinOwn n then c.all s .illegalOperand
    else if !s.reinAllowed c.team x.member false then c.all s .access 1 (s.reinVa c.team x.member n.off)
    else match s.reinState c.team x.member n.off with
      | .pending => waitRein c w s
      | st =>
        if s.reinCount c.team n.off = 0 then (if st == .closed then c.all s .reinClosed else waitRein c w s)
        else if !s.reinFirst c.team w (arrivalOf c s w) then waitRein c w s
        else if s.fenceBusy c 0 then stalled s
        else
          let (h, s) := (leaveRein c s).reinPop c.team n.off
          done ((acquireDev c s).addResult c.team c.g c.low.2 true none [⟨d.toNat, h, false⟩])

/-- POPT; only status 0 carries the implied fence: handle and status as pending write-backs. -/
def execPopt (d a : BitVec 9) (s : State) : Host.Outcome State Fault Refusal :=
  runWord (.popt d a) s fun c s =>
    let n := reinName ((s.group c.team c.g).sGet a.toNat)
    let x := s.team c.team
    let answer (s : State) (h : Word) (v : Nat) : Res :=
      done (s.addResult c.team c.g c.low.2 true none [⟨d.toNat, h, false⟩, ⟨d.toNat + 1, BitVec.ofNat 32 v, false⟩])
    if x.reinBad n || !x.reinOwn n then c.all s .illegalOperand
    else if !s.reinAllowed c.team x.member false then c.all s .access 1 (s.reinVa c.team x.member n.off)
    else match s.reinState c.team x.member n.off with
      | .pending => answer s 0 2
      | st =>
        if s.reinCount c.team n.off = 0 then answer s 0 (if st == .closed then 3 else 1)
        else if s.fenceBusy c 0 then stalled s
        else
          let (h, s) := s.reinPop c.team n.off
          answer (acquireDev c s) h 0

/-- The limits of R136 on a new rein. -/
def State.reinOpenBad (s : State) (t : Nat) (n : ReinName) (cfg : Nat) : Bool :=
  let x := s.team t
  let size := reinSize (cfgSlots cfg)
  x.reinBad n || !x.reinOwn n || decide (cfgSlots cfg < 4 ∨ 256 < cfgSlots cfg) || decide (cfgAllow cfg < 1 ∨ 256 < cfgAllow cfg) ||
    decide (2 ^ 22 ≤ cfg) || decide (cfgSlots cfg < cfgPorts cfg * cfgAllow cfg) ||
    decide ((s.lpbOf t).fabric < n.off + size) ||
    x.guard.any (fun o => decide (n.off < o + reinSize (s.reinSlots t o) ∧ o < n.off + size) &&
      !(o == n.off && s.reinState t x.member o == .closed && s.reinCount t o == 0)) ||
    decide (64 ≤ x.guard.length)

/-- The block as REIN.OPEN writes it: its first 64 bytes. The ring's bytes stay as they stand, and a port at or above NP has no allowance
(log 65). -/
def reinHeader (cfg : Nat) : List Byte :=
  leBytes 4 1 ++ leBytes 4 cfg ++ leBytes 8 0 ++
    ((List.range 16).map (fun p => leBytes 2 (if p < cfgPorts cfg then cfgAllow cfg else 0))).flatten ++ leBytes 16 0

/-- REIN.OPEN. -/
def execReinOpen (a : BitVec 9) (b : STail) (s : State) : Host.Outcome State Fault Refusal :=
  runWord (.reinOpen a b) s fun c s =>
    let g := s.group c.team c.g
    let n := reinName (g.sGet a.toNat)
    let cfg := (g.sGet b.reg).toNat
    if s.reinOpenBad c.team n cfg then c.all s .illegalOperand
    else
      let x := s.team c.team
      let s := s.putFab x.cluster (s.reinKey c.team n.off) (reinHeader cfg)
      done (s.updTeam c.team (fun x => { x with guard := if x.guard.contains n.off then x.guard else x.guard ++ [n.off] }))

/-- REIN.CLOSE. -/
def execReinClose (a : BitVec 9) (s : State) : Host.Outcome State Fault Refusal :=
  runWord (.reinClose a) s fun c s =>
    let n := reinName ((s.group c.team c.g).sGet a.toNat)
    let x := s.team c.team
    if x.reinBad n || !x.reinOwn n then c.all s .illegalOperand
    else match s.reinState c.team x.member n.off with
      | .pending => c.all s .illegalOperand
      | .opened => done (s.reinPut c.team n.off 0 4 2)
      | .closed => done s

/-! ### The owner's answers -/

/-- The name a waiting PUSH or PUSHT holds, by its word. -/
def pushName (s : State) (b : Bundle) : Option ReinName :=
  match decodeWords (b.words.getD b.pos 0) b.words[b.pos + 1]? with
  | .ok (.push a _) => some (reinName ((s.group b.team b.group).sGet a.toNat))
  | .ok (.pusht _ a _) => some (reinName ((s.group b.team b.group).sGet a.toNat))
  | _ => none

/-- REIN_ALLOWANCE_GRANT: the owner answers the bundle that asks on a core; with status 0 one unit of the allowance is taken. -/
def execReinAllowanceGrant (core : Nat) (s : State) : Host.Outcome State Fault Refusal :=
  match (s.core core).bundle with
  | none => s.idle
  | some b =>
    match pushName s b with
    | none => s.idle
    | some n =>
      if !b.asked || b.rein.isSome then s.idle
      else
        let k := (s.team b.team).reinMember n
        let v := s.pushStatus b.team k n.off n.port
        let u := (s.memberTeam b.team k).getD 0
        let s := if v = 0 then s.setAllow u n.off n.port (s.reinAllow u n.off n.port - 1) else s
        .next (s.setBundle core (some { b with rein := some v, stalled := false }))

/-- REIN_REMOTE_WRITE: the handle of a granted push enters the ring, and the push completes on c.col. A team that has ended
has discarded the ring; a rein closed since the grant, or opened again, takes the handle where its block stands (log 66). -/
def execReinRemoteWrite (op : Nat) (s : State) : Host.Outcome State Fault Refusal :=
  match s.op op with
  | none => s.idle
  | some o =>
    match o.kind with
    | .push u off port h =>
      if o.finished then s.idle
      else
        let s := if (s.team u).live && (s.team u).guard.contains off then s.reinStore u off port h else s
        .next (s.finishNow op)
    | _ => s.idle

end Sys2Proof.Machine
end

