-- ==== Sys2Proof/Machine/Scalar.lean ====
section
/-! DEFINITION. Class S, moves and uniform arithmetic (R294 to R299): one result per bundle, written to sd and to the latch of every
lane. -/

namespace Sys2Proof.Machine

/-- A uniform word with a 32-bit result (R294). -/
def uniformWord (i : Instr) (d : BitVec 9) (f : Group → Word) (s : State) : Host.Outcome State Fault Refusal :=
  runWord i s fun c s => done (s.uniform32 c d.toNat (f (s.group c.team c.g)))

/-- Two register operands (R296). -/
def uniformWord2 (i : Instr) (d a : BitVec 9) (b : STail) (f : Word → Word → Word) (s : State) :
    Host.Outcome State Fault Refusal :=
  uniformWord i d (fun g => f (g.sGet a.toNat) (g.sGet b.reg)) s

/-! ### Moves and constants (R295) -/

def execSmovi (d : BitVec 9) (imm : BitVec 16) (s : State) : Host.Outcome State Fault Refusal :=
  uniformWord (.smovi d imm) d (fun _ => imm.signExtend 32) s

def execSmovh (d : BitVec 9) (imm : BitVec 16) (s : State) : Host.Outcome State Fault Refusal :=
  uniformWord (.smovh d imm) d (fun g => imm ++ (g.sGet d.toNat).setWidth 16) s

def execSaddi (d : BitVec 9) (imm : BitVec 16) (s : State) : Host.Outcome State Fault Refusal :=
  uniformWord (.saddi d imm) d (fun g => g.sGet d.toNat + imm.signExtend 32) s

def execSldc (d : BitVec 9) (lit : Word) (s : State) : Host.Outcome State Fault Refusal :=
  uniformWord (.sldc d lit) d (fun _ => lit) s

def execSmov (d a : BitVec 9) (s : State) : Host.Outcome State Fault Refusal :=
  uniformWord (.smov d a) d (fun g => g.sGet a.toNat) s

/-! ### Counts (R297) -/

def execSclz (d a : BitVec 9) (s : State) : Host.Outcome State Fault Refusal :=
  uniformWord (.sclz d a) d (fun g => BitVec.ofNat 32 (clz 32 (g.sGet a.toNat).toNat)) s

def execSpopc (d a : BitVec 9) (s : State) : Host.Outcome State Fault Refusal :=
  uniformWord (.spopc d a) d (fun g => BitVec.ofNat 32 (popCount 32 (g.sGet a.toNat).toNat)) s

/-! ### Two operands (R296) -/

def saddVal (a b : Word) : Word := a + b
def ssubVal (a b : Word) : Word := a - b
def smulVal (a b : Word) : Word := a * b
/-- Bits [63:32] of the unsigned product. -/
def smulhVal (a b : Word) : Word := BitVec.ofNat 32 (a.toNat * b.toNat / 2 ^ 32)
/-- Bits [63:32] of the signed product. -/
def smulhS32Val (a b : Word) : Word := BitVec.ofInt 32 (a.toInt * b.toInt / 2 ^ 32)
def sandVal (a b : Word) : Word := a &&& b
def sorVal (a b : Word) : Word := a ||| b
def sxorVal (a b : Word) : Word := a ^^^ b
def sandnVal (a b : Word) : Word := a &&& ~~~b
def sshlVal (a b : Word) : Word := if 32 ≤ b.toNat then 0 else a <<< b.toNat
def sshrVal (a b : Word) : Word := if 32 ≤ b.toNat then 0 else a >>> b.toNat
/-- A count of 32 or more fills with the sign bit, as a count of 31 does. -/
def ssarVal (a b : Word) : Word := a.sshiftRight (min b.toNat 31)
def sminVal (a b : Word) : Word := if b.slt a then b else a
def smaxVal (a b : Word) : Word := if a.slt b then b else a
def sminzVal (a b : Word) : Word := if b < a then b else a
def smaxzVal (a b : Word) : Word := if a < b then b else a

def execSadd (d a : BitVec 9) (b : STail) (s : State) : Host.Outcome State Fault Refusal :=
  uniformWord2 (.sadd d a b) d a b saddVal s

def execSsub (d a : BitVec 9) (b : STail) (s : State) : Host.Outcome State Fault Refusal :=
  uniformWord2 (.ssub d a b) d a b ssubVal s

def execSmul (d a : BitVec 9) (b : STail) (s : State) : Host.Outcome State Fault Refusal :=
  uniformWord2 (.smul d a b) d a b smulVal s

def execSmulh (d a : BitVec 9) (b : STail) (s : State) : Host.Outcome State Fault Refusal :=
  uniformWord2 (.smulh d a b) d a b smulhVal s

def execSmulhS32 (d a : BitVec 9) (b : STail) (s : State) : Host.Outcome State Fault Refusal :=
  uniformWord2 (.smulhS32 d a b) d a b smulhS32Val s

def execSand (d a : BitVec 9) (b : STail) (s : State) : Host.Outcome State Fault Refusal :=
  uniformWord2 (.sand d a b) d a b sandVal s

def execSor (d a : BitVec 9) (b : STail) (s : State) : Host.Outcome State Fault Refusal :=
  uniformWord2 (.sor d a b) d a b sorVal s

def execSxor (d a : BitVec 9) (b : STail) (s : State) : Host.Outcome State Fault Refusal :=
  uniformWord2 (.sxor d a b) d a b sxorVal s

def execSandn (d a : BitVec 9) (b : STail) (s : State) : Host.Outcome State Fault Refusal :=
  uniformWord2 (.sandn d a b) d a b sandnVal s

def execSshl (d a : BitVec 9) (b : STail) (s : State) : Host.Outcome State Fault Refusal :=
  uniformWord2 (.sshl d a b) d a b sshlVal s

def execSshr (d a : BitVec 9) (b : STail) (s : State) : Host.Outcome State Fault Refusal :=
  uniformWord2 (.sshr d a b) d a b sshrVal s

def execSsar (d a : BitVec 9) (b : STail) (s : State) : Host.Outcome State Fault Refusal :=
  uniformWord2 (.ssar d a b) d a b ssarVal s

def execSmin (d a : BitVec 9) (b : STail) (s : State) : Host.Outcome State Fault Refusal :=
  uniformWord2 (.smin d a b) d a b sminVal s

def execSmax (d a : BitVec 9) (b : STail) (s : State) : Host.Outcome State Fault Refusal :=
  uniformWord2 (.smax d a b) d a b smaxVal s

def execSminz (d a : BitVec 9) (b : STail) (s : State) : Host.Outcome State Fault Refusal :=
  uniformWord2 (.sminz d a b) d a b sminzVal s

def execSmaxz (d a : BitVec 9) (b : STail) (s : State) : Host.Outcome State Fault Refusal :=
  uniformWord2 (.smaxz d a b) d a b smaxzVal s

/-! ### Compare, select, 64 bits (R298, R299) -/

/-- The conditions of SCMP (R282, R298). -/
def scmpHolds (cond : Nat) (a b : Word) : Bool :=
  match cond with
  | 0 => a == b
  | 1 => a != b
  | 2 => a.slt b
  | 3 => a.sle b
  | 4 => b.slt a
  | 5 => b.sle a
  | 6 => a.ult b
  | _ => a.ule b

def execScmp (d a : BitVec 9) (e : SExt) (s : State) : Host.Outcome State Fault Refusal :=
  uniformWord (.scmp d a e) d
    (fun g => if scmpHolds e.cond.toNat (g.sGet a.toNat) (g.sGet e.sb.toNat) then 1 else 0) s

def execSsel (d a : BitVec 9) (e : SExt) (s : State) : Host.Outcome State Fault Refusal :=
  uniformWord (.ssel d a e) d
    (fun g => if g.sGet e.sc.toNat ≠ 0 then g.sGet a.toNat else g.sGet e.sb.toNat) s

/-- A uniform word over register pairs (R299). -/
def uniformPairWord (i : Instr) (d a : BitVec 9) (b : STail) (f : Dword → Dword → Dword) (s : State) :
    Host.Outcome State Fault Refusal :=
  runWord i s fun c s =>
    let g := s.group c.team c.g
    done (s.uniform64 c d.toNat (f (g.sPair a.toNat) (g.sPair b.reg)))

def execSadd64 (d a : BitVec 9) (b : STail) (s : State) : Host.Outcome State Fault Refusal :=
  uniformPairWord (.sadd64 d a b) d a b (fun x y => x + y) s

def execSsub64 (d a : BitVec 9) (b : STail) (s : State) : Host.Outcome State Fault Refusal :=
  uniformPairWord (.ssub64 d a b) d a b (fun x y => x - y) s

end Sys2Proof.Machine
end

