-- ==== Sys2Proof/Machine/Sweep.lean ====
section
/-! DEFINITION. Collision queries (R237 to R240, R351): the exact box test, the traversal of one lane, SWEEP and its result. -/

namespace Sys2Proof.Machine

/-! ### The box test (R238) -/

/-- A finite binary32 value in units of 2^−149. -/
def f32Int (x : Nat) : Int :=
  match fmtF32.decode false x with
  | .num s m e => (if s then -1 else 1) * (shiftInt m (e + 149) : Int)
  | _ => 0

def f32Inf (x : Nat) (s : Bool) : Bool := x == fmtF32.infBits s

/-- lo ≤ hi of two bounds that are no NaN. -/
def f32Le (a b : Nat) : Bool := f32Inf a true || f32Inf b false || (!f32Inf a false && !f32Inf b true && decide (f32Int a ≤ f32Int b))

/-- The bounds on t of one axis: fractions t must reach, fractions it must not pass; none: the axis is missed. -/
def axisBounds (p0 p1 : Int) (lo hi : Nat) : Option (List (Int × Int) × List (Int × Int)) :=
  let d := p1 - p0
  let noLo := f32Inf lo true
  let noHi := f32Inf hi false
  let l := f32Int lo
  let h := f32Int hi
  if f32Inf lo false || f32Inf hi true then none
  else if d = 0 then (if (noLo || decide (l ≤ p0)) && (noHi || decide (p0 ≤ h)) then some ([], []) else none)
  else if 0 < d then some (if noLo then [] else [(l - p0, d)], if noHi then [] else [(h - p0, d)])
  else some (if noHi then [] else [(p0 - h, -d)], if noLo then [] else [(p0 - l, -d)])

/-- The segment meets the widened box: p0, p1, h and the node's lo, hi as binary32 patterns, three each. -/
def overlaps (p0 p1 h lo hi : List Nat) : Bool :=
  if (lo ++ hi).any fmtF32.isNan then true
  else if (List.range 3).any (fun i => !f32Le (lo.getD i 0) (hi.getD i 0)) then false
  else
    let axes := (List.range 3).map (fun i => axisBounds (f32Int (p0.getD i 0)) (f32Int (p1.getD i 0))
      (fmtF32.fsub .rdn false (lo.getD i 0) (h.getD i 0)).1 (fmtF32.fadd .rup false (hi.getD i 0) (h.getD i 0)).1)
    if axes.any (·.isNone) then false
    else
      let lows := (0, 1) :: (axes.map (fun a => (a.getD ([], [])).1)).flatten
      let ups := (1, 1) :: (axes.map (fun a => (a.getD ([], [])).2)).flatten
      lows.all (fun a => ups.all (fun b => decide (a.1 * b.2 ≤ b.1 * a.2)))

/-- A query that returns NONE and reads nothing. -/
def queryDead (q : List Nat) : Bool :=
  q.any (fun x => bitsOf x 30 23 == 255) || (q.drop 6).any (fun x => decide (2 ^ 31 < x))

/-! ### Reading a tree -/

/-- What one read of a traversal finds. -/
inductive SweepRead where
  | bytes (bs : List Byte) (poison : Bool)
  | trap (k : Cause) (va : Nat)
  | ticket
  | walkPoison

/-- The context of a lane's node reads. -/
def State.sweepCtx (s : State) (f : Flight) : Ctx :=
  ⟨(s.group f.team f.group).core, f.team, { team := f.team, members := [(f.group, f.lane)], pc := f.pc, header := 0, words := [], pos := f.pos },
    s.lpbOf f.team, 2⟩

/-- One read of a traversal, at most 8 bytes, with the staged writes it observes (R149). -/
def State.sweepRead (s : State) (f : Flight) (va n : Nat) : SweepRead × State :=
  let c := s.sweepCtx f
  match s.place c (f.group, f.lane) (va : Int) n .read false false true with
  | (.error (.trap k), s) => (.trap k va, s)
  | (.error .walkPoison, s) => (.walkPoison, s)
  | (.ok p, s) =>
    match p.loc.answered s with
    | (.error (.trap k), s) => (.trap k va, s)
    | (.error .walkPoison, s) => (.walkPoison, s)
    | (.ok l, s) =>
      if s.detReadWaits f.team l n then (.ticket, s)
      else
        let s := s.performThreadAt f.team (f.group, f.lane) l n f.id
        let (v, s) := s.loadLoc c.cluster l n true
        let v := s.detOverlay f.team l v
        (.bytes v.1 v.2, if v.2 then s.count c.part 9 1 else s)

/-- What a traversal comes to. -/
inductive Traversal where
  | result (code leaf : Nat)
  | poisoned
  | stop (r : SweepRead)

def sweepNone : Nat := 0
def sweepHit : Nat := 1
def sweepBudget : Nat := 2
def sweepStale : Nat := 3

/-- Words of a node, in turn. -/
def State.sweepWords (s : State) (f : Flight) (va : Nat) : Nat → SweepRead × State
  | 0 => (.bytes [] false, s)
  | n + 1 =>
    match s.sweepRead f va 4 with
    | (.bytes bs p, s) =>
      match s.sweepWords f (va + 4) n with
      | (.bytes cs q, s) => (.bytes (bs ++ cs) (p || q), s)
      | r => r
    | r => r

def wordsAt (bs : List Byte) (i n : Nat) : List Nat := (List.range n).map (fun k => leNat ((bs.drop (4 * (i + k))).take 4))

/-- The loop of R239 from a stack: the result before the second read of GEN. -/
def State.traverse (f : Flight) (tree nnode budget : Nat) (q : List Nat) : Nat → List Nat → Nat → State → Traversal × State
  | 0, _, _, s => (.result sweepBudget 0xFFFFFFFF, s)
  | _, [], _, s => (.result sweepNone 0xFFFFFFFF, s)
  | fuel + 1, n :: rest, seen, s =>
    if seen = budget then (.result sweepBudget 0xFFFFFFFF, s)
    else if nnode ≤ n then (.result sweepStale 0xFFFFFFFF, s)
    else match s.sweepWords f (tree + 0x40 + 32 * n) 8 with
      | (.bytes bs p, s) =>
        let w6 := (wordsAt bs 6 1).headD 0
        if p then (.poisoned, s)
        else if overlaps (q.take 3) ((q.drop 3).take 3) (q.drop 6) (wordsAt bs 0 3) (wordsAt bs 3 3) then
          if 2 ^ 31 ≤ w6 then (.result sweepHit (w6 % 2 ^ 31), s)
          else if 255 ≤ rest.length then (.result sweepBudget 0xFFFFFFFF, s)
          else State.traverse f tree nnode budget q fuel (w6 :: (wordsAt bs 7 1).headD 0 :: rest) (seen + 1) s
        else State.traverse f tree nnode budget q fuel rest (seen + 1) s
      | (r, s) => (.stop r, s)

/-- The whole traversal of a lane: GEN, the loop, GEN again; both reads of GEN acquire at .dev. -/
def State.sweepLane (s : State) (f : Flight) : Traversal × State :=
  let ws := wordsAt f.data 0 10
  let q := ws.take 9
  let budget := ws.getD 9 0
  if queryDead q then (.result sweepNone 0xFFFFFFFF, s)
  else
    let c := s.clusterOfGroup f.team f.group
    match s.sweepRead f f.va 8 with
    | (.bytes g0 p0, s) =>
      match (s.clearCache c).sweepWords f (f.va + 8) 2 with
      | (.bytes h ph, s) =>
        if p0 || ph then (.poisoned, s)
        else
          match State.traverse f f.va ((wordsAt h 1 1).headD 0) budget q (budget + 1) [(wordsAt h 0 1).headD 0] 0 s with
          | (.result code leaf, s) =>
            if code = sweepStale then (.result sweepStale 0xFFFFFFFF, s)
            else match (s.clearCache c).sweepRead f f.va 8 with
              | (.bytes g1 p1, s) =>
                if p1 then (.poisoned, s)
                else if leNat g0 % 2 = 1 ∨ leNat g1 ≠ leNat g0 then (.result sweepStale 0xFFFFFFFF, s)
                else (.result code leaf, s)
              | (r, s) => (.stop r, s)
          | r => r
      | (r, s) => (.stop r, s)
    | (r, s) => (.stop r, s)

/-! ### SWEEP and SWEEP_RESULT (R351) -/

/-- The query words of a lane. -/
def State.queryWords (s : State) (c : Ctx) (i : BitVec 8) (m : Member) : List Nat :=
  (List.range 9).map (fun k =>
    if i.toNat < 0x80 then ((s.thread c.team m.1 m.2).vGet (i.toNat + k)).toNat
    else ((s.group c.team m.1).sGet (i.toNat - 0x80 + k)).toNat)

/-- SWEEP: every executing lane hands its query to the sweep unit. The tree's header has 64 bytes (R15). -/
def execSweep (d : BitVec 7) (p i : BitVec 8) (budget : BitVec 9) (s : State) : Host.Outcome State Fault Refusal :=
  runWord (.sweep d p i budget) s fun c s =>
    let g := s.group c.team c.g
    let tree := (g.sPair (2 * p.toNat)).toNat
    let n := (g.sGet budget.toNat).toNat
    if n = 0 ∨ 65536 < n then c.all s .illegalOperand
    else if 2 ^ 52 < tree + 64 then c.all s .addrNoncanon 7 (BitVec.ofNat 64 tree)
    else if tree % 64 ≠ 0 then c.all s .align 7 (BitVec.ofNat 64 tree)
    else
      let word := s.nextId
      done (c.mems.foldl (fun s m =>
        let data := ((s.queryWords c i m ++ [n]).map (leBytes 4)).flatten
        s.addFlight { id := 0, kind := .sweep, team := c.team, group := m.1, lane := m.2, reg := d.toNat, va := tree, data := data
                      pc := c.b.pc, pos := c.b.pos, akind := 7, word := word }) s)

/-- A thread leaves its bundle and waits for the ticket at an earlier word of its own, which it issues again (R149). -/
def State.lateTicket (s : State) (t : Nat) (m : Member) (pc : Dword) (pos : Nat) : State :=
  if (s.thread t m.1 m.2).inTrap then s.lateTrap t m .illegalInstruction 0 0 pc pos
  else
    let core := (s.group t m.1).core
    let s := match (s.core core).bundle with
      | none => s
      | some b =>
        if b.team == t && b.members.contains m then
          let b := { b with members := b.members.filter (· != m) }
          if b.members.isEmpty then s.freeSlice core else s.setBundle core (some b)
        else s
    s.updThread t m.1 m.2 (fun x => { x with status := .blocked .ticket, pc := pc, pos := pos })

/-- SWEEP_RESULT: a lane's traversal ends; its result is a pending write-back, a node fault traps the lane at the SWEEP word. -/
def execSweepResult (flight : Nat) (s : State) : Host.Outcome State Fault Refusal :=
  match s.flight flight with
  | none => s.idle
  | some f =>
    if f.performed || f.kind != .sweep then s.idle
    else
      let finish (s : State) (a b : Nat) (bad : Bool) : State :=
        s.setFlight { f with performed := true, writes := [⟨f.reg, BitVec.ofNat 32 a, bad⟩, ⟨f.reg + 1, BitVec.ofNat 32 b, bad⟩] }
      match s.sweepLane f with
      | (.result code leaf, s) => .next (finish s code leaf false)
      | (.poisoned, s) => .next (finish s 0 0 true)
      | (.stop (.trap k va), s) => .next ((s.dropFlight flight).lateTrap f.team (f.group, f.lane) k 7 (BitVec.ofNat 64 va) f.pc f.pos)
      | (.stop .ticket, s) => .next ((s.dropFlight flight).lateTicket f.team (f.group, f.lane) f.pc f.pos)
      | (.stop _, s) => .next (s.walkFault (s.team f.team).tenant)

end Sys2Proof.Machine
end

