-- ==== Sys2Proof/Machine/System.lean ====
section
/-! DEFINITION. Class Y (R373 to R395): child launches, seam words, island words, the Stamp, the event ring, counters, Skive state,
features and HALT. -/

namespace Sys2Proof.Machine

/-! ### LAUNCH, LWAIT, LSTAT -/

/-- A LAUNCH that is not accepted: its status, and no handle. -/
def launchStatus (c : Ctx) (d v : Nat) (s : State) : Res := done (s.uniformPair c d (BitVec.ofNat 32 v) 0xFFFFFFFF)

/-- The pool entry of an accepted LAUNCH, the team's handle for it, and the count of the launch's children. -/
def acceptLaunch (c : Ctx) (d p e : Nat) (lpb : List Byte) (s : State) : Res :=
  let x := s.team c.team
  let h := x.accepted
  let s := s.updEntry p e (fun _ =>
    { live := true, lpb := lpb, parent := x.launch, depth := (s.launch x.launch).depth + 1, index := x.index, handle := h, order := s.nextId })
  let s := { s with nextId := s.nextId + 1 }
  let s := s.updTeam c.team (fun x => { x with accepted := h + 1, handles := x.handles ++ [⟨h, p, e⟩], exposed := true })
  let s := (s.updLaunch x.launch (fun n => { n with children := n.children + 1 })).count c.part 11 1
  done (s.uniformPair c d 0 (BitVec.ofNat 32 h))

/-- LAUNCH (R374). Its read of the 128 bytes is a load for R398 (log 36); the host or a peer answers first for a page of theirs (R36). -/
def execLaunch (d : BitVec 9) (p : BitVec 8) (s : State) : Host.Outcome State Fault Refusal :=
  runWord (.launch d p) s fun c s =>
    let a := (s.group c.team c.g).sPair (2 * p.toNat)
    if c.b.groups.any (fun g => s.doneGuard c.team g) then c.all s .access 1 a
    else if c.lpb.det && !s.holdsTicket c.team then waitTicket c s
    else match s.place c c.low (a.toNat : Int) 128 .read false false true with
      | (.error .walkPoison, s) => poisonedWalk s
      | (.error (.trap k), s) => c.all s k 1 a
      | (.ok q, s) =>
        if q.loc.remote && c.b.peer.isNone then askPeer c [q.loc] s
        else if c.b.peer.any (fun r => !r.1) then c.all s .access 1 a
        else
        let part := s.partOfTeam c.team
        if 24 < (s.launchOf c.team).depth + 1 then launchStatus c d.toNat 2 s
        else match (s.partition part).freeEntry with
          | none => launchStatus c d.toNat 1 (s.count c.part 12 1)
          | some e => if s.fenceBusy c 1 then stalled s else acceptLaunch c d.toNat part e (s.memBytes q.loc 128) (s.count c.part 9 (s.badUnits q.loc 128))

/-- LWAIT (R376): the child's status and team count as a pending write-back, with an acquire at .dev. -/
def execLwait (d : BitVec 9) (h : BitVec 8) (s : State) : Host.Outcome State Fault Refusal :=
  runWord (.lwait d h) s fun c s =>
    match (s.team c.team).handle ((s.group c.team c.g).sGet h.toNat).toNat with
    | none => c.all s .illegalOperand
    | some k =>
      let e := (s.partition k.partition).entry k.entry
      if e.status = 0 then { s := s, after := .block .lwait }
      else if s.fenceBusy c 0 then stalled s
      else done ((acquireDev c (s.closeHandle c.team k)).addResult c.team c.g c.low.2 true none
        [⟨d.toNat, BitVec.ofNat 32 e.status, false⟩, ⟨d.toNat + 1, BitVec.ofNat 32 e.teams, false⟩])

/-- LSTAT (R377). -/
def execLstat (d : BitVec 9) (h : BitVec 8) (s : State) : Host.Outcome State Fault Refusal :=
  runWord (.lstat d h) s fun c s =>
    match (s.team c.team).handle ((s.group c.team c.g).sGet h.toNat).toNat with
    | none => c.all s .illegalOperand
    | some k =>
      done (s.uniformPair c d.toNat (BitVec.ofNat 32 (s.childStatus k))
        (BitVec.ofNat 32 (s.partition (s.partOfTeam c.team)).freeEntries))

/-! ### Seam words -/

/-- SEAM.POS (R379). -/
def execSeamPos (d : BitVec 9) (s : State) : Host.Outcome State Fault Refusal :=
  runWord (.seamPos d) s fun c s =>
    done (s.uniform64 c d.toNat (if c.lpb.seam then BitVec.ofNat 64 (s.team c.team).index else 0xFFFFFFFFFFFFFFFF))

/-- SEAM.DONE (R211, R380). -/
def execSeamDone (s : State) : Host.Outcome State Fault Refusal :=
  runWord .seamDone s fun c s =>
    if !c.lpb.seam then done s
    else if !c.full s then c.all s .illegalOperand
    else
      let gs := c.b.groups.filter (fun g => !(s.group c.team g).done)
      if gs.isEmpty then done s
      else if s.fenceBusy c 1 then stalled s
      else done (gs.foldl (fun s g => s.groupDone c.team g) (s.exposeIf c.team true))

/-- The first words of a seam descriptor. -/
def Seam.shape (u : Seam) : Nat := leNat (u.bytes.take 4)

/-- The pair of a SEAM.QRY selector (R381). -/
def State.seamQuery (s : State) (c : Ctx) (sel : Nat) : Nat × Nat :=
  let x := s.team c.team
  let l := s.launch x.launch
  let u := l.seamUnit
  let b := c.lpb
  if !b.seam then (0, 0)
  else match sel with
    | 0 => (u.shape, u.rowCount b)
    | 1 => (b.e0, b.e1)
    | 2 => (b.e2, u.runcap)
    | 3 => if b.det then (0, 0) else (u.doneCount % 2 ^ 32, u.doneCount / 2 ^ 32)
    | _ => if b.det then (0, 0) else ((u.rows.get {} (u.rowOf b x.index)).prefixLen, u.running.length)

def execSeamQry (d : BitVec 9) (sel : BitVec 8) (s : State) : Host.Outcome State Fault Refusal :=
  runWord (.seamQry d sel) s fun c s =>
    let q := s.seamQuery c sel.toNat
    done (s.uniformPair c d.toNat (BitVec.ofNat 32 q.1) (BitVec.ofNat 32 q.2))

/-! ### Island words (R382 to R385) -/

def State.slotOf (s : State) (tn k : Nat) : IslSlot := (s.tenant tn).slots.get {} k

/-- A team of a gang of a set of its tenant. -/
def State.ofSet (s : State) (t k : Nat) : Bool := (s.team t).island.isSome && (s.team t).slot == k

/-- Every thread's report sets out for its set's engine; a thread with a wrong id traps instead. -/
def reportWord (i : Instr) (slot : BitVec 4) (kind : Nat) (pair : Bool) (n : Nat) (s : State) : Host.Outcome State Fault Refusal :=
  runWord i s fun c s =>
    let tn := (s.team c.team).tenant
    let x := s.slotOf tn slot.toNat
    if !x.active then c.all s .illegalOperand
    else c.mems.foldl (fun r m =>
      let th := r.s.thread c.team m.1 m.2
      let a := (th.vGet n).toNat
      let b := if pair then (th.vGet (n + 1)).toNat else 0
      if x.desc.nbody ≤ a ∨ (pair ∧ (x.desc.nbody ≤ b ∨ a = b)) then { r with traps := r.traps ++ [⟨m, .illegalOperand, 0, 0⟩] }
      else { r with s := { r.s with sent := r.s.sent ++ [Sent.mk tn slot.toNat ⟨kind, a, b⟩ c.part (s.ofSet c.team slot.toNat)] } }) (done s)

def execIslLink (v : BitVec 7) (kind : BitVec 1) (slot : BitVec 4) (s : State) : Host.Outcome State Fault Refusal :=
  reportWord (.islLink v kind slot) slot kind.toNat true v.toNat s

def execIslUnlink (v : BitVec 7) (slot : BitVec 4) (s : State) : Host.Outcome State Fault Refusal :=
  reportWord (.islUnlink v slot) slot 2 true v.toNat s

def execIslWake (v : BitVec 7) (slot : BitVec 4) (s : State) : Host.Outcome State Fault Refusal :=
  reportWord (.islWake v slot) slot 3 false v.toNat s

/-- Whether the engine gives a team RETIRE at its next ISL.STEP: a poisoned set, a set being disabled, or a gang whose step a
member's exit has retired (R220, R227, R235). -/
def State.retiresTeam (s : State) (t : Nat) : Bool :=
  let x := s.team t
  let sl := s.slotOf x.tenant x.slot
  !sl.en || sl.reenable || sl.poisoned || sl.islands.any (fun i => i.launch == some x.launch && i.retired)

/-- ISL.STEP (R383): the group's arrival, or, once its result is there, the result. -/
def execIslStep (d : BitVec 9) (s : State) : Host.Outcome State Fault Refusal :=
  runWord (.islStep d) s fun c s =>
    if !c.full s || (s.team c.team).island.isNone then c.all s .illegalOperand
    else match (s.group c.team c.g).result with
      | some r => done ((s.updGroup c.team c.g (fun g => { g with result := none })).uniform32 c d.toNat (BitVec.ofNat 32 r))
      | none =>
        { s := s.updGroup c.team c.g (fun g => { g with arrived := true, result := if s.retiresTeam c.team then some 1 else none })
          after := .block .step }

/-- ISL.STILL (R384). -/
def execIslStill (s : State) : Host.Outcome State Fault Refusal :=
  runWord .islStill s fun c s =>
    if (s.team c.team).island.isNone then c.all s .illegalOperand
    else done (s.updTeam c.team (fun x => { x with still := true }))

/-- ISL.INFO (R385). -/
def execIslInfo (d : BitVec 9) (sel : BitVec 4) (slot : BitVec 4) (s : State) : Host.Outcome State Fault Refusal :=
  runWord (.islInfo d sel slot) s fun c s =>
    let x := s.slotOf (s.team c.team).tenant slot.toNat
    if !x.active then c.all s .illegalOperand
    else
      let q : Word × Word := match sel.toNat with
        | 0 => (loWord x.snapStep, hiWord x.snapStep)
        | 1 => (BitVec.ofNat 32 x.desc.nbody, BitVec.ofNat 32 x.snapP)
        | 2 => (BitVec.ofNat 32 x.snapAwake, BitVec.ofNat 32 x.snapAsleep)
        | _ => (BitVec.ofNat 32 x.snapLinks, BitVec.ofNat 32 x.snapFrozen)
      done (s.uniformPair c d.toNat q.1 q.2)

/-! ### Stamp words (R386, R387) -/

def execStampMix (a : BitVec 8) (s : State) : Host.Outcome State Fault Refusal :=
  runWord (.stampMix a) s fun c s =>
    if !c.lpb.det then done s
    else done (c.mems.foldl (fun s m =>
      let v := s.src32 c a m
      s.updThread c.team m.1 m.2 (fun x => x.addRecord 1 0 (leBytes 4 v.toNat))) s)

def execStampGet (v : BitVec 7) (s : State) : Host.Outcome State Fault Refusal :=
  runWord (.stampGet v) s fun c s =>
    done (s.perThread c false v.toNat true (fun _ x _ => (if c.lpb.det then x.digest.toNat else 0, 0)))

/-! ### The event ring (R388, R389) -/

/-- The count after a post: from 1, skipping 0. -/
def nextSeq (n : Word) : Word := if n + 1 = 0 then 1 else n + 1

/-- The record after its SEQ. -/
def eventTail (code : BitVec 8) (pay : Dword) (index tid : Nat) : List Byte :=
  code :: (leBytes 3 0 ++ leBytes 8 pay.toNat ++ leBytes 8 index ++ leBytes 4 tid ++ leBytes 4 0)

/-- A record that is not written. -/
def dropEvent (c : Ctx) (tn : Nat) (full : Bool) (s : State) : State :=
  (s.updTenant tn (fun x => if full then { x with evOverflow := true, evDrops := min (x.evDrops + 1) 0xFFFF } else x)).count c.part 10 1

/-- The record is written: bytes 4 on, then SEQ; TAIL advances and the message follows. A fault clears EN, and so does a ring that lies in
guarded bytes, which no thread's write may change (R66, R221). -/
def writeEvent (c : Ctx) (tn : Nat) (rest : List Byte) (s : State) : State :=
  let x := s.tenant tn
  let va := x.evBase.toNat + 32 * x.evTail
  let s := (match s.peek c.cluster tn va with
    | some l => s.performThreadAt c.team c.low l 32 s.nextId
    | none => s)
  let fail (s : State) : State := s.updTenant tn (fun x => { x with evFault := true, evEn := false })
  match s.writeUntil true c.cluster tn (va + 4) rest with
  | (false, s) => fail s
  | (true, s) =>
    match s.writeUntil true c.cluster tn va (leBytes 4 x.evSeq.toNat) with
    | (false, s) => fail s
    | (true, s) => (s.updTenant tn (fun x => { x with evTail := (x.evTail + 1) % 2 ^ x.evLog })).notice (.msix tn x.evVec)

def execEvtpost (p : BitVec 9) (code : BitVec 8) (s : State) : Host.Outcome State Fault Refusal :=
  runWord (.evtpost p code) s fun c s =>
    let t := s.team c.team
    let tn := t.tenant
    let pay := (s.group c.team c.g).sPair p.toNat
    let s := (s.exposeIf c.team true).updTenant tn (fun x => { x with evSeq := nextSeq x.evSeq })
    let x := s.tenant tn
    if !x.evEn then done (dropEvent c tn false s)
    else if (x.evTail + 1) % 2 ^ x.evLog = x.evHead then done (dropEvent c tn true s)
    else done (s.unlessWalkFault (writeEvent c tn (eventTail code pay t.index (c.low.1 * c.lpb.w + c.low.2)) s))

/-! ### Counters, margins, features -/

/-- The counters that count time, energy and events of structures that hold no value (log 9). -/
def timingCounter (n : Nat) : Bool := n == 0 || n == 5 || n == 6 || n == 7 || n == 13 || n == 14 || n == 15

/-- A timing counter has advanced by a free amount since it was last read. -/
def State.advanceTiming (s : State) (p n : Nat) : State :=
  if timingCounter n then { s.count p n (Config.freeNat s.free) with free := s.free + 1 } else s

/-- PCTR (R390). -/
def execPctr (d : BitVec 9) (all : BitVec 1) (n : BitVec 7) (s : State) : Host.Outcome State Fault Refusal :=
  runWord (.pctr d all n) s fun c s =>
    if c.lpb.det then done (s.uniform64 c d.toNat 0)
    else
      let ps := if all = 1 then s.partsOf (s.team c.team).tenant else [c.part]
      let s := ps.foldl (fun s p => s.advanceTiming p n.toNat) s
      done (s.uniform64 c d.toNat ((ps.map (fun p => (s.partition p).counters.get 0 n.toNat)).foldl (· + ·) 0))

/-- SKV.GET (R392). -/
def State.skvValue (s : State) (c : Ctx) (sel : Nat) : Word × Word :=
  let p := s.partition c.part
  let k := s.core c.core
  match sel with
  | 0 => (loWord (p.counters.get 0 4), hiWord (p.counters.get 0 4))
  | 1 => (loWord p.escalations, hiWord p.escalations)
  | 2 => (BitVec.ofNat 32 k.cstep, BitVec.ofNat 32 k.wcount)
  | _ => (BitVec.ofNat 32 ((List.range 30).filter (fun j => (s.core (30 * c.part + j)).quar)).length, 0)

def execSkvGet (d : BitVec 9) (sel : BitVec 8) (s : State) : Host.Outcome State Fault Refusal :=
  runWord (.skvGet d sel) s fun c s =>
    let q := if c.lpb.det then (0, 0) else s.skvValue c sel.toNat
    done (s.uniformPair c d.toNat q.1 q.2)

/-- FEAT (R394). -/
def execFeat (d : BitVec 9) (s : State) : Host.Outcome State Fault Refusal :=
  runWord (.feat d) s fun c s => done (s.uniform64 c d.toNat (if c.lpb.det then c.lpb.features else (s.core c.core).feat))

/-! ### HALT (R395) -/

/-- A thread stops for the debugger: cause BREAK, resumption at the fall-through address. -/
def Thread.halt (x : Thread) (nv : Nat) (header fall : Dword) (pos : Nat) : Thread :=
  let k := x.saveTrap nv { cause := .breakpoint, code := 0, tva := header, pc := fall, rpos := 0 }
  { k with trap := { k.trap with dbg := true }, pc := header, pos := pos, status := .stopped }

def execHalt (s : State) : Host.Outcome State Fault Refusal :=
  runWord .halt s fun c s =>
    let s := c.mems.foldl (fun s m =>
      let th := s.thread c.team m.1 m.2
      if th.inTrap then s.trapOne c.team m { cause := .breakpoint, tva := c.b.pc, pc := c.b.fallThrough, rpos := 0, word := c.b.pos }
      else
        (s.updThread c.team m.1 m.2 (fun x => x.halt c.lpb.nv c.b.pc c.b.fallThrough c.b.pos)).notice
          (.halted (s.team c.team).launch c.team m.1 m.2)) s
    { s := c.b.groups.foldl (fun s g => State.breakGangs 8 c.team g s) s, after := .closed }

end Sys2Proof.Machine
end

