-- ==== Sys2Proof/Machine/Tiles.lean ====
section
/-! DEFINITION. Class X, tiles and memory: TLD and TST (R371). -/

namespace Sys2Proof.Machine

/-- The element type of a tile access. -/
def tileElem (e : Option XExt) : ElemTy :=
  match e with
  | none => .f32
  | some x => tileType x.fmt

def tileSize (e : Option XExt) : Nat := (tileElem e).width / 8

/-- Row starts: base + i·pitch, a pitch of 0 meaning 32·e bytes. -/
def State.tileRow (s : State) (c : Ctx) (p b : BitVec 8) (size i : Nat) : Int :=
  let pitch := (readSrc (s.group c.team c.g) (s.thread c.team c.low.1 c.low.2) (s.env c.team c.low.1 c.low.2) none b 32)
  (((s.group c.team c.g).sPair (2 * p.toNat)).toNat + i * (if pitch = 0 then 32 * size else pitch) : Nat)

/-- What the checks of a tile's rows find: the place of every element, in order, or the first failing one. -/
inductive TileCheck where
  | locs (ls : List (Nat × Place))
  | trap (k : Cause) (va : Int)
  | walkPoison

/-- Every row is checked under R36, in order, before any byte moves; elements of one page share its lookup (R33). -/
def State.checkTile (s : State) (c : Ctx) (p b : BitVec 8) (size : Nat) (k : AccKind) : TileCheck × State :=
  let tn := (s.team c.team).tenant
  let r := (List.range 1024).foldl (fun (r : TileCheck × State × Lookups) n =>
    match r.1 with
    | .locs ls =>
      let ea := r.2.1.tileRow c p b size (n / 32) + ((n % 32 * size : Nat) : Int)
      let seen := r.2.1.noteLookup c.cluster tn ea size false r.2.2
      match r.2.1.place c c.low ea size k false true true r.2.2 with
      | (.ok q, s) => (.locs (ls ++ [(ea.toNat, q)]), s, seen)
      | (.error (.trap cause), s) => (.trap cause ea, s, seen)
      | (.error .walkPoison, s) => (.walkPoison, s, seen)
    | _ => r) (.locs [], s, [])
  (r.1, r.2.1)

def Place.remote : Place → Bool
  | .mem l => l.remote
  | .image _ => false

/-- One element read: from memory, with the staged writes it observes, or from the team's image (R66). -/
def readElement (s : State) (c : Ctx) (size : Nat) (q : Place) : (List Byte × Bool) × State :=
  match q with
  | .image off => (s.imageBytes c.team off size, s)
  | .mem l =>
    let s := s.performThreadAt c.team c.low l size s.nextId
    let (v, s) := s.loadLoc c.cluster l size true
    (s.detOverlay c.team l v, s)

/-- The unit of memory an element lies in; a word of an image is not memory's. -/
def Place.unit (q : Place) : List (Nat × Nat) :=
  match q with
  | .mem l => [l.unit]
  | .image _ => []

/-- Poison of a memory unit fills 64-bit tile words. The tile, the poisoned units met (R390), the state. -/
def loadTile (s : State) (c : Ctx) (t : ElemTy) (size : Nat) (ls : List (Nat × Place)) : (TileVal × List (Nat × Nat)) × State :=
  (ls.zip (List.range ls.length)).foldl (fun (r : (TileVal × List (Nat × Nat)) × State) q =>
    let (v, s) := readElement r.2 c size q.1.2
    let w := if v.2 then 0 else widenExact t (leNat v.1)
    (({ elems := r.1.1.elems.put 0 q.2 (BitVec.ofNat 32 w)
        poison := if v.2 then NatSet.set r.1.1.poison (q.2 / 2) true else r.1.1.poison },
      if v.2 then q.1.2.unit ++ r.1.2 else r.1.2), s)) ((({}, []), s) : (TileVal × List (Nat × Nat)) × State)

/-- A poisoned tile word holds 0. -/
def TileVal.blank (v : TileVal) : TileVal :=
  { v with elems := v.elems.filter (fun e => !NatSet.has v.poison (e.1 / 2)) }

/-- Where the elements of a tile access in memory lie. -/
def placesOf (ls : List (Nat × Place)) : List Loc :=
  ls.filterMap (fun l => match l.2 with
    | .mem q => some q
    | .image _ => none)

/-- TLD: the tile is read now and written when TILE_LOAD_COMPLETE comes. -/
def execTld (d : BitVec 4) (p b : BitVec 8) (e : Option XExt) (s : State) : Host.Outcome State Fault Refusal :=
  runWord (.tld d p b e) s fun c s =>
    match s.checkTile c p b (tileSize e) .read with
    | (.walkPoison, s) => poisonedWalk s
    | (.trap k va, s) => c.all s k 8 (BitVec.ofInt 64 va)
    | (.locs ls, s) =>
      if ls.any (fun l => match l.2 with
          | .mem q => s.detReadWaits c.team q (tileSize e)
          | .image _ => false) then waitTicket c s
      else if ls.any (fun l => s.placePending c.team l.2 (tileSize e)) then stalled s
      else if ls.any (fun l => l.2.remote) && c.b.peer.isNone then askPeer c (placesOf ls) s
      else match c.b.peer with
        | some (false, va) => c.all s .access 8 va
        | _ =>
          let ((v, bad), s) := loadTile s c (tileElem e) (tileSize e) ls
          let s := s.count c.part 9 bad.dedup.length
          done (s.sendLoad c.team c.g d.toNat v.blank)

/-- The bytes of a tile's row as TST stores them. -/
def tileRowBytes (t : ElemTy) (size : Nat) (v : TileVal) (i : Nat) : List Byte :=
  ((List.range 32).map (fun j => leBytes size (narrow t (v.elems.get 0 (32 * i + j)).toNat))).flatten

/-- A run of image bytes in the pieces it is written in: whole 8-byte units, else parts of 4-byte words (R458, R81). -/
def imagePieces (off : Nat) (bs : List Byte) : List (Nat × List Byte) :=
  ((List.range ((off + bs.length + 7) / 8 - off / 8)).map (fun k =>
    let lo := max off ((off / 8 + k) * 8)
    let hi := min (off + bs.length) ((off / 8 + k + 1) * 8)
    if hi - lo = 8 then [(lo, (bs.drop (lo - off)).take 8)]
    else
      let mid := (off / 8 + k) * 8 + 4
      (if lo < mid then [(lo, (bs.drop (lo - off)).take (min hi mid - lo))] else []) ++
        (if mid < hi then [(max lo mid, (bs.drop (max lo mid - off)).take (hi - max lo mid))] else []))).flatten

/-- A piece of a row written to the team's image: none where the image refuses a part of it. -/
def State.storeImagePiece (s : State) (c : Ctx) (off : Nat) (bs : List Byte) : Option State :=
  (imagePieces off bs).foldl (fun (r : Option State) q => r.bind (fun s => s.imageStore c.team c.low q.1 q.2)) (some s)

/-- One piece of a row inside a 64-byte line: written to the image at once; recorded, staged, or a store in flight. none: the image
refuses it. -/
def storeTilePiece (c : Ctx) (word : Nat) (s : State) (q : Nat × Place × List Byte) : Option State :=
  let (va, k, bs) := q
  match k with
  | .image off => s.storeImagePiece c off bs
  | .mem l =>
    let s := if l.isFabric then s else s.recordWrite c.team c.low 0 va bs
    some (if !l.isFabric && s.stages c.team then s.stageWrite c.team c.low l va bs
      else s.addFlight { id := 0, kind := .store, team := c.team, group := c.low.1, lane := c.low.2, size := bs.length, va := va, loc := l
                         data := bs, pc := c.b.pc, pos := c.b.pos, akind := 8, word := word })

/-- The pieces of the rows: address, place, bytes. -/
def tilePieces (t : ElemTy) (size : Nat) (v : TileVal) (ls : List (Nat × Place)) : List (Nat × Place × List Byte) :=
  ((List.range 32).map (fun i =>
    let row := ls.getD (32 * i) (0, .image 0)
    (linePieces row.1 (tileRowBytes t size v i)).map (fun p =>
      (p.1, (ls.getD (32 * i + (p.1 - row.1) / size) row).2, p.2)))).flatten

/-- The pieces stored in order, or the address of the first that the image refuses. -/
def storeTile (c : Ctx) (word : Nat) (s : State) : List (Nat × Place × List Byte) → Except Nat State
  | [] => .ok s
  | q :: r => match storeTilePiece c word s q with
    | none => .error q.1
    | some s => storeTile c word s r

/-- TST. -/
def execTst (d : BitVec 4) (p b : BitVec 8) (e : Option XExt) (s : State) : Host.Outcome State Fault Refusal :=
  runWord (.tst d p b e) s fun c s =>
    let a := s.tile c.team c.g d.toNat
    if a.bad then c.all s .poisonRead
    else match s.checkTile c p b (tileSize e) .write with
      | (.walkPoison, s) => poisonedWalk s
      | (.trap k va, s) => c.all s k 8 (BitVec.ofInt 64 va)
      | (.locs ls, s) =>
        let ps := tilePieces (tileElem e) (tileSize e) a.read ls
        let need := (ps.map (fun q => if q.2.1.isGlobal then stageSize q.2.2.length else 0)).sum
        let global := ls.find? (fun l => l.2.isGlobal)
        let busy := ls.any (fun l => match l.2 with
          | .image off => s.imageTileBusy c.team off (tileSize e)
          | .mem _ => false)
        if global.isSome && s.doneGuard c.team c.g then c.all s .access 8 (BitVec.ofNat 64 ((global.map (·.1)).getD 0))
        else if busy then stalled s
        else if global.isSome && s.stages c.team && !s.stageFits c.team need then waitTicket c s
        else if ls.any (fun l => l.2.remote) && !s.stages c.team && c.b.peer.isNone then askPeer c (placesOf ls) s
        else match c.b.peer with
        | some (false, va) => c.all s .access 8 va
        | _ => match storeTile c s.nextId (s.exposeIf c.team (ls.any (fun l => l.2.isHost))) ps with
          | .error va => c.all s .access 8 (BitVec.ofNat 64 va)
          | .ok s => done s

end Sys2Proof.Machine
end

