-- ==== Sys2Proof/Machine/VectorFloat.lean ====
section
/-! DEFINITION. Class V, float words, conversions and packing (R319 to R326). -/

namespace Sys2Proof.Machine

/-- Apply an operation of a format to a type: to one pattern, or to elements 0 and 1 of a packed word, the flags of both set
(R319, R241). -/
def packed1 (t : ElemTy) (op : Fmt → Nat → Nat × Flags) (a : Nat) : Nat × Flags :=
  if t == .f16x2 || t == .bf16x2 then
    let lo := op (fmtOf t) (a % 65536)
    let hi := op (fmtOf t) (a / 65536)
    (lo.1 + 65536 * hi.1, lo.2 ||| hi.2)
  else op (fmtOf t) a

def packed2 (t : ElemTy) (op : Fmt → Nat → Nat → Nat × Flags) (a b : Nat) : Nat × Flags :=
  if t == .f16x2 || t == .bf16x2 then
    let lo := op (fmtOf t) (a % 65536) (b % 65536)
    let hi := op (fmtOf t) (a / 65536) (b / 65536)
    (lo.1 + 65536 * hi.1, lo.2 ||| hi.2)
  else op (fmtOf t) a b

def packed3 (t : ElemTy) (op : Fmt → Nat → Nat → Nat → Nat × Flags) (a b k : Nat) : Nat × Flags :=
  if t == .f16x2 || t == .bf16x2 then
    let lo := op (fmtOf t) (a % 65536) (b % 65536) (k % 65536)
    let hi := op (fmtOf t) (a / 65536) (b / 65536) (k / 65536)
    (lo.1 + 65536 * hi.1, lo.2 ||| hi.2)
  else op (fmtOf t) a b k

def rndOf (e : Option VExt) : Option (BitVec 3) := e.map (·.rnd)

/-- A float word of two sources; op is told the rounding mode and FTZ of the thread (R243). -/
def floatWord2 (i : Instr) (nw : Bool) (d : BitVec 7) (a b : BitVec 8) (e : Option VExt)
    (op : Round → Bool → Fmt → Nat → Nat → Nat × Flags) (s : State) : Host.Outcome State Fault Refusal :=
  let t := tyOf .f32 e
  vecWord2 i nw d a b t.width t.width (immOf e) (t.width == 64)
    (fun th x y => packed2 t (op (roundOf (rndOf e) th.modeNow) (ftzOf th.modeNow)) x y) s

/-- A float word of one source with a result of the type. -/
def floatWord1 (i : Instr) (nw : Bool) (d : BitVec 7) (a : BitVec 8) (e : Option VExt)
    (op : Round → Bool → Fmt → Nat → Nat × Flags) (s : State) : Host.Outcome State Fault Refusal :=
  let t := tyOf .f32 e
  vecWord1 i nw d a t.width (immOf e) (t.width == 64)
    (fun th x => packed1 t (op (roundOf (rndOf e) th.modeNow) (ftzOf th.modeNow)) x) s

def execFadd (nw : Bool) (d : BitVec 7) (a b : BitVec 8) (e : Option VExt) (s : State) : Host.Outcome State Fault Refusal :=
  floatWord2 (.fadd nw d a b e) nw d a b e (fun rm z f => f.fadd rm z) s

def execFsub (nw : Bool) (d : BitVec 7) (a b : BitVec 8) (e : Option VExt) (s : State) : Host.Outcome State Fault Refusal :=
  floatWord2 (.fsub nw d a b e) nw d a b e (fun rm z f => f.fsub rm z) s

def execFmul (nw : Bool) (d : BitVec 7) (a b : BitVec 8) (e : Option VExt) (s : State) : Host.Outcome State Fault Refusal :=
  floatWord2 (.fmul nw d a b e) nw d a b e (fun rm z f => f.fmul rm z) s

def execFfma (nw : Bool) (d : BitVec 7) (a b : BitVec 8) (e : VExt) (s : State) : Host.Outcome State Fault Refusal :=
  vecWord3 (.ffma nw d a b e) nw d a b e.sc e.ty.width e.ty.width e.ty.width e.imm (e.ty.width == 64)
    (fun th x y z => packed3 e.ty (fun f => f.ffma (roundOf (some e.rnd) th.modeNow) (ftzOf th.modeNow)) x y z) s

def execFmin (nw : Bool) (d : BitVec 7) (a b : BitVec 8) (e : Option VExt) (s : State) : Host.Outcome State Fault Refusal :=
  floatWord2 (.fmin nw d a b e) nw d a b e (fun _ z f => f.minMax z false) s

def execFmax (nw : Bool) (d : BitVec 7) (a b : BitVec 8) (e : Option VExt) (s : State) : Host.Outcome State Fault Refusal :=
  floatWord2 (.fmax nw d a b e) nw d a b e (fun _ z f => f.minMax z true) s

def execFabs (nw : Bool) (d : BitVec 7) (a : BitVec 8) (e : Option VExt) (s : State) : Host.Outcome State Fault Refusal :=
  floatWord1 (.fabs nw d a e) nw d a e (fun _ _ f x => (f.fabs x, 0)) s

def execFneg (nw : Bool) (d : BitVec 7) (a : BitVec 8) (e : Option VExt) (s : State) : Host.Outcome State Fault Refusal :=
  floatWord1 (.fneg nw d a e) nw d a e (fun _ _ f x => (f.fneg x, 0)) s

def execFclass (nw : Bool) (d : BitVec 7) (a : BitVec 8) (e : Option VExt) (s : State) : Host.Outcome State Fault Refusal :=
  let t := tyOf .f32 e
  vecWord1 (.fclass nw d a e) nw d a t.width (immOf e) false (fun _ x => ((fmtOf t).fclass x, 0)) s

def execFrnd (nw : Bool) (d : BitVec 7) (a : BitVec 8) (e : Option VExt) (s : State) : Host.Outcome State Fault Refusal :=
  floatWord1 (.frnd nw d a e) nw d a e (fun rm z f => f.frnd rm z) s

def execFrcp (nw : Bool) (d : BitVec 7) (a : BitVec 8) (e : Option VExt) (s : State) : Host.Outcome State Fault Refusal :=
  floatWord1 (.frcp nw d a e) nw d a e (fun rm z f => f.frcp rm z) s

def execFrsq (nw : Bool) (d : BitVec 7) (a : BitVec 8) (e : Option VExt) (s : State) : Host.Outcome State Fault Refusal :=
  floatWord1 (.frsq nw d a e) nw d a e (fun rm z f => f.frsq rm z) s

def execFsqrt (nw : Bool) (d : BitVec 7) (a : BitVec 8) (e : Option VExt) (s : State) : Host.Outcome State Fault Refusal :=
  floatWord1 (.fsqrt nw d a e) nw d a e (fun rm z f => f.fsqrt rm z) s

def execFlog2 (nw : Bool) (d : BitVec 7) (a : BitVec 8) (e : Option VExt) (s : State) : Host.Outcome State Fault Refusal :=
  floatWord1 (.flog2 nw d a e) nw d a e (fun rm z f => f.flog2 rm z) s

def execFsin (nw : Bool) (d : BitVec 7) (a : BitVec 8) (e : Option VExt) (s : State) : Host.Outcome State Fault Refusal :=
  floatWord1 (.fsin nw d a e) nw d a e (fun rm z f => f.fsin rm z) s

def execFcos (nw : Bool) (d : BitVec 7) (a : BitVec 8) (e : Option VExt) (s : State) : Host.Outcome State Fault Refusal :=
  floatWord1 (.fcos nw d a e) nw d a e (fun rm z f => f.fcos rm z) s

def execFcmp (nw : Bool) (d : BitVec 7) (a b : BitVec 8) (e : VExt) (s : State) : Host.Outcome State Fault Refusal :=
  vecWord2 (.fcmp nw d a b e) nw d a b e.ty.width e.ty.width (some e.imm) false
    (fun th x y => let r := (fmtOf e.ty).fcmp (ftzOf th.modeNow) e.rnd.toNat x y; (Bool.bit r.1, r.2)) s

/-- FSCALE (R322): b is a 32-bit operand read as signed. -/
def execFscale (nw : Bool) (d : BitVec 7) (a b : BitVec 8) (e : Option VExt) (s : State) : Host.Outcome State Fault Refusal :=
  let t := tyOf .f32 e
  vecWord2 (.fscale nw d a b e) nw d a b t.width 32 (immOf e) (t.width == 64)
    (fun th x y => (fmtOf t).fscale (roundOf (rndOf e) th.modeNow) (ftzOf th.modeNow) x (toSigned 32 y)) s

def execFexp2s (nw : Bool) (d : BitVec 7) (a b : BitVec 8) (e : VExt) (s : State) : Host.Outcome State Fault Refusal :=
  vecWord3 (.fexp2s nw d a b e) nw d a b e.sc 32 32 32 e.imm false
    (fun th x y z => fmtF32.fexp2s (roundOf (some e.rnd) th.modeNow) (ftzOf th.modeNow) x y z) s

/-- CVT (R324): a narrow integer result is extended to 32 bits (R241, R312). -/
def execCvt (nw : Bool) (d : BitVec 7) (a : BitVec 8) (stype : ElemTy) (e : VExt) (s : State) :
    Host.Outcome State Fault Refusal :=
  vecWord1 (.cvt nw d a stype e) nw d a stype.width (some e.imm) (e.ty.width == 64)
    (fun th x => widen e.ty (convert stype e.ty (roundOf (some e.rnd) th.modeNow) (ftzOf th.modeNow) x)) s

def execVpack (nw : Bool) (d : BitVec 7) (a b : BitVec 8) (e : VExt) (s : State) : Host.Outcome State Fault Refusal :=
  vecWord3 (.vpack nw d a b e) nw d a b e.sc 32 32 32 e.imm false
    (fun th x y z => vpackVal e.ty (roundOf (some e.rnd) th.modeNow) x y z) s

def execVunpk (nw : Bool) (d : BitVec 7) (a b : BitVec 8) (e : VExt) (s : State) : Host.Outcome State Fault Refusal :=
  vecWord2 (.vunpk nw d a b e) nw d a b 32 32 (some e.imm) false (fun _ x y => vunpkVal e.ty x y) s

end Sys2Proof.Machine
end

