-- ==== Sys2Proof/Machine/Dispatch.lean ====
section
/-! DEFINITION. One arm per constructor of Instr, in the order of Syntax.lean: a direct call of its meaning. -/

namespace Sys2Proof.Machine

def exec (i : Instr) (s : State) : Host.Outcome State Fault Refusal :=
  match i with
  | .registerWrite fn off width value => Sys2Proof.Machine.execRegisterWrite fn off width value s
  | .partownWrite partition value => Sys2Proof.Machine.execPartownWrite partition value s
  | .tninvTenant tenant value => Sys2Proof.Machine.execTninvTenant tenant value s
  | .tninvPage tenant value => Sys2Proof.Machine.execTninvPage tenant value s
  | .tninvDone tenant => Sys2Proof.Machine.execTninvDone tenant s
  | .queueEnable tenant queue value => Sys2Proof.Machine.execQueueEnable tenant queue value s
  | .qtailWrite tenant queue value => Sys2Proof.Machine.execQtailWrite tenant queue value s
  | .lpbAccept tenant => Sys2Proof.Machine.execLpbAccept tenant s
  | .teamPlace tenant => Sys2Proof.Machine.execTeamPlace tenant s
  | .clauseStart core => Sys2Proof.Machine.execClauseStart core s
  | .pickerPriority core => Sys2Proof.Machine.execPickerPriority core s
  | .pendingWriteback flight => Sys2Proof.Machine.execPendingWriteback flight s
  | .imageCompletion team => Sys2Proof.Machine.execImageCompletion team s
  | .translationWalk cluster tenant page => Sys2Proof.Machine.execTranslationWalk cluster tenant page s
  | .counterCompletion op => Sys2Proof.Machine.execCounterCompletion op s
  | .awlGrant owner => Sys2Proof.Machine.execAwlGrant owner s
  | .awlPerform owner index => Sys2Proof.Machine.execAwlPerform owner index s
  | .remoteAck op ok => Sys2Proof.Machine.execRemoteAck op ok s
  | .peerCheckReply core accept va => Sys2Proof.Machine.execPeerCheckReply core accept va s
  | .matrixResult team group tile => Sys2Proof.Machine.execMatrixResult team group tile s
  | .tileLoadComplete team group tile => Sys2Proof.Machine.execTileLoadComplete team group tile s
  | .sweepResult flight => Sys2Proof.Machine.execSweepResult flight s
  | .reinAllowanceGrant core => Sys2Proof.Machine.execReinAllowanceGrant core s
  | .reinRemoteWrite op => Sys2Proof.Machine.execReinRemoteWrite op s
  | .cinchRelease launch => Sys2Proof.Machine.execCinchRelease launch s
  | .teamRetire team => Sys2Proof.Machine.execTeamRetire team s
  | .launchComplete launch => Sys2Proof.Machine.execLaunchComplete launch s
  | .seamFire launch => Sys2Proof.Machine.execSeamFire launch s
  | .seamLinkReread launch face => Sys2Proof.Machine.execSeamLinkReread launch face s
  | .islSetEnable tenant slot value => Sys2Proof.Machine.execIslSetEnable tenant slot value s
  | .islSetDisable tenant slot value => Sys2Proof.Machine.execIslSetDisable tenant slot value s
  | .pm1Write tenant slot value => Sys2Proof.Machine.execPm1Write tenant slot value s
  | .islReportReceive tenant slot kind a b => Sys2Proof.Machine.execIslReportReceive tenant slot kind a b s
  | .stepBoundary tenant slot => Sys2Proof.Machine.execStepBoundary tenant slot s
  | .islSetPoison tenant slot => Sys2Proof.Machine.execIslSetPoison tenant slot s
  | .eventRingEnable tenant value => Sys2Proof.Machine.execEventRingEnable tenant value s
  | .dbgRead tenant force => Sys2Proof.Machine.execDbgRead tenant force s
  | .dbgWrite tenant force => Sys2Proof.Machine.execDbgWrite tenant force s
  | .dbgTileWriteDone tenant => Sys2Proof.Machine.execDbgTileWriteDone tenant s
  | .contextSuspend tenant => Sys2Proof.Machine.execContextSuspend tenant s
  | .suspendComplete tenant => Sys2Proof.Machine.execSuspendComplete tenant s
  | .contextResume tenant => Sys2Proof.Machine.execContextResume tenant s
  | .contextKill tenant => Sys2Proof.Machine.execContextKill tenant s
  | .checkpointTake tenant => Sys2Proof.Machine.execCheckpointTake tenant s
  | .rollback tenant => Sys2Proof.Machine.execRollback tenant s
  | .checkpointEnable tenant => Sys2Proof.Machine.execCheckpointEnable tenant s
  | .checkpointDisable tenant => Sys2Proof.Machine.execCheckpointDisable tenant s
  | .undoLogMark partition => Sys2Proof.Machine.execUndoLogMark partition s
  | .teamFault team => Sys2Proof.Machine.execTeamFault team s
  | .tenantFault tenant => Sys2Proof.Machine.execTenantFault tenant s
  | .linkFlitFailure recurring => Sys2Proof.Machine.execLinkFlitFailure recurring s
  | .uncorrectableError unit => Sys2Proof.Machine.execUncorrectableError unit s
  | .correctedError partition => Sys2Proof.Machine.execCorrectedError partition s
  | .skvctlWrite core value => Sys2Proof.Machine.execSkvctlWrite core value s
  | .marginStepSettle core => Sys2Proof.Machine.execMarginStepSettle core s
  | .skiveWindowExpire core => Sys2Proof.Machine.execSkiveWindowExpire core s
  | .timingReplay core => Sys2Proof.Machine.execTimingReplay core s
  | .nrLateTransition core => Sys2Proof.Machine.execNrLateTransition core s
  | .quarClear core => Sys2Proof.Machine.execQuarClear core s
  | .clkratWrite core value => Sys2Proof.Machine.execClkratWrite core value s
  | .clockRatioChange core => Sys2Proof.Machine.execClockRatioChange core s
  | .powerCapAdjust core cap => Sys2Proof.Machine.execPowerCapAdjust core cap s
  | .overcurrent alarm => Sys2Proof.Machine.execOvercurrent alarm s
  | .pcapRecovery core cap => Sys2Proof.Machine.execPcapRecovery core cap s
  | .girthFiller die core running microjoules => Sys2Proof.Machine.execGirthFiller die core running microjoules s
  | .vfFlr partition => Sys2Proof.Machine.execVfFlr partition s
  | .renazPortDown port => Sys2Proof.Machine.execRenazPortDown port s
  | .trap n => Sys2Proof.Machine.execTrap n s
  | .joinEnrol n => Sys2Proof.Machine.execJoinEnrol n s
  | .joinPark n => Sys2Proof.Machine.execJoinPark n s
  | .joinStrike n => Sys2Proof.Machine.execJoinStrike n s
  | .joinTest d n => Sys2Proof.Machine.execJoinTest d n s
  | .smovi d imm => Sys2Proof.Machine.execSmovi d imm s
  | .smovh d imm => Sys2Proof.Machine.execSmovh d imm s
  | .saddi d imm => Sys2Proof.Machine.execSaddi d imm s
  | .sldc d lit => Sys2Proof.Machine.execSldc d lit s
  | .smov d a => Sys2Proof.Machine.execSmov d a s
  | .sclz d a => Sys2Proof.Machine.execSclz d a s
  | .spopc d a => Sys2Proof.Machine.execSpopc d a s
  | .sadd d a b => Sys2Proof.Machine.execSadd d a b s
  | .ssub d a b => Sys2Proof.Machine.execSsub d a b s
  | .smul d a b => Sys2Proof.Machine.execSmul d a b s
  | .smulh d a b => Sys2Proof.Machine.execSmulh d a b s
  | .smulhS32 d a b => Sys2Proof.Machine.execSmulhS32 d a b s
  | .sand d a b => Sys2Proof.Machine.execSand d a b s
  | .sor d a b => Sys2Proof.Machine.execSor d a b s
  | .sxor d a b => Sys2Proof.Machine.execSxor d a b s
  | .sandn d a b => Sys2Proof.Machine.execSandn d a b s
  | .sshl d a b => Sys2Proof.Machine.execSshl d a b s
  | .sshr d a b => Sys2Proof.Machine.execSshr d a b s
  | .ssar d a b => Sys2Proof.Machine.execSsar d a b s
  | .smin d a b => Sys2Proof.Machine.execSmin d a b s
  | .smax d a b => Sys2Proof.Machine.execSmax d a b s
  | .sminz d a b => Sys2Proof.Machine.execSminz d a b s
  | .smaxz d a b => Sys2Proof.Machine.execSmaxz d a b s
  | .scmp d a e => Sys2Proof.Machine.execScmp d a e s
  | .ssel d a e => Sys2Proof.Machine.execSsel d a e s
  | .sadd64 d a b => Sys2Proof.Machine.execSadd64 d a b s
  | .ssub64 d a b => Sys2Proof.Machine.execSsub64 d a b s
  | .bra off => Sys2Proof.Machine.execBra off s
  | .braLong lit => Sys2Proof.Machine.execBraLong lit s
  | .bru src cond off => Sys2Proof.Machine.execBru src cond off s
  | .bruLong src cond lit => Sys2Proof.Machine.execBruLong src cond lit s
  | .sget func d => Sys2Proof.Machine.execSget func d s
  | .sset func a => Sys2Proof.Machine.execSset func a s
  | .brt src cond off => Sys2Proof.Machine.execBrt src cond off s
  | .brtLong src cond lit => Sys2Proof.Machine.execBrtLong src cond lit s
  | .modeset src => Sys2Proof.Machine.execModeset src s
  | .modeget d => Sys2Proof.Machine.execModeget d s
  | .modegetFlags d => Sys2Proof.Machine.execModegetFlags d s
  | .clk d => Sys2Proof.Machine.execClk d s
  | .call off => Sys2Proof.Machine.execCall off s
  | .callLong lit => Sys2Proof.Machine.execCallLong lit s
  | .brx src => Sys2Proof.Machine.execBrx src s
  | .callx src => Sys2Proof.Machine.execCallx src s
  | .vadd nw d a b e => Sys2Proof.Machine.execVadd nw d a b e s
  | .vaddsat nw d a b e => Sys2Proof.Machine.execVaddsat nw d a b e s
  | .vsub nw d a b e => Sys2Proof.Machine.execVsub nw d a b e s
  | .vsubsat nw d a b e => Sys2Proof.Machine.execVsubsat nw d a b e s
  | .vmul nw d a b e => Sys2Proof.Machine.execVmul nw d a b e s
  | .vmulh nw d a b e => Sys2Proof.Machine.execVmulh nw d a b e s
  | .vmad nw d a b e => Sys2Proof.Machine.execVmad nw d a b e s
  | .vand nw d a b e => Sys2Proof.Machine.execVand nw d a b e s
  | .vor nw d a b e => Sys2Proof.Machine.execVor nw d a b e s
  | .vxor nw d a b e => Sys2Proof.Machine.execVxor nw d a b e s
  | .vshl nw d a b e => Sys2Proof.Machine.execVshl nw d a b e s
  | .vshr nw d a b e => Sys2Proof.Machine.execVshr nw d a b e s
  | .vsar nw d a b e => Sys2Proof.Machine.execVsar nw d a b e s
  | .vmin nw d a b e => Sys2Proof.Machine.execVmin nw d a b e s
  | .vmax nw d a b e => Sys2Proof.Machine.execVmax nw d a b e s
  | .vnot nw d a e => Sys2Proof.Machine.execVnot nw d a e s
  | .vabs nw d a e => Sys2Proof.Machine.execVabs nw d a e s
  | .vneg nw d a e => Sys2Proof.Machine.execVneg nw d a e s
  | .vclz nw d a e => Sys2Proof.Machine.execVclz nw d a e s
  | .vpopc nw d a e => Sys2Proof.Machine.execVpopc nw d a e s
  | .vbrev nw d a e => Sys2Proof.Machine.execVbrev nw d a e s
  | .vcmp nw d a b e => Sys2Proof.Machine.execVcmp nw d a b e s
  | .vsel nw d a b e => Sys2Proof.Machine.execVsel nw d a b e s
  | .vbfe nw d a b e => Sys2Proof.Machine.execVbfe nw d a b e s
  | .vbfi nw d a b e => Sys2Proof.Machine.execVbfi nw d a b e s
  | .vdiv nw d a b e => Sys2Proof.Machine.execVdiv nw d a b e s
  | .vrem nw d a b e => Sys2Proof.Machine.execVrem nw d a b e s
  | .fadd nw d a b e => Sys2Proof.Machine.execFadd nw d a b e s
  | .fsub nw d a b e => Sys2Proof.Machine.execFsub nw d a b e s
  | .fmul nw d a b e => Sys2Proof.Machine.execFmul nw d a b e s
  | .ffma nw d a b e => Sys2Proof.Machine.execFfma nw d a b e s
  | .fmin nw d a b e => Sys2Proof.Machine.execFmin nw d a b e s
  | .fmax nw d a b e => Sys2Proof.Machine.execFmax nw d a b e s
  | .fabs nw d a e => Sys2Proof.Machine.execFabs nw d a e s
  | .fneg nw d a e => Sys2Proof.Machine.execFneg nw d a e s
  | .fclass nw d a e => Sys2Proof.Machine.execFclass nw d a e s
  | .frnd nw d a e => Sys2Proof.Machine.execFrnd nw d a e s
  | .frcp nw d a e => Sys2Proof.Machine.execFrcp nw d a e s
  | .frsq nw d a e => Sys2Proof.Machine.execFrsq nw d a e s
  | .fsqrt nw d a e => Sys2Proof.Machine.execFsqrt nw d a e s
  | .flog2 nw d a e => Sys2Proof.Machine.execFlog2 nw d a e s
  | .fsin nw d a e => Sys2Proof.Machine.execFsin nw d a e s
  | .fcos nw d a e => Sys2Proof.Machine.execFcos nw d a e s
  | .fcmp nw d a b e => Sys2Proof.Machine.execFcmp nw d a b e s
  | .fscale nw d a b e => Sys2Proof.Machine.execFscale nw d a b e s
  | .fexp2s nw d a b e => Sys2Proof.Machine.execFexp2s nw d a b e s
  | .cvt nw d a stype e => Sys2Proof.Machine.execCvt nw d a stype e s
  | .vpack nw d a b e => Sys2Proof.Machine.execVpack nw d a b e s
  | .vunpk nw d a b e => Sys2Proof.Machine.execVunpk nw d a b e s
  | .vshfl nw d a b e => Sys2Proof.Machine.execVshfl nw d a b e s
  | .vshfx nw d a b e => Sys2Proof.Machine.execVshfx nw d a b e s
  | .vshfup nw d a b e => Sys2Proof.Machine.execVshfup nw d a b e s
  | .vshfdn nw d a b e => Sys2Proof.Machine.execVshfdn nw d a b e s
  | .vbcst nw d a b e => Sys2Proof.Machine.execVbcst nw d a b e s
  | .vred nw d a op e => Sys2Proof.Machine.execVred nw d a op e s
  | .vscan nw d a op e => Sys2Proof.Machine.execVscan nw d a op e s
  | .vballot nw d a => Sys2Proof.Machine.execVballot nw d a s
  | .vvote nw d a mode => Sys2Proof.Machine.execVvote nw d a mode s
  | .rand nw d a e => Sys2Proof.Machine.execRand nw d a e s
  | .rebal nw d a b e => Sys2Proof.Machine.execRebal nw d a b e s
  | .vtopk nw d a b e => Sys2Proof.Machine.execVtopk nw d a b e s
  | .ld32 d p ix e => Sys2Proof.Machine.execLd32 d p ix e s
  | .ld64 d p ix e => Sys2Proof.Machine.execLd64 d p ix e s
  | .st32 d p ix e => Sys2Proof.Machine.execSt32 d p ix e s
  | .st64 d p ix e => Sys2Proof.Machine.execSt64 d p ix e s
  | .ldf32 d p ix e => Sys2Proof.Machine.execLdf32 d p ix e s
  | .ldf64 d p ix e => Sys2Proof.Machine.execLdf64 d p ix e s
  | .stf32 d p ix e => Sys2Proof.Machine.execStf32 d p ix e s
  | .stf64 d p ix e => Sys2Proof.Machine.execStf64 d p ix e s
  | .ldu d a b => Sys2Proof.Machine.execLdu d a b s
  | .atom nw d p ix e => Sys2Proof.Machine.execAtom nw d p ix e s
  | .red p ix e => Sys2Proof.Machine.execRed p ix e s
  | .atomCas nw d p ix e => Sys2Proof.Machine.execAtomCas nw d p ix e s
  | .atomCas64 nw d p ix e => Sys2Proof.Machine.execAtomCas64 nw d p ix e s
  | .fence remote storage scope kind => Sys2Proof.Machine.execFence remote storage scope kind s
  | .waitc ctr n => Sys2Proof.Machine.execWaitc ctr n s
  | .push a b => Sys2Proof.Machine.execPush a b s
  | .pusht d a b => Sys2Proof.Machine.execPusht d a b s
  | .pop d a => Sys2Proof.Machine.execPop d a s
  | .popt d a => Sys2Proof.Machine.execPopt d a s
  | .reinOpen a b => Sys2Proof.Machine.execReinOpen a b s
  | .reinClose a => Sys2Proof.Machine.execReinClose a s
  | .pref p ix e => Sys2Proof.Machine.execPref p ix e s
  | .sweep d p ix budget => Sys2Proof.Machine.execSweep d p ix budget s
  | .cpy d a b => Sys2Proof.Machine.execCpy d a b s
  | .cpySb d a b => Sys2Proof.Machine.execCpySb d a b s
  | .cpy2d d a b => Sys2Proof.Machine.execCpy2d d a b s
  | .cpy2dSb d a b => Sys2Proof.Machine.execCpy2dSb d a b s
  | .gath d p ix e => Sys2Proof.Machine.execGath d p ix e s
  | .scat d p ix e => Sys2Proof.Machine.execScat d p ix e s
  | .xcpy d a b => Sys2Proof.Machine.execXcpy d a b s
  | .xred d a e => Sys2Proof.Machine.execXred d a e s
  | .mma d c a b e => Sys2Proof.Machine.execMma d c a b e s
  | .mmab d c a b e => Sys2Proof.Machine.execMmab d c a b e s
  | .mmag d c a b e => Sys2Proof.Machine.execMmag d c a b e s
  | .smma d c a b e => Sys2Proof.Machine.execSmma d c a b e s
  | .tld d p b e => Sys2Proof.Machine.execTld d p b e s
  | .tst d p b e => Sys2Proof.Machine.execTst d p b e s
  | .tzero d => Sys2Proof.Machine.execTzero d s
  | .tmov d c => Sys2Proof.Machine.execTmov d c s
  | .twait d => Sys2Proof.Machine.execTwait d s
  | .tstat a => Sys2Proof.Machine.execTstat a s
  | .tcvt d c e => Sys2Proof.Machine.execTcvt d c e s
  | .msearch c m => Sys2Proof.Machine.execMsearch c m s
  | .resv p q => Sys2Proof.Machine.execResv p q s
  | .rels p => Sys2Proof.Machine.execRels p s
  | .rqry p q => Sys2Proof.Machine.execRqry p q s
  | .gang p => Sys2Proof.Machine.execGang p s
  | .launch d p => Sys2Proof.Machine.execLaunch d p s
  | .lwait d h => Sys2Proof.Machine.execLwait d h s
  | .lstat d h => Sys2Proof.Machine.execLstat d h s
  | .seamPos d => Sys2Proof.Machine.execSeamPos d s
  | .seamQry d sel => Sys2Proof.Machine.execSeamQry d sel s
  | .islLink v kind slot => Sys2Proof.Machine.execIslLink v kind slot s
  | .islUnlink v slot => Sys2Proof.Machine.execIslUnlink v slot s
  | .islStep d => Sys2Proof.Machine.execIslStep d s
  | .islInfo d sel slot => Sys2Proof.Machine.execIslInfo d sel slot s
  | .islWake v slot => Sys2Proof.Machine.execIslWake v slot s
  | .stampMix a => Sys2Proof.Machine.execStampMix a s
  | .stampGet v => Sys2Proof.Machine.execStampGet v s
  | .evtpost p code => Sys2Proof.Machine.execEvtpost p code s
  | .skvGet d sel => Sys2Proof.Machine.execSkvGet d sel s
  | .pctr d all n => Sys2Proof.Machine.execPctr d all n s
  | .feat d => Sys2Proof.Machine.execFeat d s
  | .illegalInstruction word => Sys2Proof.Machine.execIllegalInstruction word s
  | .accessPerformed flight => Sys2Proof.Machine.execAccessPerformed flight s
  | .imageMove team addr => Sys2Proof.Machine.execImageMove team addr s
  | .nop => Sys2Proof.Machine.execNop s
  | .exit => Sys2Proof.Machine.execExit s
  | .yield => Sys2Proof.Machine.execYield s
  | .tret => Sys2Proof.Machine.execTret s
  | .ret => Sys2Proof.Machine.execRet s
  | .drain => Sys2Proof.Machine.execDrain s
  | .seamDone => Sys2Proof.Machine.execSeamDone s
  | .islStill => Sys2Proof.Machine.execIslStill s
  | .halt => Sys2Proof.Machine.execHalt s
  | .pfReset => Sys2Proof.Machine.execPfReset s
  | .powerOn => Sys2Proof.Machine.execPowerOn s
  | .powerLoss => Sys2Proof.Machine.execPowerLoss s
  | .networkBoot => Sys2Proof.Machine.execNetworkBoot s
  | .redfishRequest => Sys2Proof.Machine.execRedfishRequest s
  | .getVersion => Sys2Proof.Machine.execGetVersion s
  | .getCapabilities => Sys2Proof.Machine.execGetCapabilities s
  | .negotiateAlgorithms => Sys2Proof.Machine.execNegotiateAlgorithms s
  | .getDigests => Sys2Proof.Machine.execGetDigests s
  | .getCertificate => Sys2Proof.Machine.execGetCertificate s
  | .challenge => Sys2Proof.Machine.execChallenge s
  | .getMeasurements => Sys2Proof.Machine.execGetMeasurements s
  | .renazInboundAccess => Sys2Proof.Machine.execRenazInboundAccess s
  | .xredContribution => Sys2Proof.Machine.execXredContribution s
  | .inboundHostWrite => Sys2Proof.Machine.execInboundHostWrite s

end Sys2Proof.Machine
end

