-- ==== Sys2Proof/Machine/Step.lean ====
section
/-! DEFINITION. One step of the machine: the next turn of the agenda, or, when the agenda is empty, what the model's own policy
chooses (log 2). -/

namespace Sys2Proof.Machine

/-! ### Issuing -/

/-- The word that stands next in a bundle: what it decodes to, or the word itself. -/
def Bundle.next (b : Bundle) : Instr :=
  let w := b.words.getD b.pos 0
  match decodeWords w b.words[b.pos + 1]? with
  | .ok i => i
  | .error _ => .illegalInstruction w

/-- The bundle of a core issues its next word, and filler in the vector datapath stops (R433). A bundle past its last word waits there for a remote answer (R396). -/
def State.issueOn (s : State) (core : Nat) : Host.Outcome State Fault Refusal :=
  match (s.core core).bundle with
  | none => .refused .noBundle
  | some b =>
    if hdrCount b.header ≤ b.pos then .next (s.endOrWait core b)
    else exec b.next { s.stopFiller core 1 with cur := core }

/-! ### The model's own policy (log 2) -/

/-- The cores that hold a bundle, the current one first. -/
def State.busyCores (s : State) : List Nat :=
  let cs := (s.cores.filter (fun c => c.2.bundle.isSome)).map (·.1)
  cs.filter (· == s.cur) ++ cs.filter (· != s.cur)

/-- The cores that hold groups, those behind the current one first. -/
def State.usedCores (s : State) : List Nat :=
  let cs := ((s.liveTeams.map (fun t => (s.groupsOf t).map (fun g => (s.group t g).core))).flatten).dedup
  cs.filter (s.cur < ·) ++ cs.filter (· ≤ s.cur)

/-- A bundle that does not wait. -/
def State.goingCore (s : State) : Option Nat :=
  s.busyCores.find? (fun c => match (s.core c).bundle with
    | some b => !b.stalled
    | none => false)

/-- Work in flight and answers from remote sides, oldest first in each kind. -/
def State.pendingWork (s : State) : List Instr :=
  s.sent.map (fun r => .islReportReceive r.tenant r.slot r.report.kind r.report.a r.report.b) ++
  s.flights.map (fun f =>
    if f.performed then .pendingWriteback f.id
    else if f.kind == .sweep then .sweepResult f.id
    else if f.loc.remote then .remoteAck f.id true
    else .accessPerformed f.id) ++
  (s.awl.map (fun q => [Instr.awlGrant q.owner, .awlPerform q.owner 0])).flatten ++
  (s.ops.map (fun o => [Instr.counterCompletion o.id, .reinRemoteWrite o.id, .remoteAck o.id true])).flatten ++
  (s.busyCores.map (fun c => [Instr.reinAllowanceGrant c, .peerCheckReply c true 0])).flatten ++
  (s.liveTeams.map (fun t => ((s.groupsOf t).map (fun g =>
    (((s.group t g).tiles.filter (fun a => a.2.f)).map (fun a => [Instr.matrixResult t g a.1, .tileLoadComplete t g a.1])).flatten)).flatten)).flatten

/-- What the units of the module may do next. -/
def State.pendingUnits (s : State) : List Instr :=
  let tns := s.tenants.map (·.1)
  let ns := s.launches.map (·.1)
  s.liveTeams.map .teamRetire ++ s.liveTeams.map .imageCompletion ++ ns.map .cinchRelease ++ ns.map .launchComplete ++ ns.map .seamFire ++
    (s.cores.map (fun c => [Instr.marginStepSettle c.1, .clockRatioChange c.1])).flatten ++
    (tns.map (fun t => [Instr.tninvDone t, .dbgTileWriteDone t, .suspendComplete t, .teamPlace t, .lpbAccept t])).flatten ++
    (tns.map (fun t => (List.range 16).map (fun k => Instr.stepBoundary t k))).flatten ++
    [.renazInboundAccess, .xredContribution, .inboundHostWrite, .redfishRequest, .getVersion, .getCapabilities, .negotiateAlgorithms,
      .getDigests, .getCertificate, .challenge, .getMeasurements]

/-- The linked records the Seam units read again (R209). -/
def State.rereads (s : State) : List Instr :=
  (s.launches.map (fun n => (List.range 6).map (fun k => Instr.seamLinkReread n.1 k))).flatten

/-- An event. Before step 6 of bring-up nothing of the host arrives (R445). -/
def State.event (s : State) (i : Instr) : Host.Outcome State Fault Refusal := if s.hears i then exec i s else s.idle

/-- The first of a list of events that find something to act on. -/
def State.firstEvent (s : State) : List Instr → Option (Host.Outcome State Fault Refusal)
  | [] => none
  | i :: r =>
    match s.event i with
    | .next s' => if s'.idled then s.firstEvent r else some (.next s')
    | .fault f => some (.fault f)
    | .refused _ => s.firstEvent r

/-- The words that wait at issue are tried again. -/
def State.retry (s : State) : State :=
  { s with cores := s.cores.map (fun c => (c.1, { c.2 with bundle := c.2.bundle.map (fun b => { b with stalled := false }) })) }

/-- With an empty agenda: a word of a bundle that does not wait; else work in flight completes or a unit acts, and waiting words are
tried again; else a clause starts; else a linked record is read again; else a cycle passes. Cores take turns at starting
clauses, so a program that spins on a value stops neither a unit nor another core. -/
def State.policy (s : State) : Host.Outcome State Fault Refusal :=
  match s.goingCore with
  | some c => s.issueOn c
  | none =>
    match s.retry.firstEvent (s.pendingWork ++ s.pendingUnits) with
    | some r => r
    | none =>
      match s.firstEvent (s.usedCores.map .clauseStart ++ s.rereads) with
      | some r => r
      | none =>
        match s.busyCores with
        | c :: _ => s.issueOn c
        | [] => .next s

/-! ### The step -/

/-- n core cycles pass before what comes next. -/
def State.pass (s : State) (n : Nat) : State := ({ s with idled := false }.markReady).tick n

/-- One step. -/
def step (s : State) : Host.Outcome State Fault Refusal :=
  match s.agenda with
  | [] => (s.pass 1).policy
  | ⟨n, .issue c⟩ :: r => ({ s with agenda := r }.pass n).issueOn c
  | ⟨n, .event i⟩ :: r => if i.isWord then .refused .wordInAgenda else ({ s with agenda := r }.pass n).event i

/-! ### The host's probe -/

/-- The launch parameter block of the host's probe: one team of one group of 16 threads. -/
def probeLpb : Lpb := { t := 16, nv := 128, nu := 384, nt := 16, d8 := 1, e0 := 1, e1 := 1, e2 := 1 }

/-- The clause of the host's probe: its header, with the word's class, and the words the instruction has. -/
def probeHeader (w0 : Word) : Word :=
  BitVec.ofNat 32 (wordsOf w0 * 2 ^ 28 + 2 ^ (classOf (opOf w0)).bit + 2 ^ 7 + 0xA)

/-- A started bundle on core 0 whose next word is the given instruction (log 1): the next step issues it. -/
def State.withFetchWord (s : State) (nbits w : Nat) : State :=
  let v := w % 2 ^ nbits
  let w0 : Word := BitVec.ofNat 32 v
  let w1 : Word := BitVec.ofNat 32 (v / 2 ^ 32)
  let t := s.nextId
  let n := s.nextId + 1
  let ms : List (Nat × Nat) := (List.range 16).map (fun l => (0, l))
  let g : Group := { live := true, threads := (List.range 16).map (fun l => (l, { status := .ready })) }
  let x : Team := { live := true, launch := n, groups := [(0, g)], region := probeLpb.region, started := true }
  let l : Launch := { live := true, lpb := probeLpb, total := 1, next := 1 }
  let b : Bundle := { team := t, members := ms, pc := 0, header := probeHeader w0, words := [w0, w1] }
  let s := ((s.setTeam t x).setLaunch n l).updPartition 0 (fun p => { p with tenant := 0, valid := true })
  let s := s.setBundle 0 (some b)
  { s with agenda := [], cur := 0, nextId := s.nextId + 2 }

end Sys2Proof.Machine
end

