-- ==== Sys2Proof/Machine/Ordering.lean ====
section
/-! DEFINITION. The ordering axioms (spec 05, R82 to R107) as a judgement on finite executions. An execution lists the instructions that were
executed, with the accesses they made, and says which write each read observed, in which order the writes of each location stand, and in which
order the SC fences do. Its events, their scopes and every other relation follow from the words themselves. -/

namespace Sys2Proof.Machine.Ordering

/-! ### Relations between the numbers below a bound -/

/-- Row a has bit b where the relation holds from a to b. -/
abbrev Rel := List Nat

def Rel.holds (r : Rel) (a b : Nat) : Bool := (r.getD a 0).testBit b

/-- The numbers of a list, as bits. -/
def bitsOfList (bs : List Nat) : Nat := bs.foldl (fun m b => m ||| 2 ^ b) 0

def Rel.of (n : Nat) (p : Nat → Nat → Bool) : Rel := (List.range n).map (fun a => bitsOfList ((List.range n).filter (p a)))

def Rel.or (r s : Rel) : Rel := List.zipWith (· ||| ·) r s

/-- r ; s -/
def Rel.comp (n : Nat) (r s : Rel) : Rel :=
  r.map (fun x => (List.range n).foldl (fun m b => if x.testBit b then m ||| s.getD b 0 else m) 0)

/-- Transitive closure: chains through the numbers below k, for k = 0, 1, up to n. -/
def Rel.plus (n : Nat) (r : Rel) : Rel :=
  (List.range n).foldl (fun r k => r.map (fun x => if x.testBit k then x ||| r.getD k 0 else x)) r

def Rel.irreflexive (n : Nat) (r : Rel) : Bool := (List.range n).all (fun a => !r.holds a a)

/-! ### Locations (R83, R85) -/

/-- Where an access goes. -/
inductive Place where
  /-- A byte of a fabric slice or of global memory. -/
  | mem (l : Loc)
  /-- A byte of a team's Saddlebag space. -/
  | saddlebag (team off : Nat)
  /-- A reservation-table entry of a team (R108). -/
  | entry (team id : Nat)
  deriving DecidableEq, Repr

/-- The n-th location from a place. -/
def Place.key (p : Place) (n : Nat) : Nat × Nat :=
  match p with
  | .mem l => (2 * l.key.1, l.key.2 + n)
  | .saddlebag t o => (4 * t + 1, o + n)
  | .entry t i => (4 * t + 3, i + n)

/-- The owner cluster of a place (R84, R123), for a tenant of a machine. -/
def Place.owner (s : State) (tn : Nat) (p : Place) (n : Nat) : Option Nat :=
  match p with
  | .mem (.fabric c _) => some c
  | .mem (.hbm pa nc) => some (s.ownerOf tn (.hbm (pa + n) nc))
  | _ => none

/-- A fence of a storage scope acts on a place (R85). -/
def covers (code : Nat) (p : Place) : Bool :=
  code == 3 || match p with
    | .mem (.fabric _ _) => code == 0
    | .mem _ => code == 1
    | _ => code == 2

/-- A place that is private to a team (R85). -/
def Place.bag : Place → Bool
  | .mem _ => false
  | _ => true

/-! ### What a word contributes (R82, R86, R88, R92, R105) -/

inductive FenceKind where
  | acq | rel | ar | sc
  deriving DecidableEq, Repr

/-- R88. -/
def FenceKind.begins : FenceKind → Bool
  | .acq => false
  | _ => true

def FenceKind.ends : FenceKind → Bool
  | .rel => false
  | _ => true

def FenceKind.ofCode (k : BitVec 2) : FenceKind :=
  if k = 0#2 then .acq else if k = 1#2 then .rel else if k = 2#2 then .ar else .sc

/-- Kind, agent scope, storage scope and REMOTE of a fence. -/
structure Fence where
  kind : FenceKind
  scope : Nat
  cover : Nat := 3
  remote : Bool := false
  deriving DecidableEq, Repr

/-- The events that bring an implied fence (R92). -/
inductive Implied where
  | push | pop | launch | start | lwait | exit | seamDone (scope : Nat) | completion
  deriving DecidableEq, Repr

/-- The implied fence of an event; its storage scope is .all. -/
def Implied.fence : Implied → Fence
  | .push => ⟨.rel, 4, 3, false⟩ | .pop => ⟨.acq, 4, 3, false⟩ | .launch => ⟨.rel, 4, 3, false⟩ | .start => ⟨.acq, 5, 3, false⟩
  | .lwait => ⟨.acq, 4, 3, false⟩ | .exit => ⟨.rel, 4, 3, false⟩ | .seamDone s => ⟨.rel, s, 3, false⟩ | .completion => ⟨.rel, 5, 3, false⟩

/-- What a word may touch by itself: reads, writes, and the agent scope, encoded or the default of R86 (SWEEP: R351; TLD and TST: R371). -/
structure Touches where
  reads : Bool
  writes : Bool
  scope : Nat
  deriving DecidableEq, Repr

/-- The accesses of the executing threads. LAUNCH reads its parameter block at .dev (R374), and EVTPOST writes its record at .sys (R389), each
by its lowest thread. -/
def ownAccess : Instr → Option Touches
  | .ld32 _ _ _ e | .ld64 _ _ _ e | .ldf32 _ _ _ e | .ldf64 _ _ _ e => some ⟨true, false, mScope e⟩
  | .st32 _ _ _ e | .st64 _ _ _ e | .stf32 _ _ _ e | .stf64 _ _ _ e => some ⟨false, true, mScope e⟩
  | .ldu _ _ (.ext e) => some ⟨true, false, e.func.toNat⟩
  | .ldu _ _ (.short _) | .tld _ _ _ _ => some ⟨true, false, 0⟩
  | .launch _ _ => some ⟨true, false, 4⟩
  | .evtpost _ _ => some ⟨false, true, 5⟩
  | .tst _ _ _ _ => some ⟨false, true, 0⟩
  | .sweep _ _ _ _ => some ⟨true, false, 4⟩
  | _ => none

/-- The accesses to reservation-table entries, of scope .team (R86, R105, R108). -/
def entryAccess : Instr → Option Touches
  | .resv _ _ => some ⟨false, true, 1⟩
  | .rels _ => some ⟨true, true, 1⟩
  | .rqry _ _ | .cpySb _ _ _ | .cpy2dSb _ _ _ | .mmab _ _ _ _ _ | .mmag _ _ _ _ _ | .smma _ _ _ _ _ => some ⟨true, false, 1⟩
  | _ => none

/-- The engine events of a word: what they touch, the counter they count on, whether each lane has its own, whether a read and the write after
it are joined by rmw, and whether a register receives the value (R52, R82, R92). -/
structure Engine where
  touches : Touches
  counter : Option Nat
  lanes : Bool := false
  rmw : Bool := false
  returns : Bool := false
  deriving DecidableEq, Repr

/-- Counted operations, and the Saddlebag reads of matrix operations. -/
def engineOf : Instr → Option Engine
  | .cpy _ _ _ | .cpySb _ _ _ | .cpy2d _ _ _ | .cpy2dSb _ _ _ => some { touches := ⟨true, true, 0⟩, counter := some cCpy }
  | .gath _ _ _ e => some { touches := ⟨true, false, mScope e⟩, counter := some cGth, lanes := true, returns := true }
  | .scat _ _ _ e => some { touches := ⟨false, true, mScope e⟩, counter := some cGth, lanes := true }
  | .atom _ _ _ _ e | .atomCas _ _ _ _ e | .atomCas64 _ _ _ _ e =>
    some { touches := ⟨true, true, e.scope.toNat⟩, counter := some cAto, lanes := true, rmw := true, returns := true }
  | .red _ _ e => some { touches := ⟨true, true, e.scope.toNat⟩, counter := some cAto, lanes := true, rmw := true }
  | .xcpy _ _ _ => some { touches := ⟨true, true, 5⟩, counter := some cCol }
  | .xred _ _ _ => some { touches := ⟨true, true, 5⟩, counter := some cCol, rmw := true }
  | .mmab _ _ _ _ _ | .mmag _ _ _ _ _ | .smma _ _ _ _ _ => some { touches := ⟨true, false, 1⟩, counter := none }
  | _ => none

/-- The fences of a word that has taken effect; seam: the declared scope of a point that this word completes. -/
def fencesOf (seam : Option Nat) : Instr → List Fence
  | .fence r st sc k => [⟨.ofCode k, sc.toNat, st.toNat, r⟩]
  | .push _ _ | .pusht _ _ _ => [Implied.push.fence]
  | .pop _ _ | .popt _ _ => [Implied.pop.fence]
  | .launch _ _ => [Implied.launch.fence]
  | .lwait _ _ => [Implied.lwait.fence]
  | .exit => Implied.exit.fence :: seam.toList.map (fun s => (Implied.seamDone s).fence)
  | .seamDone => seam.toList.map (fun s => (Implied.seamDone s).fence)
  | _ => []

/-- The counters a word waits for, with its threshold (R54). -/
def waitsOf : Instr → List (Nat × Nat)
  | .waitc c n => [(c.toNat, n.toNat)]
  | .drain => [(0, 0), (1, 0), (2, 0), (3, 0)]
  | _ => []

/-! ### Executions -/

/-- A thread, a unit of the module that is no thread, or an agent of the host or of a peer (R84, R106). -/
inductive Kind where
  | thread | agent | outside
  deriving DecidableEq, Repr

/-- A party: of a thread, its logical index in the team, its group and its team, whose launch and index the machine gives. -/
structure Party where
  kind : Kind := .thread
  lane : Nat := 0
  group : Nat := 0
  team : Nat := 0
  deriving DecidableEq, Repr

/-- One access: by whom, to what, and the values read or written, one per location. cluster: where the party stands at that event (R84, R107). -/
structure Touch where
  party : Nat
  write : Bool
  place : Place
  vals : List Nat
  cluster : Nat
  deriving DecidableEq, Repr

/-- What was executed. -/
inductive What where
  | word (i : Instr)
  /-- The wait slots of a clause header: counter and threshold (R54). -/
  | header (slots : List (Nat × Nat))
  /-- The start of a thread, the completion of the launch that link names, and the Lacing engine's write-back of bodies (R92). -/
  | start | completion | writeBack (bodies : List Nat)
  /-- An access of a unit of the module or of an outside agent. -/
  | other
  /-- The host's write of a queue's tail register, and the launches taken from the queue through it. -/
  | tail (launches : List Nat)
  deriving DecidableEq, Repr

/-- One execution of an instruction by a bundle, or one of the other events. -/
structure Inst where
  /-- The executing threads, in increasing logical index. -/
  parties : List Nat
  what : What
  /-- Accesses of the threads, and those of the engine. -/
  own : List Touch := []
  engine : List Touch := []
  /-- Where the executing threads stand. -/
  cluster : Nat := 0
  /-- Of PUSHT, POPT, LAUNCH and LWAIT: it succeeded, was accepted, or returned completion. -/
  took : Bool := true
  /-- Of PUSH and POP: the number of the handle that passes. Of LAUNCH, LWAIT and a completion: the launch. -/
  link : Nat := 0
  /-- Of PUSH and PUSHT: the rein is another gang member's, so it counts on c.col (R52). -/
  member : Bool := false
  /-- Earlier instructions whose destination register, or tile, this one reads or waits for. -/
  uses : List Nat := []
  /-- Reads that this one depends on: the instruction, the party that read, and the party whose access depends on it (R89). -/
  deps : List (Nat × Nat × Nat) := []
  deriving DecidableEq, Repr

/-- An execution: the machine whose launches, teams and partitions the parties belong to, the instructions in an order that keeps each thread's
and each group's, the source of each read's locations (an event, or none for the initial value), the writes of each location in their
total order, the initial values that are not 0, and the SC fences in their order. -/
structure Execution where
  machine : State := {}
  parties : List Party
  insts : List Inst
  sources : List (List (Option Nat))
  co : List ((Nat × Nat) × List Nat) := []
  init : List ((Nat × Nat) × Nat) := []
  sc : List Nat := []
  deriving DecidableEq, Repr

def Execution.inst (x : Execution) (n : Nat) : Inst := x.insts.getD n ⟨[], .other, [], [], 0, true, 0, false, [], []⟩
def Execution.partyOf (x : Execution) (p : Nat) : Party := x.parties.getD p {}

/-! ### Events -/

inductive Body where
  | fence (f : Fence)
  | access (write : Bool) (place : Place) (vals : List Nat) (scope : Nat)
  | tail
  deriving DecidableEq, Repr

/-- An event: its instruction, its party and where that stands, what it is, and whether it is an engine event. -/
structure Event where
  inst : Nat
  party : Nat
  cluster : Nat
  body : Body
  engine : Bool := false
  deriving DecidableEq, Repr

/-- The launch of a party. -/
def Execution.launchOf (x : Execution) (p : Nat) : Nat := (x.machine.team (x.partyOf p).team).launch

/-- The party belongs to a DET launch. -/
def Execution.det (x : Execution) (p : Nat) : Bool := (x.partyOf p).kind == .thread && x.machine.isDet (x.partyOf p).team

/-- R87: in a DET launch .clus and .part act as .dev. -/
def Execution.scopeAt (x : Execution) (p scope : Nat) : Nat := if x.det p && (scope == 2 || scope == 3) then 4 else scope

/-- A fence as it acts: R87, and REMOTE without further effect in a DET launch. -/
def Execution.fenceAt (x : Execution) (p : Nat) (f : Fence) : Fence :=
  { f with scope := x.scopeAt p f.scope, remote := f.remote && !x.det p }

/-- The declared scope of the seam point that instruction n completes for the group of a party: SEAM.DONE, or EXIT, where no SEAM.DONE of the
group came before (R211). -/
def Execution.seamScope (x : Execution) (n party : Nat) : Option Nat :=
  let p := x.partyOf party
  let l := x.machine.launchOf p.team
  if l.lpb.seam && !(x.insts.take n).any (fun i => i.what == .word .seamDone &&
      i.parties.any (fun q => (x.partyOf q).team == p.team && (x.partyOf q).group == p.group)) then some l.seamUnit.scope
  else none

/-- The fences of a party at an instruction. A PUSHT, POPT, LAUNCH or LWAIT without its effect has none (R92). -/
def Execution.instFences (x : Execution) (n party : Nat) : List Fence :=
  let i := x.inst n
  match i.what with
  | .word w => if i.took then fencesOf (x.seamScope n party) w else []
  | .start => [Implied.start.fence]
  | .completion => [Implied.completion.fence]
  | _ => []

/-- The scope of an access: an outside agent's and a unit's are .sys (R106, log 67). -/
def Execution.touchScope (x : Execution) (w : What) (engine : Bool) (t : Touch) : Nat :=
  match w with
  | .word i => x.scopeAt t.party (match engine, t.place with
    | true, _ => (engineOf i).elim 0 (·.touches.scope)
    | false, .entry _ _ => 1
    | false, _ => (ownAccess i).elim 0 (·.scope))
  | _ => 5

/-- LAUNCH reads its block after its fence (R374); the fence of another word comes after its accesses. -/
def What.fenceFirst : What → Bool
  | .word (.launch _ _) => true
  | _ => false

/-- The events of an instruction: its accesses and those of its engine, and its fences, one for each executing thread. The fence of a PUSH comes
before what it makes visible, and the word has no other access after it. -/
def Execution.instEvents (x : Execution) (n : Nat) : List Event :=
  let i := x.inst n
  let access (engine : Bool) (t : Touch) : Event :=
    ⟨n, t.party, t.cluster, .access t.write t.place t.vals (x.touchScope i.what engine t), engine⟩
  let accesses := i.own.map (access false) ++ i.engine.map (access true)
  let fences := (i.parties.map (fun p => (x.instFences n p).map (fun f => ⟨n, p, i.cluster, .fence (x.fenceAt p f), false⟩))).flatten
  (if i.what.fenceFirst then fences ++ accesses else accesses ++ fences) ++
    (match i.what with
      | .tail _ => i.parties.map (fun p => ⟨n, p, i.cluster, .tail, false⟩)
      | _ => [])

def Execution.events (x : Execution) : List Event := ((List.range x.insts.length).map x.instEvents).flatten

def Event.fence? (e : Event) : Option Fence := match e.body with
  | .fence f => some f
  | _ => none

def Event.isFence (e : Event) : Bool := e.fence?.isSome

def Event.place? (e : Event) : Option Place := match e.body with
  | .access _ p _ _ => some p
  | _ => none

def Event.vals (e : Event) : List Nat := match e.body with
  | .access _ _ v _ => v
  | _ => []

def Event.reads (e : Event) : Bool := match e.body with
  | .access w _ _ _ => !w
  | _ => false

def Event.writes (e : Event) : Bool := match e.body with
  | .access w _ _ _ => w
  | _ => false

/-- The agent scope of an event. -/
def Event.scope (e : Event) : Nat := match e.body with
  | .access _ _ _ s => s
  | .fence f => f.scope
  | .tail => 5

/-- The locations an event touches. -/
def Event.keys (e : Event) : List (Nat × Nat) := match e.body with
  | .access _ p v _ => (List.range v.length).map p.key
  | _ => []

def Event.touches (e : Event) (k : Nat × Nat) : Bool := e.keys.contains k

/-- A common location. -/
def Event.meets (a b : Event) : Bool := a.keys.any b.touches

def Event.begins (e : Event) : Bool := e.fence?.any (·.kind.begins)
def Event.ends (e : Event) : Bool := e.fence?.any (·.kind.ends)

/-- A fence that acts on a place. -/
def Event.coversPlace (e : Event) (p : Place) : Bool := e.fence?.any (fun f => covers f.cover p)

/-! ### Scopes (R84, R85) -/

/-- The scope s of event a includes b: b's party lies in the instance of a's. -/
def Execution.includes (x : Execution) (s : Nat) (a b : Event) : Bool :=
  let p := x.partyOf a.party
  let q := x.partyOf b.party
  let threads := p.kind == .thread && q.kind == .thread
  match s with
  | 0 => threads && p.team == q.team && p.group == q.group
  | 1 => threads && p.team == q.team
  | 2 => threads && a.cluster == b.cluster
  | 3 => threads && partOf a.cluster == partOf b.cluster
  | 4 => p.kind != .outside && q.kind != .outside
  | _ => true

/-- incl of R84. -/
def Execution.incl (x : Execution) (a b : Event) : Bool := x.includes a.scope a b && x.includes b.scope b a

/-- incl of two fences as they act on a place: on the Saddlebag no wider than .team (R85). -/
def Execution.inclAt (x : Execution) (p : Place) (a b : Event) : Bool :=
  let s (e : Event) : Nat := if p.bag then min e.scope 1 else e.scope
  x.includes (s a) a b && x.includes (s b) b a

/-- A party resident on the owner cluster of the n-th location of a place. -/
def Execution.onOwner (x : Execution) (e : Event) (p : Place) (n : Nat) : Bool :=
  let q := x.partyOf e.party
  q.kind == .thread && p.owner x.machine (x.machine.team q.team).tenant n == some e.cluster

/-- Owner inclusion at a location of a (R84). -/
def Execution.ownerIncl (x : Execution) (a b : Event) (p : Place) (n : Nat) : Bool :=
  (decide (4 ≤ a.scope) && x.onOwner b p n) || (decide (4 ≤ b.scope) && x.onOwner a p n)

/-! ### The base relations (R89) -/

/-- An execution with its events written out. -/
structure View where
  x : Execution
  evs : List Event
  deriving DecidableEq, Repr

def Execution.view (x : Execution) : View := ⟨x, x.events⟩

def View.n (v : View) : Nat := v.evs.length
def View.ev (v : View) (a : Nat) : Event := v.evs.getD a ⟨0, 0, 0, .tail, false⟩
def View.ids (v : View) : List Nat := List.range v.n
def View.rel (v : View) (p : Event → Event → Bool) : Rel := Rel.of v.n (fun a b => p (v.ev a) (v.ev b))

/-- Events of one thread whose instructions follow one another. Engine events are not in program order (R82). -/
def View.po (v : View) (a b : Nat) : Bool :=
  !(v.ev a).engine && !(v.ev b).engine && (v.ev a).party == (v.ev b).party && decide (a < b)

def View.poLoc (v : View) (a b : Nat) : Bool := v.po a b && (v.ev a).meets (v.ev b)

/-- Pairs of po with a fence, the other a fence too or in its storage scope. -/
def View.fo (v : View) (a b : Nat) : Bool :=
  let ok (f e : Event) : Bool := f.isFence && (e.isFence || e.place?.any f.coversPlace)
  v.po a b && (ok (v.ev a) (v.ev b) || ok (v.ev b) (v.ev a))

/-- The source of a read at a location. -/
def View.source (v : View) (r : Nat) (k : Nat × Nat) : Option Nat :=
  ((v.x.sources.getD r []).getD ((v.ev r).keys.idxOf k) none)

/-- rf at a location, from an event. -/
def View.rf (v : View) (k : Nat × Nat) (w r : Nat) : Bool := (v.ev r).reads && (v.ev r).touches k && v.source r k == some w

/-- The writes of a location, in order. -/
def View.order (v : View) (k : Nat × Nat) : List Nat := ((v.x.co.find? (fun e => e.1 == k)).map (·.2)).getD []

/-- co at a location. -/
def View.co (v : View) (k : Nat × Nat) (a b : Nat) : Bool :=
  let o := v.order k
  o.contains a && o.contains b && decide (o.idxOf a < o.idxOf b)

/-- fr at a location: b is co-after what read a observes; the initial value is first. -/
def View.fr (v : View) (k : Nat × Nat) (a b : Nat) : Bool :=
  (v.ev a).reads && (v.ev a).touches k && (match v.source a k with
    | some w => v.co k w b
    | none => (v.order k).contains b)

/-- The read and the write of one atomic or reduction: neighbours among the engine events of its instruction. -/
def View.rmw (v : View) (a b : Nat) : Bool :=
  let i := v.x.inst (v.ev a).inst
  b == a + 1 && (v.ev a).engine && (v.ev b).engine && (v.ev a).inst == (v.ev b).inst && (v.ev a).reads && (v.ev b).writes &&
    (v.ev a).party == (v.ev b).party && (v.ev a).keys == (v.ev b).keys && (match i.what with
      | .word w => (engineOf w).any (·.rmw)
      | _ => false)

/-- How many values of an engine operation stand before an event of it, among its reads of data or among its writes. -/
def View.streamAt (v : View) (a : Nat) : Nat :=
  let e := v.ev a
  ((v.ids.filter (fun b => decide (b < a) && (v.ev b).inst == e.inst && (v.ev b).engine && (v.ev b).writes == e.writes &&
    !v.rmw b (b + 1))).map (fun b => (v.ev b).vals.length)).sum

/-- The new value of an atomic depends on the old one: of every operation but an exchange (R129). -/
def usesOld : Instr → Bool
  | .atom _ _ _ _ e => e.aop != 6#4
  | _ => true

/-- A write of an engine operation depends on the read of the same operation that gives its data: the bytes of a copy or an XRED, in their
order, and the old value of an atomic. -/
def View.ownDep (v : View) (a b : Nat) : Bool :=
  let d := v.ev a
  let e := v.ev b
  d.engine && e.engine && d.inst == e.inst && d.reads && e.writes && (match (v.x.inst e.inst).what with
    | .word w =>
      if v.rmw a b then usesOld w
      else !v.rmw a (a + 1) && (engineOf w).any (fun g => !g.lanes) &&
        decide (v.streamAt a < v.streamAt b + e.vals.length ∧ v.streamAt b < v.streamAt a + d.vals.length)
    | _ => false)

/-- dep: an access depends on an earlier read, of its own thread or of another lane whose value has come to it; or a write of an operation on
the operation's own read. -/
def View.dep (v : View) (a b : Nat) : Bool :=
  ((v.ev a).reads && (v.ev b).place?.isSome && (v.x.inst (v.ev b).inst).deps.contains ((v.ev a).inst, (v.ev a).party, (v.ev b).party)) ||
    v.ownDep a b

/-! ### Engine order (R92) -/

/-- The groups whose counters count the operation of an engine event: all of its bundle's, for an event of one lane too (log 81). -/
def View.groupsOf (v : View) (a : Nat) : List (Nat × Nat) :=
  let g (p : Nat) : Nat × Nat := ((v.x.partyOf p).team, (v.x.partyOf p).group)
  (v.x.inst (v.ev a).inst).parties.map g

/-- The engine of an instruction. -/
def Execution.engine? (x : Execution) (n : Nat) : Option Engine := match (x.inst n).what with
  | .word w => engineOf w
  | _ => none

/-- The counter of the operation that instruction n issues. -/
def Execution.counter? (x : Execution) (n : Nat) : Option Nat := (x.engine? n).bind (·.counter)

/-- The counter that instruction n counts on: a PUSH or a granted PUSHT to another gang member's rein counts on c.col (R52). -/
def Execution.countsOn (x : Execution) (n : Nat) : Option Nat :=
  match (x.inst n).what with
  | .word (.push _ _) | .word (.pusht _ _ _) => if (x.inst n).member && (x.inst n).took then some cCol else none
  | _ => x.counter? n

/-- Instruction n counts an operation of a counter in a group. -/
def Execution.counts (x : Execution) (g : Nat × Nat) (c n : Nat) : Bool :=
  x.countsOn n == some c && (x.inst n).parties.any (fun p => (x.partyOf p).team == g.1 && (x.partyOf p).group == g.2)

/-- eo, issue: from accesses and fences of a thread to the engine events of what it issues afterwards. -/
def View.eoIssue (v : View) (a b : Nat) : Bool :=
  !(v.ev a).engine && (v.ev b).engine && decide ((v.ev a).inst < (v.ev b).inst) &&
    (v.x.inst (v.ev b).inst).parties.contains (v.ev a).party

/-- eo, same location: two operations of one group and counter. -/
def View.eoSame (v : View) (a b : Nat) : Bool :=
  (v.ev a).engine && (v.ev b).engine && decide ((v.ev a).inst < (v.ev b).inst) && (v.ev a).meets (v.ev b) &&
    (v.x.counter? (v.ev a).inst).isSome && v.x.counter? (v.ev a).inst == v.x.counter? (v.ev b).inst &&
    (v.groupsOf a).any (v.groupsOf b).contains

/-- The waits of an instruction. -/
def What.waits : What → List (Nat × Nat)
  | .word w => waitsOf w
  | .header slots => slots
  | _ => []

/-- The wait at instruction m covers the operation of instruction n: for a group of both, at least as many younger operations of its
counter as the threshold issued before the wait (R54). A threshold of 63 or more waits for nothing. -/
def Execution.covered (x : Execution) (n m : Nat) : Bool :=
  decide (n < m) && (x.inst m).what.waits.any (fun w => decide (w.2 < 63) && x.counter? n == some w.1 &&
    (x.inst m).parties.any (fun p =>
      let g := ((x.partyOf p).team, (x.partyOf p).group)
      x.counts g w.1 n && decide (w.2 ≤ ((List.range m).filter (fun k => decide (n < k) && x.counts g w.1 k)).length)))

/-- An event follows instruction m in a thread that executed it: an event of the thread, or an engine event of an instruction that the thread
issues afterwards (log 81). -/
def View.after (v : View) (m b : Nat) : Bool :=
  let i := (v.ev b).inst
  decide (m < i) && (if (v.ev b).engine && !(v.x.engine? i).any (·.lanes) then
      (v.x.inst i).parties.any (v.x.inst m).parties.contains
    else (v.x.inst m).parties.contains (v.ev b).party)

/-- eo, wait: to what a thread does after a wait that covers the operation. -/
def View.eoWait (v : View) (a b : Nat) : Bool :=
  (v.ev a).engine && (List.range (v.ev b).inst).any (fun m => v.x.covered (v.ev a).inst m && v.after m b)

/-- An event of a thread, or an engine event of an instruction that the thread issues. -/
def View.inThread (v : View) (p b : Nat) : Bool :=
  let i := (v.ev b).inst
  if (v.ev b).engine && !(v.x.engine? i).any (·.lanes) then (v.x.inst i).parties.contains p else (v.ev b).party == p

/-- eo, use: to what follows an instruction that reads the register, in the thread of the operation's lane; and to what follows a wait for the
tile of a matrix operation, in each issuing thread (R105). -/
def View.eoUse (v : View) (a b : Nat) : Bool :=
  (v.ev a).engine && (match v.x.engine? (v.ev a).inst with
    | some e => (List.range (v.ev b).inst).any (fun m =>
        (v.x.inst m).uses.contains (v.ev a).inst && v.after m b &&
          (if e.counter.isNone then v.after (v.ev a).inst b
            else e.returns && (v.x.inst m).parties.contains (v.ev a).party && v.inThread (v.ev a).party b))
    | none => false)

def View.eo (v : View) (a b : Nat) : Bool := v.eoIssue a b || v.eoSame a b || v.eoWait a b || v.eoUse a b

/-! ### sw, pro (R90, R91) -/

/-- fa stands before a write: in program order, or before the instruction that issues it. -/
def View.beforeWrite (v : View) (fa w : Nat) : Bool := v.po fa w || v.eoIssue fa w

/-- A read stands before fb. -/
def View.beforeFence (v : View) (r fb : Nat) : Bool := v.po r fb || v.eo r fb

/-- rf at a location, or a chain of atomics that begins with it: rf ; (rmw ; rf)*. -/
def View.chain (v : View) (k : Nat × Nat) : Rel :=
  let rf := Rel.of v.n (v.rf k)
  let step := Rel.comp v.n (Rel.of v.n v.rmw) rf
  rf.or (Rel.comp v.n rf (Rel.plus v.n step))

/-- The locations of an execution, each with a place and an offset from it. -/
def View.locs (v : View) : List ((Nat × Nat) × Place × Nat) :=
  ((v.evs.filterMap (fun e => e.place?.map (fun p => (List.range e.vals.length).map (fun i => (p.key i, p, i))))).flatten).foldl
    (fun l e => if l.any (fun q => q.1 == e.1) then l else l ++ [e]) []

/-- A release that a read before an acquire observes, at one location: fa begins, wa comes after it, rb ends a chain from wa and comes before fb,
and the place lies in both storage scopes. ok: what the relation asks of wa and rb. -/
def View.linked (v : View) (fa fb : Nat) (ok : (Nat × Nat) × Place × Nat → Event → Event → Bool) : Bool :=
  (v.ev fa).begins && (v.ev fb).ends && v.locs.any (fun l =>
    (v.ev fa).coversPlace l.2.1 && (v.ev fb).coversPlace l.2.1 && (
      let c := v.chain l.1
      v.ids.any (fun w => v.beforeWrite fa w && v.ids.any (fun r =>
        c.holds w r && v.beforeFence r fb && ok l (v.ev w) (v.ev r)))))

/-- sw. -/
def View.sw (v : View) (fa fb : Nat) : Bool :=
  v.linked fa fb (fun l w r => v.x.inclAt l.2.1 (v.ev fa) (v.ev fb) && v.x.incl w r)

/-- pro. Places without an owner have no party resident on it. -/
def View.pro (v : View) (fa fb : Nat) : Bool :=
  (v.ev fb).fence?.any (·.remote) && decide (4 ≤ (v.ev fb).scope) &&
    v.linked fa fb (fun l w r => decide (4 ≤ r.scope) && v.x.onOwner w l.2.1 l.2.2)

/-! ### Rein, seam, launch and Cinch order (R92) -/

/-- The word of an instruction. -/
def Execution.word? (x : Execution) (n : Nat) : Option Instr := match (x.inst n).what with
  | .word w => some w
  | _ => none

def isPush : Instr → Bool
  | .push _ _ | .pusht _ _ _ => true
  | _ => false

def isPop : Instr → Bool
  | .pop _ _ | .popt _ _ => true
  | _ => false

def isLaunch : Instr → Bool
  | .launch _ _ => true
  | _ => false

def isLwait : Instr → Bool
  | .lwait _ _ => true
  | _ => false

/-- rein-order: from the fence of a PUSH to that of the POP that takes its handle. -/
def View.rein (v : View) (a b : Nat) : Bool :=
  let i := v.x.inst (v.ev a).inst
  let j := v.x.inst (v.ev b).inst
  (v.ev a).isFence && (v.ev b).isFence && (v.x.word? (v.ev a).inst).any isPush && (v.x.word? (v.ev b).inst).any isPop && i.link == j.link

/-- An event is the start fence of a thread. -/
def View.isStart (v : View) (b : Nat) : Bool := (v.x.inst (v.ev b).inst).what == .start && (v.ev b).isFence

/-- The launch and the linear index of the team of an event. -/
def View.point (v : View) (a : Nat) : Nat × Nat :=
  let t := (v.x.partyOf (v.ev a).party).team
  ((v.x.machine.team t).launch, (v.x.machine.team t).index)

/-- The completion fence of a seam point. -/
def View.isSeamDone (v : View) (a : Nat) : Bool :=
  match v.x.seamScope (v.ev a).inst (v.ev a).party, v.x.word? (v.ev a).inst with
  | some s, some .seamDone => (v.ev a).fence? == some (v.x.fenceAt (v.ev a).party (Implied.seamDone s).fence)
  | some s, some .exit => (v.ev a).fence? == some (v.x.fenceAt (v.ev a).party (Implied.seamDone s).fence)
  | _, _ => false

/-- seam-order: from the completion fence of a point to the start fences of those that depend on it, in its launch or through a linked record,
where the declared scope includes them. -/
def View.seam (v : View) (a b : Nat) : Bool :=
  v.isSeamDone a && v.isStart b && (v.x.machine.space (v.point b).1).lpb.seam &&
    (v.x.machine.seamPreds (v.point b)).contains (v.point a) && v.x.includes (v.ev a).scope (v.ev a) (v.ev b)

/-- The exit fence of a thread. -/
def View.isExit (v : View) (a : Nat) : Bool := v.x.word? (v.ev a).inst == some .exit && (v.ev a).isFence

/-- launch-order: LAUNCH to the child's starts; exits and engine events of a launch to an LWAIT that returns its completion and to its
completion fence; a tail write to the starts of the launches taken, and the host's earlier writes to it (R106); a write-back to the starts of
the gangs launched afterwards for its bodies. -/
def View.launch (v : View) (a b : Nat) : Bool :=
  let i := v.x.inst (v.ev a).inst
  let j := v.x.inst (v.ev b).inst
  ((v.ev a).isFence && (v.x.word? (v.ev a).inst).any isLaunch && v.isStart b && i.link == v.x.launchOf (v.ev b).party) ||
  ((v.isExit a || ((v.ev a).engine && (v.x.partyOf (v.ev a).party).kind == .thread)) && (v.ev b).isFence &&
    ((v.x.word? (v.ev b).inst).any isLwait || j.what == .completion) && j.link == v.x.launchOf (v.ev a).party) ||
  (match i.what with
    | .tail ls => (v.ev a).body == .tail && v.isStart b && ls.contains (v.x.launchOf (v.ev b).party)
    | .writeBack bs => (v.ev a).writes && v.isStart b && decide ((v.ev a).inst < (v.ev b).inst) &&
        (v.x.machine.launch (v.x.launchOf (v.ev b).party)).parts.flatten.any bs.contains
    | _ => false) ||
  ((v.ev b).body == .tail && (v.ev a).writes && (v.x.partyOf (v.ev a).party).kind == .outside && (v.ev a).party == (v.ev b).party &&
    decide (a < b))

/-- cinch-order: writes to global memory by teams i < j of one DET launch. -/
def View.cinch (v : View) (a b : Nat) : Bool :=
  let glob (e : Event) : Bool := e.writes && (match e.place? with
    | some (.mem l) => !l.isFabric
    | _ => false)
  v.x.det (v.ev a).party && v.x.det (v.ev b).party && (v.point a).1 == (v.point b).1 && decide ((v.point a).2 < (v.point b).2) &&
    glob (v.ev a) && glob (v.ev b)

/-! ### hb (R94, R95) -/

/-- sc. -/
def View.sc (v : View) (a b : Nat) : Bool :=
  v.x.sc.contains a && v.x.sc.contains b && decide (v.x.sc.idxOf a < v.x.sc.idxOf b)

def View.hb (v : View) : Rel :=
  Rel.plus v.n (Rel.of v.n (fun a b => v.poLoc a b || v.fo a b || v.eo a b || v.rein a b || v.seam a b || v.launch a b ||
    (v.sc a b && v.x.incl (v.ev a) (v.ev b)) || ((v.ev a).isFence && (v.ev b).isFence && (v.sw a b || v.pro a b))))

/-! ### Races (R83, R102) -/

def View.conflict (v : View) (a b : Nat) : Bool :=
  (v.ev a).meets (v.ev b) && ((v.ev a).writes || (v.ev b).writes) &&
    ((v.ev a).party != (v.ev b).party || (v.ev a).engine || (v.ev b).engine)

/-- A race, at a common location where owner inclusion does not apply. -/
def View.race (v : View) (hb : Rel) (a b : Nat) : Bool :=
  a != b && v.conflict a b && !hb.holds a b && !hb.holds b a && !v.x.incl (v.ev a) (v.ev b) &&
    (match (v.ev a).place? with
      | some p => (List.range (v.ev a).vals.length).any (fun i =>
          (v.ev b).touches (p.key i) && !v.x.ownerIncl (v.ev a) (v.ev b) p i)
      | none => false)

def View.raceFree (v : View) (hb : Rel) : Bool := v.ids.all (fun a => v.ids.all (fun b => !v.race hb a b))

/-- A racy read (R103). -/
def View.racy (v : View) (hb : Rel) (r : Nat) : Bool := (v.ev r).reads && v.ids.any (fun b => v.race hb r b)

/-! ### Well-formed executions (R82, R89) -/

/-- Reads and writes of one place in turn, by one party, but for reads of a source. -/
def pairUp (src : Touch → Bool) : List Touch → Bool
  | [] => true
  | [r] => src r
  | r :: w :: rest =>
    if src r then pairUp src (w :: rest)
    else !r.write && w.write && r.party == w.party && r.place == w.place && r.vals.length == w.vals.length && pairUp src rest

/-- Threads of which each makes an access of its own: loads and stores. -/
def eachThread : Instr → Bool
  | .ld32 _ _ _ _ | .ld64 _ _ _ _ | .ldf32 _ _ _ _ | .ldf64 _ _ _ _ | .st32 _ _ _ _ | .st64 _ _ _ _ | .stf32 _ _ _ _ | .stf64 _ _ _ _ => true
  | _ => false

/-- Words that make an access as one. -/
def oneAccess : Instr → Bool
  | .ldu _ _ _ | .tld _ _ _ _ | .tst _ _ _ _ | .launch _ _ => true
  | _ => false

def Touch.onPeer (t : Touch) : Bool := match t.place with
  | .mem (.peer _ _) => true
  | _ => false

def Touch.onEntry (t : Touch) : Bool := match t.place with
  | .entry _ _ => true
  | _ => false

/-- The accesses that a word makes wherever it takes effect (R82): one of each thread, or of the word; one of the engine for each lane, which
for an atomic or a reduction is a read and a write joined; the read of a reservation's entry. -/
def Inst.made (i : Inst) (w : Instr) : Bool :=
  let each (ts : List Touch) : Bool := i.parties.all (fun p => ts.any (fun t => t.party == p))
  (!eachThread w || each (i.own.filter (fun t => !t.onEntry))) &&
  (!(oneAccess w && i.took) || i.own.any (fun t => !t.onEntry)) &&
  (!(entryAccess w).any (fun u => !u.writes) || i.own.any (·.onEntry)) &&
  (match engineOf w with
    | none => true
    | some e =>
      if e.rmw then
        pairUp (fun t => !e.lanes && !t.write && !t.onPeer) i.engine &&
          (!e.lanes || (i.engine.filter (fun t => !t.write)).map (·.party) == i.parties)
      else !e.lanes || each i.engine)

/-- An instruction and the accesses it is given: threads of one team in increasing index; each access is one of the word's, a thread's own by an
executing thread, the engine's by the lowest one unless each lane has its own (R82); what it uses and depends on comes earlier. -/
def Execution.instOk (x : Execution) (n : Nat) : Bool :=
  let i := x.inst n
  let may (m : Option Touches) (t : Touch) : Bool := m.any (fun u => if t.write then u.writes else u.reads)
  (i.uses ++ i.deps.map (·.1)).all (· < n) && !i.parties.isEmpty &&
    (i.parties.zip (i.parties.drop 1)).all (fun p => decide ((x.partyOf p.1).lane < (x.partyOf p.2).lane)) &&
    i.parties.all (fun p => (x.partyOf p).team == (x.partyOf (i.parties.headD 0)).team) &&
    (i.own ++ i.engine).all (fun t => i.parties.contains t.party && !t.vals.isEmpty) &&
    match i.what with
    | .word w =>
      i.parties.all (fun p => (x.partyOf p).kind == .thread) && i.made w &&
      i.own.all (fun t => match t.place with
        | .entry tm _ => may (entryAccess w) t && tm == (x.partyOf t.party).team && t.vals.length == 1
        | .saddlebag _ _ => false
        | .mem _ => may (ownAccess w) t) &&
      (match engineOf w with
        | none => i.engine.isEmpty
        | some e => i.engine.all (fun t => may (some e.touches) t && (e.lanes || t.party == i.parties.headD 0) && (match t.place with
            | .entry _ _ => false
            | .saddlebag tm _ => tm == (x.partyOf t.party).team
            | .mem _ => e.counter.isSome)))
    | .other | .writeBack _ => i.engine.isEmpty && i.parties.all (fun p => (x.partyOf p).kind != .thread)
    | .completion => (i.own ++ i.engine).isEmpty && i.parties.all (fun p => (x.partyOf p).kind == .agent)
    | .tail _ => (i.own ++ i.engine).isEmpty && i.parties.all (fun p => (x.partyOf p).kind == .outside)
    | .header _ | .start => (i.own ++ i.engine).isEmpty

/-- The initial value of a location. -/
def Execution.initial (x : Execution) (k : Nat × Nat) : Nat := ((x.init.find? (fun e => e.1 == k)).map (·.2)).getD 0

/-- The value an event has at a location. -/
def Event.valAt (e : Event) (k : Nat × Nat) : Nat := e.vals.getD (e.keys.idxOf k) 0

/-- Every read has the value of its source at each of its locations (R89, R103). -/
def View.readsOk (v : View) : Bool :=
  v.ids.all (fun r => !(v.ev r).reads || (v.ev r).keys.all (fun k => match v.source r k with
    | some w => (v.ev w).writes && (v.ev w).touches k && (v.ev w).valAt k == (v.ev r).valAt k
    | none => v.x.initial k == (v.ev r).valAt k))

/-- The order of each location lists each of its writes once. -/
def View.coOk (v : View) : Bool :=
  v.locs.all (fun l =>
    let ws := v.ids.filter (fun a => (v.ev a).writes && (v.ev a).touches l.1)
    (v.order l.1).length == ws.length && ws.all (v.order l.1).contains)

def View.wellFormed (v : View) : Bool :=
  (List.range v.x.insts.length).all v.x.instOk && v.readsOk && v.coOk

/-! ### Axioms -/

/-- R96, at every location: no cycle of hb and eco. R96 says nothing of the sources of racy reads (R103). -/
def View.coherent (v : View) (hb : Rel) : Bool :=
  v.locs.all (fun l =>
    let eco := Rel.plus v.n (Rel.of v.n (fun a b =>
      v.co l.1 a b || (v.rf l.1 a b && !v.racy hb b) || (v.fr l.1 a b && !v.racy hb a)))
    Rel.irreflexive v.n (Rel.comp v.n hb eco))

/-- R97. -/
def View.atomic (v : View) (hb : Rel) : Bool :=
  v.locs.all (fun l => v.ids.all (fun a => v.ids.all (fun b =>
    !v.rmw a b || v.racy hb a || v.ids.all (fun c => !(v.fr l.1 a c && v.co l.1 c b)))))

/-- R98. -/
def View.noThinAir (v : View) : Bool :=
  Rel.irreflexive v.n (Rel.plus v.n (Rel.of v.n (fun a b => v.dep a b || v.locs.any (fun l => v.rf l.1 a b))))

/-- R99. -/
def View.hbAcyclic (v : View) (hb : Rel) : Bool := Rel.irreflexive v.n hb

/-- R94: sc lists each SC fence once, and agrees with hb. -/
def View.scOrder (v : View) (hb : Rel) : Bool :=
  let fs := v.ids.filter (fun a => (v.ev a).fence?.any (·.kind == .sc))
  v.x.sc.length == fs.length && fs.all v.x.sc.contains && v.x.sc.all (fun a => v.x.sc.all (fun b => !(v.sc a b && hb.holds b a)))

/-- R100: a write before fa, or one that a read before fa reads; then a read after fb reads it or a co-later one. Before and after are program
order, which holds no engine event (log 81). -/
def View.scFences (v : View) : Bool :=
  v.ids.all (fun fa => v.ids.all (fun fb => !v.sc fa fb || v.locs.all (fun l =>
    !((v.ev fa).coversPlace l.2.1 && (v.ev fb).coversPlace l.2.1 && v.x.inclAt l.2.1 (v.ev fa) (v.ev fb)) ||
      v.ids.all (fun w => !((v.ev w).writes && (v.ev w).touches l.1 &&
          (v.po w fa || v.ids.any (fun r => v.rf l.1 w r && v.po r fa))) ||
        v.ids.all (fun r => !((v.ev r).reads && (v.ev r).touches l.1 && v.po fb r) ||
          v.rf l.1 w r || (match v.source r l.1 with
            | some u => v.co l.1 w u
            | none => false))))))

/-- R101: co on every global location contains cinch-order. -/
def View.detOrder (v : View) : Bool :=
  v.locs.all (fun l => v.ids.all (fun a => v.ids.all (fun b =>
    !(v.cinch a b && (v.ev a).touches l.1 && (v.ev b).touches l.1) || v.co l.1 a b)))

/-- R103, R40: a naturally aligned racy read of 1, 2, 4 or 8 bytes that races only with writes of its size and address returns the whole value
of a write of its size and address, wherever it returns any byte of one. -/
def View.wholeReads (v : View) (hb : Rel) : Bool :=
  v.ids.all (fun r =>
    let bs := v.ids.filter (fun b => v.race hb r b)
    let ks := (v.ev r).keys
    !(v.racy hb r && [1, 2, 4, 8].contains ks.length && (ks.headD (0, 0)).2 % ks.length == 0 && bs.all (fun b => (v.ev b).keys == ks)) ||
      (v.ids.filter (fun b => (v.ev b).writes && (v.ev b).keys == ks)).all (fun b => !ks.any (fun k => v.source r k == some b) || ks.all (fun k => v.source r k == some b)))

/-- An execution that every axiom admits. -/
def View.allowedBy (v : View) (hb : Rel) : Bool :=
  v.wellFormed && v.noThinAir && v.hbAcyclic hb && v.scOrder hb && v.coherent hb && v.atomic hb && v.scFences && v.detOrder && v.wholeReads hb

def Execution.allowed (x : Execution) : Bool := x.view.allowedBy x.view.hb

end Sys2Proof.Machine.Ordering
end

