-- ==== Sys2Proof/Machine/Litmus.lean ====
section
/-! DEFINITION. The programs of spec 06 (R109 to R121) as executions, for each outcome that their tables ask about. -/

namespace Sys2Proof.Machine.Ordering

/-! ### The setting (R109) -/

/-- Partitions 0 and 8 of one tenant, so its clusters are 0 to 4 and 40 to 44; team p + 1 is the p-th of launch 1. -/
def setting (lpb : Lpb) (seam : Seam) : State :=
  { partitions := [(0, { valid := true }), (8, { valid := true })]
    teams := (List.range 4).map (fun p => (p + 1, { live := true, launch := 1, index := p }))
    launches := [(1, { live := true, lpb := lpb, seamUnit := seam })] }

/-- Parties that are each lane 0 of group 0 of a team of their own. -/
def apart (n : Nat) : List Party := (List.range n).map (fun p => { team := p + 1 })

/-- A word of HBM on a line of its own; the owner cluster of line n is the tenant's cluster n % 10. -/
def wordAt (line : Nat) : Place := .mem (.hbm (64 * line) false)

/-- The four bytes of a small value. -/
def word4 (v : Nat) : List Nat := [v, 0, 0, 0]

/-- All four bytes of a read from one source. -/
def from4 (w : Option Nat) : List (Option Nat) := [w, w, w, w]

/-- The writes of the four bytes of a word, in one order. -/
def co4 (p : Place) (ws : List Nat) : List ((Nat × Nat) × List Nat) := (List.range 4).map (fun i => (p.key i, ws))

def mext (scope : Nat) : Option MExt := some ⟨false, 0, 0, BitVec.ofNat 3 scope, 0⟩

/-- LD.z32 and ST.z32 of a party on a cluster; LDF and STF for a fabric word. -/
def ld (p c : Nat) (l : Place) (scope v : Nat) : Inst :=
  { parties := [p], what := .word (.ld32 3 6 0x80 (mext scope)), own := [⟨p, false, l, word4 v, c⟩], cluster := c }

def st (p c : Nat) (l : Place) (scope v : Nat) : Inst :=
  { parties := [p], what := .word (.st32 2 6 0x80 (mext scope)), own := [⟨p, true, l, word4 v, c⟩], cluster := c }

/-- FENCE: kind, agent scope and storage scope codes, REMOTE. -/
def fence (p c kind scope cover : Nat) (remote : Bool) : Inst :=
  { parties := [p], what := .word (.fence remote (BitVec.ofNat 2 cover) (BitVec.ofNat 3 scope) (BitVec.ofNat 2 kind)), cluster := c }

/-- CPY of four bytes that hold v. -/
def cpy (p c : Nat) (src dst : Place) (v : Nat) : Inst :=
  { parties := [p], what := .word (.cpy 10 2 (.short 6)), cluster := c
    engine := [⟨p, false, src, word4 v, c⟩, ⟨p, true, dst, word4 v, c⟩] }

/-- WAITC c.cpy, n. -/
def waitCopies (p c n : Nat) : Inst := { parties := [p], what := .word (.waitc 0 (BitVec.ofNat 8 n)), cluster := c }

/-- Whether some execution of a list is allowed. -/
def some1 (xs : List Execution) : Bool := xs.any (·.allowed)

/-! ### Message passing (R110, R115, R116) -/

/-- What can vary among the tests: the release scope of P0 and the scope of its store of y, whether the fences stand, REMOTE, the clusters, the
line of y, and DET. -/
structure MpCase where
  relScope : Nat := 4
  yScope : Nat := 4
  fences : Bool := true
  remote : Bool := false
  c0 : Nat := 0
  c1 : Nat := 1
  yLine : Nat := 12
  det : Bool := false
  deriving DecidableEq, Repr

/-- x on line 2, owned by cluster 2. -/
def messagePassing (m : MpCase) (v3 v4 : Nat) : Execution :=
  let x := wordAt 2
  let y := wordAt m.yLine
  let f (i : Inst) : List Inst := if m.fences then [i] else []
  let insts := [st 0 m.c0 x 0 1] ++ f (fence 0 m.c0 1 m.relScope 1 false) ++ [st 0 m.c0 y m.yScope 1, ld 1 m.c1 y 4 v3] ++
    f (fence 1 m.c1 0 4 1 m.remote) ++ [ld 1 m.c1 x 0 v4]
  let wy := if m.fences then 2 else 1
  let ry := from4 (if v3 = 1 then some wy else none)
  let rx := from4 (if v4 = 1 then some 0 else none)
  { machine := setting { det := m.det } {}, parties := apart 2, insts := insts
    sources := if m.fences then [[], [], [], ry, [], rx] else [[], [], ry, rx]
    co := co4 x [0] ++ co4 y [wy] }

/-! ### Store buffering, load buffering, independent reads, coherence (R111 to R114) -/

/-- kind: of both fences; first: sc has P0's first. -/
def storeBuffering (kind : Nat) (first : Bool) (v3 v4 : Nat) : Execution :=
  let x := wordAt 2
  let y := wordAt 12
  { machine := setting {} {}, parties := apart 2
    insts := [st 0 0 x 0 1, fence 0 0 kind 4 1 false, ld 0 0 y 4 v3, st 1 1 y 0 1, fence 1 1 kind 4 1 false, ld 1 1 x 4 v4]
    sources := [[], [], from4 (if v3 = 1 then some 3 else none), [], [], from4 (if v4 = 1 then some 0 else none)]
    co := co4 x [0] ++ co4 y [3], sc := if kind = 3 then (if first then [1, 4] else [4, 1]) else [] }

/-- deps: each party stores what it loaded, else 1; fx, fy: the loads of x and of y observe the stores. -/
def loadBuffering (deps : Bool) (v3 v4 : Nat) (fx fy : Bool) : Execution :=
  let x := wordAt 2
  let y := wordAt 12
  let store (p : Nat) (l : Place) (v load : Nat) : Inst :=
    { st p p l 4 (if deps then v else 1) with deps := if deps then [(load, p, p)] else [] }
  { machine := setting {} {}, parties := apart 2
    insts := [ld 0 0 x 4 v3, store 0 y v3 0, ld 1 1 y 4 v4, store 1 x v4 2]
    sources := [from4 (if fx then some 3 else none), [], from4 (if fy then some 1 else none), []]
    co := co4 x [3] ++ co4 y [1] }

/-- An outcome of load buffering, by any sources. -/
def loadBufferingAllowed (deps : Bool) (v3 v4 : Nat) : Bool :=
  some1 (([false, true].map (fun fx => [false, true].map (fun fy => loadBuffering deps v3 v4 fx fy))).flatten)

/-- kind: of the readers' fences; first: sc has P2's first. -/
def independentReads (kind : Nat) (first : Bool) (v3 v4 v5 v6 : Nat) : Execution :=
  let x := wordAt 2
  let y := wordAt 12
  let sx (v : Nat) := from4 (if v = 1 then some 0 else none)
  let sy (v : Nat) := from4 (if v = 1 then some 1 else none)
  { machine := setting {} {}, parties := apart 4
    insts := [st 0 0 x 4 1, st 1 1 y 4 1, ld 2 3 x 4 v3, fence 2 3 kind 4 1 false, ld 2 3 y 4 v4,
      ld 3 4 y 4 v5, fence 3 4 kind 4 1 false, ld 3 4 x 4 v6]
    sources := [[], [], sx v3, [], sy v4, sy v5, [], sx v6]
    co := co4 x [0] ++ co4 y [1], sc := if kind = 3 then (if first then [3, 6] else [6, 3]) else [] }

def coherenceRR (v3 v4 : Nat) : Execution :=
  let x := wordAt 2
  let src (v : Nat) := from4 (if v = 0 then none else some (v - 1))
  { machine := setting {} {}, parties := apart 2
    insts := [st 0 0 x 4 1, st 0 0 x 4 2, ld 1 1 x 4 v3, ld 1 1 x 4 v4]
    sources := [[], [], src v3, src v4], co := co4 x [0, 1] }

/-! ### Copies and reins (R117, R118) -/

/-- wait: the threshold of WAITC c.cpy, if it stands. -/
def copyMessage (wait : Option Nat) (v3 v4 : Nat) : Execution :=
  let x := wordAt 2
  let y := wordAt 12
  let g := wordAt 22
  { machine := setting {} {}, parties := apart 2
    insts := [cpy 0 0 g x 1] ++ wait.toList.map (waitCopies 0 0) ++
      [fence 0 0 1 4 1 false, st 0 0 y 4 1, ld 1 1 y 4 v3, fence 1 1 0 4 1 false, ld 1 1 x 0 v4]
    sources := [from4 none, [], [], [], from4 (if v3 = 1 then some 3 else none), [], from4 (if v4 = 1 then some 1 else none)]
    co := co4 x [1] ++ co4 y [3], init := [(g.key 0, 1)] }

/-- Two groups of one team. copy: x is written by a copy, followed by WAITC c.cpy, 0 if waited. -/
def reinMessage (copy waited : Bool) (v4 : Nat) : Execution :=
  let x : Place := .mem (.fabric 0 64)
  let g := wordAt 22
  let write := if copy then cpy 0 0 g x 1 :: (if waited then [waitCopies 0 0 0] else []) else [st 0 0 x 0 1]
  let w := if copy then 1 else 0
  let push : Inst := { parties := [0], what := .word (.push 18 (.short 19)), link := 1 }
  let pop : Inst := { parties := [1], what := .word (.pop 20 18), link := 1 }
  { machine := setting {} {}, parties := [{ team := 1 }, { team := 1, group := 1, lane := 16 }]
    insts := write ++ [push, pop, ld 1 0 x 0 v4]
    sources := (if copy then [from4 none] else []) ++ [[], [], [], from4 (if v4 = 1 then some w else none)]
    co := co4 x [w], init := [(g.key 0, 1)] }

/-! ### Seam launches, DET launches (R119, R120) -/

def seamMessage (v3 v4 : Nat) : Execution :=
  let x := wordAt 2
  let y := wordAt 12
  let plain (p : Nat) (w : Instr) : Inst := { parties := [p], what := .word w, cluster := p }
  let start (p : Nat) : Inst := { parties := [p], what := .start, cluster := p }
  { machine := setting { seam := true, e0 := 2, e1 := 1, e2 := 1 } { ndim := 1, scope := 4, vecs := [(1, 0, 0)] }
    parties := apart 2
    insts := [start 0, st 0 0 x 0 1, plain 0 .seamDone, st 0 0 y 0 1, plain 0 .exit, start 1, ld 1 1 x 0 v3, ld 1 1 y 0 v4, plain 1 .exit]
    sources := [[], [], [], [], [], [], from4 (if v3 = 1 then some 1 else none), from4 (if v4 = 1 then some 3 else none)]
    co := co4 x [1] ++ co4 y [3] }

/-- The writes of z by the two teams: the last in co is team z's. -/
def detCounter (z : Nat) : Execution :=
  let l := wordAt 2
  { machine := setting { det := true } {}, parties := apart 2
    insts := [st 0 0 l 0 0, st 1 1 l 0 1], sources := [], co := co4 l (if z = 1 then [0, 1] else [1, 0]) }

/-! ### Saddlebag reservations (R121) -/

/-- One lane of P1, one byte of each operand: v3 as read; the entry reads and the operand reads see P0's writes or what stood before. -/
def reservation (v3 : Nat) (entries bytes : Bool) : Execution :=
  let x : Place := .mem (.fabric 0 64)
  let bit (b : Bool) : Nat := if b then 1 else 0
  let one (w : Nat) (b : Bool) : List (Option Nat) := [if b then some w else none]
  let e (id : Nat) : Place := .entry 1 id
  let sb (o : Nat) : Place := .saddlebag 1 o
  let touch (p : Nat) (w : Bool) (l : Place) (v : Nat) : Touch := ⟨p, w, l, [v], 0⟩
  let resv (id : Nat) : Inst := { parties := [0], what := .word (.resv 12 14), own := [touch 0 true (e id) 1] }
  let copy (id : Nat) : Inst :=
    { parties := [0], what := .word (.cpySb 24 2 (.short 36)), own := [touch 0 false (e id) 1]
      engine := [touch 0 false (wordAt (20 + id)) 1, touch 0 true (sb id) 1] }
  let ops : XExt := ⟨0, 0, true, true, false, 0⟩
  let mmab : Inst :=
    { parties := [1], what := .word (.mmab 0 0 12 13 ops), own := [touch 1 false (e 1) (bit entries), touch 1 false (e 2) (bit entries)]
      engine := if entries then [touch 1 false (sb 1) (bit bytes), touch 1 false (sb 2) (bit bytes)] else [] }
  { machine := setting {} {}, parties := [{ team := 1 }, { team := 1, group := 1, lane := 16 }]
    insts := [resv 1, resv 2, copy 1, copy 2, waitCopies 0 0 0, fence 0 0 1 1 3 false, st 0 0 x 1 1,
      ld 1 0 x 1 v3, fence 1 0 0 1 3 false, mmab]
    sources := [[], [], one 0 true, [none], [], one 1 true, [none], [], [], [], from4 (if v3 = 1 then some 9 else none), [],
      one 0 entries, one 1 entries, one 4 bytes, one 7 bytes]
    co := [((e 1).key 0, [0]), ((e 2).key 0, [1]), ((sb 1).key 0, [4]), ((sb 2).key 0, [7])] ++ co4 x [9]
    init := [((wordAt 21).key 0, 1), ((wordAt 22).key 0, 1)] }

end Sys2Proof.Machine.Ordering
end

