-- ==== Sys2Proof/Safety.lean ====
section
/-! DEFINITION. What a safe state and a safe run are, when an instruction word issues with its own effect, and what a word leaves
alone, in the terms the claims use. -/

namespace Sys2Proof.Machine

/-! ### Safe states and runs -/

/-- Every memory and every poison map is in its canonical form. -/
def State.memWf (s : State) : Bool :=
  Memory.wf s.hbm && Memory.wf s.fab && Memory.wf s.hostMem && Memory.wf s.peerMem &&
    Sparse.wf false s.hbmPoison && Sparse.wf false s.fabPoison

/-- k steps from a state, each answering a next state that satisfies P. -/
def SafeFor (P : State → Prop) : Nat → State → Prop
  | 0, s => P s
  | k + 1, s => P s ∧ ∃ s', step s = .next s' ∧ SafeFor P k s'

/-! ### Issue -/

/-- Whether a thread of the bundle is in trap state, where R401 forbids some words. -/
def State.anyTrapped (s : State) (b : Bundle) : Bool := b.members.any (fun m => (s.thread b.team m.1 m.2).inTrap)

/-- The word i of the bundle b issues now, with its own effect in every thread: b is on the current core; its threads are distinct,
at least one, and wait for no answer (R38, R160, R396); none of the checks of R284 fails; no register it names has a write pending
and no tile it names has F set (R169, R267, R354). -/
structure Issues (s : State) (b : Bundle) (i : Instr) : Prop where
  bundle : (s.core s.cur).bundle = some b
  some : b.members ≠ []
  distinct : b.members.Nodup
  answered : ∀ m ∈ b.members, s.remoteWait b.team m = false ∧ s.wordWait b.team m = false
  checks : (useOf (s.lpbOf b.team).w i).cause b i.len (s.lpbOf b.team) (s.core s.cur).feat (s.anyTrapped b) i.wf = none
  free : s.waits b (useOf (s.lpbOf b.team).w i) = false
  clean : ∀ m ∈ b.members, s.ownCause b.team (useOf (s.lpbOf b.team).w i) m = none

/-- What the meaning of a word of the bundle is told. -/
def State.ctx (s : State) (b : Bundle) (i : Instr) : Ctx := ⟨s.cur, b.team, b, s.lpbOf b.team, i.len⟩

/-- The state a meaning starts from: the bundle no longer waits. -/
def State.issued (s : State) (b : Bundle) : State := s.setBundle s.cur (some { b with stalled := false })

/-- A word of len words is the last of its clause (R260, R262). -/
def Bundle.ends (b : Bundle) (len : Nat) : Bool := decide (hdrCount b.header ≤ b.pos + len)

/-- The bundle past a word of len words. -/
def Bundle.past (b : Bundle) (len : Nat) : Bundle :=
  { b with pos := b.pos + len, ipos := b.ipos + 1, stalled := false, awl := [], peer := none, asked := false, peers := [], rein := none }

/-- A thread whose clause ends without a closing word: the fall-through address, no latch (R175, R265). -/
def Thread.fellThrough (x : Thread) (b : Bundle) (clk : Nat) : Thread :=
  { x with pc := b.fallThrough, pos := 0, y := {}, readyAt := clk }

/-- A thread of the bundle after a word that went on: itself, or at the fall-through address where the clause ends. -/
def Thread.afterWord (x : Thread) (b : Bundle) (len clk : Nat) : Thread := if b.ends len then x.fellThrough b clk else x

/-! ### What is left alone -/

/-- Every byte of memory and every mark of poison is as it was. -/
def SameMemory (s t : State) : Prop := ∀ l, t.memByte l = s.memByte l ∧ t.memPoison l = s.memPoison l

/-- A team but for its groups. -/
def Team.bare (t : Team) : Team := { t with groups := [] }

/-- A group but for its threads. -/
def Group.bare (g : Group) : Group := { g with threads := [] }

/-- A group but for its threads and uniform registers. -/
def Group.fixed (g : Group) : Group := { g with threads := [], s := [], sPoison := [] }

/-- All of a bundle waits for answers; held: the threads that do (R396). -/
def Bundle.allWait (b : Bundle) (held : List Member) : Bool := !held.isEmpty && b.members.all held.contains

/-- What a core holds of a bundle after a word of len words that went on: the bundle past it, or nothing where the clause has ended;
at the end of the clause the bundle waits where all its threads await an answer (R396). -/
def Bundle.atEnd (b : Bundle) (len : Nat) (held : List Member) : Option Bundle :=
  if b.ends len then (if b.allWait held then some { b.past len with stalled := true } else none) else some (b.past len)

/-- How a word of len words that goes on leaves cores, counters and teams: other teams, the team but for its groups, every other core,
the core but for its bundle and every counter but WORDS (R390) stand. -/
structure Advances (s t : State) (b : Bundle) (len : Nat) (held : List Member) : Prop where
  core : ∀ k, t.core k = if k = s.cur then { s.core k with bundle := b.atEnd len held } else s.core k
  counter : ∀ p, t.partition p = if p = partOf (clusterOf s.cur) then
    { s.partition p with counters := (s.partition p).counters.upd 0 2 (fun v => v + 1) } else s.partition p
  others : ∀ k, k ≠ b.team → t.team k = s.team k
  rest : (t.team b.team).bare = (s.team b.team).bare

/-- The same, and memory and every other part of the machine stand. -/
structure GoesOn (s t : State) (b : Bundle) (len : Nat) : Prop extends Advances s t b len [] where
  machine : t = { s with teams := t.teams, cores := t.cores, partitions := t.partitions }
  memory : SameMemory s t

/-- The same; the groups of the team keep all but their threads and uniform registers, and threads outside the bundle stand. -/
structure WordFrame (s t : State) (b : Bundle) (len : Nat) : Prop extends GoesOn s t b len where
  groups : ∀ g, (t.group b.team g).fixed = (s.group b.team g).fixed
  threads : ∀ g l, (g, l) ∉ b.members → t.thread b.team g l = s.thread b.team g l

/-- All that a closing word leaves alone (R265): as GoesOn, but the bundle has left the core, and the walks of its targets may have
filled cached translations and taken free choices. -/
structure Closes (s t : State) (b : Bundle) : Prop where
  machine : t = { s with teams := t.teams, cores := t.cores, partitions := t.partitions, tlb := t.tlb, free := t.free }
  memory : SameMemory s t
  core : ∀ k, t.core k = if k = s.cur then { s.core k with bundle := none } else s.core k
  counter : ∀ p, t.partition p = if p = partOf (clusterOf s.cur) then
    { s.partition p with counters := (s.partition p).counters.upd 0 2 (fun v => v + 1) } else s.partition p
  others : ∀ k, k ≠ b.team → t.team k = s.team k
  rest : (t.team b.team).bare = (s.team b.team).bare

/-- The same; the groups of the team keep all but their threads, and threads outside the bundle stand. -/
structure CloseFrame (s t : State) (b : Bundle) : Prop extends Closes s t b where
  groups : ∀ g, (t.group b.team g).bare = (s.group b.team g).bare
  threads : ∀ g l, (g, l) ∉ b.members → t.thread b.team g l = s.thread b.team g l

/-- Every address of the list passes the checks of R302 in turn, for a cluster, a tenant and a launch; addresses in one page take one lookup
(R33). -/
def TargetsPass (c tn launch : Nat) : List Dword → State → Lookups → Prop
  | [], _, _ => True
  | va :: r, s, seen => (s.target c tn launch va seen).1 = .ok () ∧
      TargetsPass c tn launch r (s.target c tn launch va seen).2 (s.noteLookup c tn va.toNat 4 false seen)

/-- No uniform register of the team is changed. -/
def SameUniform (s t : State) (team : Nat) : Prop :=
  ∀ g, (t.group team g).s = (s.group team g).s ∧ (t.group team g).sPoison = (s.group team g).sPoison

/-- Uniform registers changed at most in the group g and there at the registers of the list. -/
def UniformOnly (s t : State) (team g : Nat) (ds : List Nat) : Prop :=
  (∀ k, k ≠ g → (t.group team k).s = (s.group team k).s ∧ (t.group team k).sPoison = (s.group team k).sPoison) ∧
    ∀ n, n ∉ ds → (t.group team g).sGet n = (s.group team g).sGet n ∧ (t.group team g).sBad n = (s.group team g).sBad n

/-- A thread's per-lane result of R268 and R312, and all that it leaves alone: the register d (unless NW), d + 1 for a 64-bit
result, the flags or-ed, the latch ipos % 4 with the low word; no other register, flag, latch or field. -/
structure LaneResult (x y : Thread) (ipos : Nat) (nw : Bool) (d : Nat) (lo : Word) (hi : Option Word) (f : Flags) : Prop where
  value : y.vGet d = if nw then x.vGet d else lo
  high : ∀ h, hi = some h → y.vGet (d + 1) = if nw then x.vGet (d + 1) else h
  clean : nw = false → NatSet.has y.vPoison d = false ∧ (hi.isSome → NatSet.has y.vPoison (d + 1) = false)
  others : ∀ n, (nw ∨ (n ≠ d ∧ (hi.isSome → n ≠ d + 1))) →
    y.vGet n = x.vGet n ∧ NatSet.has y.vPoison n = NatSet.has x.vPoison n
  flags : y.flags = x.flags ||| f
  latch : y.y.val.get 0 (ipos % 4) = lo ∧ NatSet.has y.y.valid (ipos % 4) = true ∧ NatSet.has y.y.poison (ipos % 4) = false
  latches : ∀ n, n ≠ ipos % 4 → y.y.val.get 0 n = x.y.val.get 0 n ∧ NatSet.has y.y.valid n = NatSet.has x.y.valid n ∧
    NatSet.has y.y.poison n = NatSet.has x.y.poison n
  rest : { y with v := x.v, vPoison := x.vPoison, flags := x.flags, y := x.y } = x

/-- Every thread of the bundle holds w in the latch of the word's position and is otherwise as it was, or stands at the fall-through
address if the clause has ended (R175, R265, R268). -/
def LatchEverywhere (s t : State) (b : Bundle) (i : Instr) (w : Word) : Prop :=
  ∀ m ∈ b.members, ∃ y, LaneResult (s.thread b.team m.1 m.2) y b.ipos true 0 w none 0 ∧
    t.thread b.team m.1 m.2 = y.afterWord b i.len (s.core s.cur).clk.toNat

/-- A thread m of the bundle after a word that went on. Where the clause ends, a thread that awaits a remote answer waits in it: with the
bundle, or, where others of it go on, alone at the end of the clause (R37, R396). -/
def Thread.settled (x : Thread) (b : Bundle) (len : Nat) (held : List Member) (m : Member) (clk : Nat) : Thread :=
  if m ∈ held then (if b.ends len && !b.allWait held then { x with pc := b.pc, pos := b.pos + len } else x) else x.afterWord b len clk

/-- What every word of len words that goes on leaves alone, whatever it does to its own team: other teams, threads outside the
bundle, the other cores, and its own core but for the bundle. -/
structure Leaves (s t : State) (b : Bundle) (len : Nat) (held : List Member) : Prop where
  core : ∀ k, t.core k = if k = s.cur then { s.core k with bundle := b.atEnd len held } else s.core k
  others : ∀ k, k ≠ b.team → t.team k = s.team k
  threads : ∀ g l, (g, l) ∉ b.members → t.thread b.team g l = s.thread b.team g l

/-- The words issued are counted, and no other counter or field of a partition changes (R390). -/
def OnlyWords (s t : State) : Prop :=
  ∀ p, t.partition p = if p = partOf (clusterOf s.cur) then
    { s.partition p with counters := (s.partition p).counters.upd 0 2 (fun v => v + 1) } else s.partition p

/-- Every group of the team keeps all but its threads. -/
def SameGroups (s t : State) (team : Nat) : Prop := ∀ g, (t.group team g).bare = (s.group team g).bare

end Sys2Proof.Machine
end

