-- ==== Sys2Proof/Certificates/Slice0/Obligations.lean ====
section
/-! DEFINITION. The statements for the provers: what the numbered rules of the spec say that a word, an event or the machine does.
The helper definitions of the namespace Sys2Proof.Claims are written from the rules they cite, apart from the meanings. -/

open Sys2Proof Sys2Proof.Machine

namespace Sys2Proof.Claims

/-! ### Class S: values of the uniform words (R294 to R299) -/

/-- The third operand of an S word: the register its sb7 or its extension names (R270). -/
def third (g : Group) : STail → Word
  | .short b => g.sGet b.toNat
  | .ext e => g.sGet e.sb.toNat

/-- The condition codes of SCMP (R282, R298): signed for 0 to 5, unsigned for 6 and 7. -/
def compares (cond : BitVec 3) (a b : Word) : Prop :=
  match cond.toNat with
  | 0 => a = b
  | 1 => a ≠ b
  | 2 => a.toInt < b.toInt
  | 3 => a.toInt ≤ b.toInt
  | 4 => a.toInt > b.toInt
  | 5 => a.toInt ≥ b.toInt
  | 6 => a.toNat < b.toNat
  | _ => a.toNat ≤ b.toNat

open scoped Classical in
/-- The destination and the value of each uniform word with a 32-bit result, from the group's registers as they stand at issue
(R295 to R298). -/
noncomputable def uniformValue (g : Group) : Instr → Option (BitVec 9 × Word)
  | .smovi d imm => some (d, BitVec.ofInt 32 imm.toInt)
  | .smovh d imm => some (d, BitVec.ofNat 32 (imm.toNat * 2 ^ 16 + (g.sGet d.toNat).toNat % 2 ^ 16))
  | .saddi d imm => some (d, BitVec.ofInt 32 ((g.sGet d.toNat).toInt + imm.toInt))
  | .sldc d lit => some (d, lit)
  | .smov d a => some (d, g.sGet a.toNat)
  | .sclz d a => some (d, BitVec.ofNat 32 (if (g.sGet a.toNat).toNat = 0 then 32 else 31 - Nat.log2 (g.sGet a.toNat).toNat))
  | .spopc d a => some (d, BitVec.ofNat 32 (((List.range 32).filter (fun k => (g.sGet a.toNat).getLsbD k)).length))
  | .sadd d a b => some (d, BitVec.ofNat 32 ((g.sGet a.toNat).toNat + (third g b).toNat))
  | .ssub d a b => some (d, BitVec.ofInt 32 ((g.sGet a.toNat).toNat - (third g b).toNat))
  | .smul d a b => some (d, BitVec.ofNat 32 ((g.sGet a.toNat).toNat * (third g b).toNat))
  | .smulh d a b => some (d, BitVec.ofNat 32 ((g.sGet a.toNat).toNat * (third g b).toNat / 2 ^ 32))
  | .smulhS32 d a b => some (d, BitVec.ofInt 32 ((g.sGet a.toNat).toInt * (third g b).toInt / 2 ^ 32))
  | .sand d a b => some (d, g.sGet a.toNat &&& third g b)
  | .sor d a b => some (d, g.sGet a.toNat ||| third g b)
  | .sxor d a b => some (d, g.sGet a.toNat ^^^ third g b)
  | .sandn d a b => some (d, g.sGet a.toNat &&& ~~~third g b)
  | .sshl d a b => some (d, if 32 ≤ (third g b).toNat then 0
      else BitVec.ofNat 32 ((g.sGet a.toNat).toNat * 2 ^ (third g b).toNat))
  | .sshr d a b => some (d, if 32 ≤ (third g b).toNat then 0
      else BitVec.ofNat 32 ((g.sGet a.toNat).toNat / 2 ^ (third g b).toNat))
  | .ssar d a b => some (d, if 32 ≤ (third g b).toNat then BitVec.ofInt 32 (if (g.sGet a.toNat).msb then -1 else 0)
      else BitVec.ofInt 32 ((g.sGet a.toNat).toInt / 2 ^ (third g b).toNat))
  | .smin d a b => some (d, BitVec.ofInt 32 (min (g.sGet a.toNat).toInt (third g b).toInt))
  | .smax d a b => some (d, BitVec.ofInt 32 (max (g.sGet a.toNat).toInt (third g b).toInt))
  | .sminz d a b => some (d, BitVec.ofNat 32 (min (g.sGet a.toNat).toNat (third g b).toNat))
  | .smaxz d a b => some (d, BitVec.ofNat 32 (max (g.sGet a.toNat).toNat (third g b).toNat))
  | .scmp d a e => some (d, if compares e.cond (g.sGet a.toNat) (g.sGet e.sb.toNat) then 1 else 0)
  | .ssel d a e => some (d, if g.sGet e.sc.toNat ≠ 0 then g.sGet a.toNat else g.sGet e.sb.toNat)
  | _ => none

/-- The destination pair and the value of each uniform word with a 64-bit result (R299, R306, R309): the cycle counter is read
as 0 in a DET launch. -/
def uniformPairValue (s : State) (b : Bundle) : Instr → Option (BitVec 9 × Dword)
  | .sadd64 d a c => some (d, (s.group b.team b.group).sPair a.toNat + (s.group b.team b.group).sPair c.reg)
  | .ssub64 d a c => some (d, (s.group b.team b.group).sPair a.toNat - (s.group b.team b.group).sPair c.reg)
  | .clk d => some (d, if (s.lpbOf b.team).det then 0 else (s.core s.cur).clk)
  | .joinTest d n => some (d, (s.group b.team b.group).joins.get 0 n.toNat)
  | _ => none

end Sys2Proof.Claims

open Sys2Proof.Claims

/-- R294 to R298: a uniform word with a 32-bit result writes sd (a write to s0 is discarded), clears its poison, writes the latch of
its position in every lane, and changes nothing else; no flag is set. -/
def Sys2Proof.Claims.UniformWordWritesOneResult : Prop :=
  ∀ (s : State) (b : Bundle) (i : Instr) (d : BitVec 9) (w : Word), Issues s b i →
    uniformValue (s.group b.team b.group) i = some (d, w) →
    ∃ t, exec i s = .next t ∧ WordFrame s t b i.len ∧ UniformOnly s t b.team b.group [d.toNat] ∧
      (t.group b.team b.group).sGet d.toNat = (if d = 0 then 0 else w) ∧ (t.group b.team b.group).sBad d.toNat = false ∧
      LatchEverywhere s t b i w

/-- R294, R299, R306, R309: a uniform word with a 64-bit result writes both words of the pair together, the low word into the
latch, and changes nothing else. -/
def Sys2Proof.Claims.UniformPairWordWritesBothWords : Prop :=
  ∀ (s : State) (b : Bundle) (i : Instr) (d : BitVec 9) (w : Dword), Issues s b i →
    uniformPairValue s b i = some (d, w) →
    ∃ t, exec i s = .next t ∧ WordFrame s t b i.len ∧ UniformOnly s t b.team b.group [d.toNat, d.toNat + 1] ∧
      (t.group b.team b.group).sGet d.toNat = (if d = 0 then 0 else BitVec.ofNat 32 (w.toNat % 2 ^ 32)) ∧
      (t.group b.team b.group).sGet (d.toNat + 1) = BitVec.ofNat 32 (w.toNat / 2 ^ 32) ∧
      (t.group b.team b.group).sBad d.toNat = false ∧ (t.group b.team b.group).sBad (d.toNat + 1) = false ∧
      LatchEverywhere s t b i (BitVec.ofNat 32 (w.toNat % 2 ^ 32))

namespace Sys2Proof.Claims

/-! ### Class S: special registers, branches, calls, masks (R300 to R309) -/

/-- R222: an island gang's register, or all ones. -/
def islandOnly (x : Team) (v : Nat) : Nat := if x.island = none then 2 ^ 32 - 1 else v

/-- The value of each special register for a bundle whose lowest thread is (g, l), executing on core c (R300). -/
def specialValue (s : State) (b : Bundle) (n : Nat) : Nat :=
  let x := s.team b.team
  let p := s.lpbOf b.team
  let low := b.members.headD (0, 0)
  let k := s.clusterIndex x.tenant (s.cur / 6)
  let areas := s.clusterIndex x.tenant x.cluster * 2 ^ 23 + (x.base + p.declOff)
  let lanes := (b.members.map (·.2)).foldr (fun l m => m ||| 2 ^ l) 0
  match n with
  | 0 => low.1 * p.w + low.2
  | 1 => low.2
  | 2 => low.1
  | 3 => x.index % 2 ^ 32
  | 4 => (s.launchOf b.team).total % 2 ^ 32
  | 5 => p.w
  | 6 => if p.det then 0 else 6 * k + s.cur % 6
  | 7 => if p.det then 0 else k
  | 8 => if p.det then 0 else k / 5
  | 9 => if p.seam then x.index / (p.e1 * p.e2) else 0
  | 10 => if p.seam then x.index / p.e2 % p.e1 else 0
  | 11 => if p.seam then x.index % p.e2 else 0
  | 12 => islandOnly x (x.island.getD 0)
  | 13 => islandOnly x x.member
  | 14 => islandOnly x x.gangSize
  | 15 => islandOnly x x.bodies.length
  | 16 => islandOnly x areas
  | 17 => islandOnly x (areas + roundUp (x.islP * ((s.tenant x.tenant).slots.get {} x.slot).desc.recsz) 256)
  | 18 => ((b.members.map (fun (m : Member) => (s.thread b.team m.1 m.2).flags)).foldr (fun f a => a ||| f) 0).toNat
  | 19 => x.index / 2 ^ 32
  | 20 => (s.launchOf b.team).total / 2 ^ 32
  | 21 => if p.det then 0 else (s.group b.team b.group).rtick.toNat
  | 22 => x.gangSize
  | 23 => x.member
  | 24 => lanes % 2 ^ 32
  | 25 => lanes / 2 ^ 32
  | _ => 0

/-- The address offset words from the branch word of a bundle (R303). -/
def fromBranch (b : Bundle) (off : Int) : Dword := BitVec.ofInt 64 ((b.pc.toNat : Int) + 4 * (b.pos + 1) + 4 * off)

/-- Cond (R281) on a 32-bit value. -/
def branches (cond : BitVec 3) (v : Word) : Prop :=
  match cond.toNat with
  | 1 => v = 0
  | 2 => v ≠ 0
  | 3 => v.toInt < 0
  | 4 => 0 ≤ v.toInt
  | 5 => 0 < v.toInt
  | 6 => v.toInt ≤ 0
  | _ => False

/-- ReadSrc (R259) of an operand code in one thread at a width, as the word's operands stand at issue. -/
def sourceIn (s : State) (b : Bundle) (m : Member) (imm : Option (BitVec 16)) (code : BitVec 8) (width : Nat) : Nat :=
  readSrc (s.group b.team m.1) (s.thread b.team m.1 m.2) (s.env b.team m.1 m.2) imm code width

def wordIn (s : State) (b : Bundle) (m : Member) (code : BitVec 8) : Word := BitVec.ofNat 32 (sourceIn s b m none code 32)

/-- The lowest thread of a bundle. -/
def lowest (b : Bundle) : Member := b.members.headD (0, 0)

/-- Each branch word: which threads it moves, and where to (R303, R304). -/
def branchOf (s : State) (b : Bundle) : Instr → Option ((Member → Prop) × (Member → Dword))
  | .bra off => some (fun _ => True, fun _ => fromBranch b off.toInt)
  | .braLong lit => some (fun _ => True, fun _ => fromBranch b lit.toInt)
  | .bru src cond off => some (fun _ => branches cond (wordIn s b (lowest b) src), fun _ => fromBranch b off.toInt)
  | .bruLong src cond lit => some (fun _ => branches cond (wordIn s b (lowest b) src), fun _ => fromBranch b lit.toInt)
  | .brt src cond off => some (fun m => branches cond (wordIn s b m src), fun _ => fromBranch b off.toInt)
  | .brtLong src cond lit => some (fun m => branches cond (wordIn s b m src), fun _ => fromBranch b lit.toInt)
  | .brx src => some (fun _ => True, fun m => BitVec.ofNat 64 (sourceIn s b m none src 64))
  | _ => none

/-- Each call word: where it goes (R305). -/
def callOf (s : State) (b : Bundle) : Instr → Option (Member → Dword)
  | .call off => some (fun _ => fromBranch b off.toInt)
  | .callLong lit => some (fun _ => fromBranch b lit.toInt)
  | .callx src => some (fun m => BitVec.ofNat 64 (sourceIn s b m none src 64))
  | _ => none

/-- The clock of the core that issues. -/
def clockOf (s : State) : Nat := (s.core s.cur).clk.toNat

/-- A thread at the start of the clause at pc, without latches, its age the current cycle. -/
def standsAt (x : Thread) (pc : Dword) (clk : Nat) : Thread := { x with pc := pc, pos := 0, y := {}, readyAt := clk }

/-- The address of the header after a bundle's clause (R302). -/
def nextHeader (b : Bundle) : Dword := b.pc + BitVec.ofNat 64 (4 * ((b.header.extractLsb' 28 4).toNat + 1))

/-- Bit l of mask k of group g after the executing threads' bits in mask n have been cleared (strike). -/
def maskBit (s : State) (b : Bundle) (strike : Option Nat) (g k l : Nat) : Bool :=
  ((s.group b.team g).joins.get 0 k).getLsbD l && !decide (strike = some k ∧ (g, l) ∈ b.members)

/-- A group of the bundle releases mask k (R177): a bit is set, and every thread whose bit is set is parked on it. status is the
status of each thread when the masks are tested. -/
def releases (s : State) (b : Bundle) (strike : Option Nat) (status : Nat → Nat → Status) (g k : Nat) : Prop :=
  g ∈ b.members.map (·.1) ∧ k < 8 ∧ (∃ l, l < (s.lpbOf b.team).w ∧ maskBit s b strike g k l = true) ∧
    ∀ l, l < (s.lpbOf b.team).w → maskBit s b strike g k l = true → status g l = .parked k

/-- The thread (g, l) is released by a mask of its group. -/
def released (s : State) (b : Bundle) (strike : Option Nat) (status : Nat → Nat → Status) (g l : Nat) : Prop :=
  l < (s.lpbOf b.team).w ∧ ∃ k, releases s b strike status g k ∧ maskBit s b strike g k l = true

/-- The age a released thread takes: the cycle of its group's core. -/
def groupClock (s : State) (b : Bundle) (g : Nat) : Nat := (s.core (s.group b.team g).core).clk.toNat

/-- The status of the threads when PARK n has parked the enrolled ones of its bundle. -/
def parkStatus (s : State) (b : Bundle) (n g l : Nat) : Status :=
  if (g, l) ∈ b.members ∧ maskBit s b none g n l = true then .parked n else (s.thread b.team g l).status

/-- A group but for its threads and masks. -/
def unjoined (g : Group) : Group := { g with threads := [], joins := [] }

end Sys2Proof.Claims

/-- R300, R301, R294: SGET writes the value of a special register into sd and the latch, as a uniform word; the read of rtick
sets the group's count to 0 outside a DET launch; nothing else changes. -/
def Sys2Proof.Claims.SgetReadsSpecialRegister : Prop :=
  ∀ (s : State) (b : Bundle) (n : BitVec 8) (d : BitVec 9), Issues s b (.sget n d) →
    ∃ t, exec (.sget n d) s = .next t ∧ GoesOn s t b 1 ∧ UniformOnly s t b.team b.group [d.toNat] ∧
      (t.group b.team b.group).sGet d.toNat = (if d = 0 then 0 else BitVec.ofNat 32 (specialValue s b n.toNat)) ∧
      (t.group b.team b.group).sBad d.toNat = false ∧
      (∀ g, { (t.group b.team g).fixed with rtick := 0 } = { (s.group b.team g).fixed with rtick := 0 } ∧
        (t.group b.team g).rtick =
          if g = b.group ∧ n = 21 ∧ (s.lpbOf b.team).det = false then 0 else (s.group b.team g).rtick) ∧
      LatchEverywhere s t b (.sget n d) (BitVec.ofNat 32 (specialValue s b n.toNat))

/-- R301: SSET flags gives every executing thread the flags a[7:0] and writes no register and no latch; a value with any of bits
[31:8] set traps ILLEGAL_OPERAND in every executing thread, and no flags change. -/
def Sys2Proof.Claims.SsetWritesFlags : Prop :=
  ∀ (s : State) (b : Bundle) (n : BitVec 8) (a : BitVec 9), Issues s b (.sset n a) →
    (((s.group b.team b.group).sGet a.toNat).toNat < 256 →
      ∃ t, exec (.sset n a) s = .next t ∧ WordFrame s t b 1 ∧ SameUniform s t b.team ∧
        ∀ m ∈ b.members, t.thread b.team m.1 m.2 = ({ s.thread b.team m.1 m.2 with
          flags := ((s.group b.team b.group).sGet a.toNat).setWidth 8 } : Thread).afterWord b 1 (clockOf s)) ∧
    (256 ≤ ((s.group b.team b.group).sGet a.toNat).toNat →
      exec (.sset n a) s = .next (settle s.cur 1 b
        { s := s.issued b, traps := b.members.map (fun m => ⟨m, .illegalOperand, 0, 0⟩) }))

open scoped Classical in
/-- R302 to R304: where every target of a thread that moves passes the checks of R302, the threads of a branch word move to their
targets and the others to the fall-through address; the word closes its clause, and nothing else changes. -/
def Sys2Proof.Claims.BranchMovesThreads : Prop :=
  ∀ (s : State) (b : Bundle) (i : Instr) (taken : Member → Prop) (target : Member → Dword), Issues s b i →
    branchOf s b i = some (taken, target) →
    TargetsPass (clusterOf s.cur) (s.team b.team).tenant (s.team b.team).launch ((b.members.filter (fun m => decide (taken m))).map target) s [] →
    ∃ t, exec i s = .next t ∧ CloseFrame s t b ∧
      ∀ m ∈ b.members, t.thread b.team m.1 m.2 =
        standsAt (s.thread b.team m.1 m.2) (if taken m then target m else nextHeader b) (clockOf s)

/-- R305: a call pushes the fall-through address on each thread's own return stack and moves the thread to its target, where no stack
is full and every target passes. -/
def Sys2Proof.Claims.CallPushesAndMoves : Prop :=
  ∀ (s : State) (b : Bundle) (i : Instr) (target : Member → Dword), Issues s b i → callOf s b i = some target →
    (∀ m ∈ b.members, (s.thread b.team m.1 m.2).depth ≠ (s.lpbOf b.team).d) →
    TargetsPass (clusterOf s.cur) (s.team b.team).tenant (s.team b.team).launch (b.members.map target) s [] →
    ∃ t, exec i s = .next t ∧ CloseFrame s t b ∧
      ∀ m ∈ b.members, t.thread b.team m.1 m.2 = { standsAt (s.thread b.team m.1 m.2) (target m) (clockOf s) with
        depth := (s.thread b.team m.1 m.2).depth + 1
        frames := (s.thread b.team m.1 m.2).frames.put 0 (s.thread b.team m.1 m.2).depth (nextHeader b) }

/-- R305: RET pops each thread's innermost frame and moves the thread to it, where no stack is empty and every frame passes. -/
def Sys2Proof.Claims.RetPopsAndMoves : Prop :=
  ∀ (s : State) (b : Bundle), Issues s b .ret →
    (∀ m ∈ b.members, (s.thread b.team m.1 m.2).depth ≠ 0) →
    TargetsPass (clusterOf s.cur) (s.team b.team).tenant (s.team b.team).launch (b.members.map (fun m =>
      (s.thread b.team m.1 m.2).frames.get 0 ((s.thread b.team m.1 m.2).depth - 1))) s [] →
    ∃ t, exec .ret s = .next t ∧ CloseFrame s t b ∧
      ∀ m ∈ b.members, t.thread b.team m.1 m.2 = { standsAt (s.thread b.team m.1 m.2)
          ((s.thread b.team m.1 m.2).frames.get 0 ((s.thread b.team m.1 m.2).depth - 1)) (clockOf s) with
        depth := (s.thread b.team m.1 m.2).depth - 1 }

/-- R302: the checks of a target, in order: bits [63:52], a multiple of 4, outside the fabric window span, translated with X set,
and a header that passes R261, as the launch fetches it (R262): where its own stores have changed the header since its start fence, the old or
the new one. The first check that fails decides the cause. -/
def Sys2Proof.Claims.TargetChecksInOrder : Prop :=
  ∀ (s : State) (c tn n : Nat) (va : Dword),
    (va.extractLsb' 52 12 ≠ 0 → (s.target c tn n va).1 = .error (.trap .addrNoncanon, 4)) ∧
    (va.extractLsb' 52 12 = 0 → va.toNat % 4 ≠ 0 → (s.target c tn n va).1 = .error (.trap .illegalClause, 0)) ∧
    (va.extractLsb' 52 12 = 0 → va.toNat % 4 = 0 → s.inWindow tn va.toNat = true →
      (s.target c tn n va).1 = .error (.trap .access, 4)) ∧
    (va.extractLsb' 52 12 = 0 → va.toNat % 4 = 0 → s.inWindow tn va.toNat = false →
      ∀ r, (s.globalNow c tn va.toNat .fetch).1 = .error r → (s.target c tn n va).1 = .error (r, 4)) ∧
    (va.extractLsb' 52 12 = 0 → va.toNat % 4 = 0 → s.inWindow tn va.toNat = false →
      ∀ l u, s.globalNow c tn va.toNat .fetch = (.ok l, u) → ∃ new : Bool,
        (s.target c tn n va).1 = if headerOk (u.codeWord n new l) then .ok () else .error (.trap .illegalClause, 0)) ∧
    ∀ l, (∀ x ∈ s.codes, x.launch ≠ n) → ∀ new, s.codeWord n new l = leWord ((List.range 4).map (fun i => s.memByte (l.plus i)))

/-- R309, R242: MODESET gives each executing thread the mode its operand holds, from the next clause, where no value has a reserved
bit set; it closes its clause. -/
def Sys2Proof.Claims.ModesetSetsModes : Prop :=
  ∀ (s : State) (b : Bundle) (src : BitVec 8), Issues s b (.modeset src) →
    (∀ m ∈ b.members, (wordIn s b m src).toNat < 8) →
    ∃ t, exec (.modeset src) s = .next t ∧ CloseFrame s t b ∧
      ∀ m ∈ b.members, t.thread b.team m.1 m.2 =
        { standsAt (s.thread b.team m.1 m.2) (nextHeader b) (clockOf s) with mode := wordIn s b m src }

/-- R309: MODEGET and MODEGET.flags give each executing thread its mode register or its flags in vd and the latch. -/
def Sys2Proof.Claims.ModegetReadsModeAndFlags : Prop :=
  ∀ (s : State) (b : Bundle) (d : BitVec 7) (i : Instr), i = .modeget d ∨ i = .modegetFlags d → Issues s b i →
    ∃ t, exec i s = .next t ∧ WordFrame s t b 1 ∧ SameUniform s t b.team ∧
      ∀ m ∈ b.members, ∃ y, LaneResult (s.thread b.team m.1 m.2) y b.ipos false d.toNat
          (if i = .modeget d then (s.thread b.team m.1 m.2).mode
            else BitVec.ofNat 32 (s.thread b.team m.1 m.2).flags.toNat) none 0 ∧
        t.thread b.team m.1 m.2 = y.afterWord b 1 (clockOf s)

/-- R177, R306: JOIN.ENROL sets the bit of each executing thread in the mask it names, and changes nothing else. -/
def Sys2Proof.Claims.JoinEnrolSetsBits : Prop :=
  ∀ (s : State) (b : Bundle) (n : BitVec 8), Issues s b (.joinEnrol n) →
    ∃ t, exec (.joinEnrol n) s = .next t ∧ GoesOn s t b 1 ∧
      (∀ g, unjoined (t.group b.team g) = unjoined (s.group b.team g)) ∧
      (∀ g k l, l < 64 → ((t.group b.team g).joins.get 0 k).getLsbD l =
        (((s.group b.team g).joins.get 0 k).getLsbD l || decide (k = n.toNat ∧ (g, l) ∈ b.members))) ∧
      (∀ g l, (g, l) ∉ b.members → t.thread b.team g l = s.thread b.team g l) ∧
      ∀ m ∈ b.members, t.thread b.team m.1 m.2 = (s.thread b.team m.1 m.2).afterWord b 1 (clockOf s)

open scoped Classical in
/-- R177, R306: JOIN.STRIKE clears the bit of each executing thread in the mask it names; then each group of the bundle tests its masks:
if a mask is nonzero and every thread whose bit is set is parked on it, those threads become ready and the mask is 0. -/
def Sys2Proof.Claims.JoinStrikeClearsAndTests : Prop :=
  ∀ (s : State) (b : Bundle) (n : BitVec 8), Issues s b (.joinStrike n) →
    ∃ t, exec (.joinStrike n) s = .next t ∧ GoesOn s t b 1 ∧
      (∀ g, unjoined (t.group b.team g) = unjoined (s.group b.team g)) ∧
      (∀ g k l, l < 64 → ((t.group b.team g).joins.get 0 k).getLsbD l =
        (maskBit s b (some n.toNat) g k l &&
          !decide (releases s b (some n.toNat) (fun g l => (s.thread b.team g l).status) g k))) ∧
      ∀ g l, t.thread b.team g l =
        let x := s.thread b.team g l
        let y := if released s b (some n.toNat) (fun g l => (s.thread b.team g l).status) g l then
          { x with status := .ready, readyAt := groupClock s b g } else x
        if (g, l) ∈ b.members then y.afterWord b 1 (clockOf s) else y

open scoped Classical in
/-- R177, R178, R306: JOIN.PARK parks each executing thread whose bit is set, at the next clause, and the others go on there; then each
group of the bundle tests its masks. -/
def Sys2Proof.Claims.JoinParkParksAndTests : Prop :=
  ∀ (s : State) (b : Bundle) (n : BitVec 8), Issues s b (.joinPark n) →
    ∃ t, exec (.joinPark n) s = .next t ∧ Closes s t b ∧
      (∀ g, unjoined (t.group b.team g) = unjoined (s.group b.team g)) ∧
      (∀ g k l, l < 64 → ((t.group b.team g).joins.get 0 k).getLsbD l =
        (((s.group b.team g).joins.get 0 k).getLsbD l && !decide (releases s b none (parkStatus s b n.toNat) g k))) ∧
      ∀ g l, t.thread b.team g l =
        let x := s.thread b.team g l
        let y := if (g, l) ∈ b.members then
          { standsAt x (nextHeader b) (clockOf s) with status := parkStatus s b n.toNat g l } else x
        if released s b none (parkStatus s b n.toNat) g l then { y with status := .ready, readyAt := groupClock s b g } else y

/-- R307, R199: NOP changes no register and no latch; YIELD moves each executing thread to the fall-through address with the current
cycle as its age. -/
def Sys2Proof.Claims.NopAndYield : Prop :=
  (∀ (s : State) (b : Bundle), Issues s b .nop →
    ∃ t, exec .nop s = .next t ∧ WordFrame s t b 1 ∧ SameUniform s t b.team ∧
      ∀ m ∈ b.members, t.thread b.team m.1 m.2 = (s.thread b.team m.1 m.2).afterWord b 1 (clockOf s)) ∧
  ∀ (s : State) (b : Bundle), Issues s b .yield →
    ∃ t, exec .yield s = .next t ∧ CloseFrame s t b ∧
      ∀ m ∈ b.members, t.thread b.team m.1 m.2 = standsAt (s.thread b.team m.1 m.2) (nextHeader b) (clockOf s)

/-- R308: EXIT ends each executing thread: STATE 0, no latch, its bits out of all eight masks; no register of it and no uniform register
of its team changes, and outside a seam point, with no rein that the exit closes, no byte of memory does. -/
def Sys2Proof.Claims.ExitEndsThreads : Prop :=
  ∀ (s : State) (b : Bundle), Issues s b .exit →
    ∃ t, exec .exit s = .next t ∧ (t.core s.cur).bundle = none ∧
      ((s.lpbOf b.team).seam = false → (s.team b.team).guard = [] → SameMemory s t) ∧ SameUniform s t b.team ∧
      ∀ m ∈ b.members, t.thread b.team m.1 m.2 = { s.thread b.team m.1 m.2 with status := .exited, y := {}, ySaved := {} } ∧
        ∀ k, k < 8 → m.2 < 64 → ((t.group b.team m.1).joins.get 0 k).getLsbD m.2 = false

namespace Sys2Proof.Claims

/-! ### Class V: integer words (R249, R312 to R318) -/

/-- What a per-lane word gives one thread: NW, vd, the value, whether it is 64 bits wide, and the flags raised. -/
structure LaneValue where
  nw : Bool
  d : BitVec 7
  wide : Bool
  value : Nat
  flags : Flags

/-- A w-bit pattern as the integer of its type. -/
def intVal (t : ElemTy) (x : Nat) : Int :=
  if t.isSigned ∧ 2 ^ (t.width - 1) ≤ x then (x : Int) - 2 ^ t.width else x

/-- The w-bit pattern of an integer. -/
def pattern (w : Nat) (n : Int) : Nat := (n % 2 ^ w).toNat

/-- What is written for an exact integer result of a type: its w-bit pattern, narrow ones extended to 32 bits by the type (R312). -/
def written (t : ElemTy) (n : Int) : Nat :=
  if t.width = 64 then pattern 64 n else pattern 32 (intVal t (pattern t.width n))

/-- The range of a type. -/
def lowest' (t : ElemTy) : Int := if t.isSigned then -2 ^ (t.width - 1) else 0
def highest (t : ElemTy) : Int := if t.isSigned then 2 ^ (t.width - 1) - 1 else 2 ^ t.width - 1

/-- An exact result wrapped, or clamped under sat with SAT set when it clamps (R249). -/
def narrowed (t : ElemTy) (sat : Bool) (n : Int) : Nat × Flags :=
  if sat then (written t (max (lowest' t) (min (highest t) n)), if n < lowest' t ∨ highest t < n then 0x40 else 0)
  else (written t n, 0)

def satBit (e : Option VExt) : Bool := e.elim false (·.sat)

/-- A word of two sources of the type. -/
def lane2 (s : State) (b : Bundle) (m : Member) (nw : Bool) (d : BitVec 7) (x y : BitVec 8) (e : Option VExt)
    (f : ElemTy → Nat → Nat → Nat × Flags) : Option LaneValue :=
  let t := tyOf .z32 e
  let r := f t (sourceIn s b m (immOf e) x t.width) (sourceIn s b m (immOf e) y t.width)
  some ⟨nw, d, t.width = 64, r.1, r.2⟩

/-- A word of two sources, the second a 32-bit operand. -/
def lane2s (s : State) (b : Bundle) (m : Member) (nw : Bool) (d : BitVec 7) (x y : BitVec 8) (e : Option VExt)
    (f : ElemTy → Nat → Nat → Nat × Flags) : Option LaneValue :=
  let t := tyOf .z32 e
  let r := f t (sourceIn s b m (immOf e) x t.width) (sourceIn s b m (immOf e) y 32)
  some ⟨nw, d, t.width = 64, r.1, r.2⟩

/-- A word of one source; narrow: one 32-bit result at every type. -/
def lane1 (s : State) (b : Bundle) (m : Member) (nw : Bool) (d : BitVec 7) (x : BitVec 8) (e : Option VExt) (narrow : Bool)
    (f : ElemTy → Nat → Nat) : Option LaneValue :=
  let t := tyOf .z32 e
  some ⟨nw, d, t.width = 64 ∧ ¬narrow, f t (sourceIn s b m (immOf e) x t.width), 0⟩

/-- A number from its bits, below w. -/
def fromBits (w : Nat) (bit : Nat → Bool) : Nat := ((List.range w).map (fun k => if bit k then 2 ^ k else 0)).sum

/-- The conditions of VCMP (R282, R316). -/
def vectorCompares (t : ElemTy) (cond : BitVec 3) (x y : Nat) : Prop :=
  match cond.toNat with
  | 0 => x = y
  | 1 => x ≠ y
  | 2 => intVal t x < intVal t y
  | 3 => intVal t x ≤ intVal t y
  | 4 => intVal t x > intVal t y
  | _ => intVal t x ≥ intVal t y

open scoped Classical in
/-- The result of every integer word in one thread (R314 to R318). -/
noncomputable def integerLane (s : State) (b : Bundle) (m : Member) : Instr → Option LaneValue
  | .vadd nw d x y e => lane2 s b m nw d x y e fun t p q => narrowed t false (intVal t p + intVal t q)
  | .vaddsat nw d x y e => lane2 s b m nw d x y (some e) fun t p q => narrowed t true (intVal t p + intVal t q)
  | .vsub nw d x y e => lane2 s b m nw d x y e fun t p q => narrowed t false (intVal t p - intVal t q)
  | .vsubsat nw d x y e => lane2 s b m nw d x y (some e) fun t p q => narrowed t true (intVal t p - intVal t q)
  | .vmul nw d x y e => lane2 s b m nw d x y e fun t p q => narrowed t (satBit e) (intVal t p * intVal t q)
  | .vmulh nw d x y e => lane2 s b m nw d x y e fun t p q => narrowed t false (intVal t p * intVal t q / 2 ^ t.width)
  | .vmad nw d x y e =>
    let r := narrowed e.ty e.sat (intVal e.ty (sourceIn s b m (some e.imm) x e.ty.width) *
      intVal e.ty (sourceIn s b m (some e.imm) y e.ty.width) + intVal e.ty (sourceIn s b m (some e.imm) e.sc e.ty.width))
    some ⟨nw, d, e.ty.width = 64, r.1, r.2⟩
  | .vand nw d x y e => lane2 s b m nw d x y e fun t p q => narrowed t false (fromBits t.width fun k => p.testBit k && q.testBit k)
  | .vor nw d x y e => lane2 s b m nw d x y e fun t p q => narrowed t false (fromBits t.width fun k => p.testBit k || q.testBit k)
  | .vxor nw d x y e => lane2 s b m nw d x y e fun t p q => narrowed t false (fromBits t.width fun k => p.testBit k != q.testBit k)
  | .vshl nw d x y e => lane2s s b m nw d x y e fun t p q =>
      if satBit e then narrowed t true (intVal t p * 2 ^ q) else narrowed t false (if t.width ≤ q then 0 else p * 2 ^ q)
  | .vshr nw d x y e => lane2s s b m nw d x y e fun t p q => narrowed t false (if t.width ≤ q then 0 else (p / 2 ^ q : Nat))
  | .vsar nw d x y e => lane2s s b m nw d x y e fun t p q =>
      narrowed t false ((if 2 ^ (t.width - 1) ≤ p then (p : Int) - 2 ^ t.width else p) / 2 ^ q)
  | .vmin nw d x y e => lane2 s b m nw d x y e fun t p q => narrowed t false (min (intVal t p) (intVal t q))
  | .vmax nw d x y e => lane2 s b m nw d x y e fun t p q => narrowed t false (max (intVal t p) (intVal t q))
  | .vnot nw d x e => lane1 s b m nw d x e false fun t p => written t (fromBits t.width fun k => !p.testBit k)
  | .vabs nw d x e => lane1 s b m nw d x e false fun t p => written t |intVal t p|
  | .vneg nw d x e => lane1 s b m nw d x e false fun t p => written t (-intVal t p)
  | .vclz nw d x e => lane1 s b m nw d x e true fun t p => if p = 0 then t.width else t.width - 1 - Nat.log2 p
  | .vpopc nw d x e => lane1 s b m nw d x e true fun t p => ((List.range t.width).filter (fun k => p.testBit k)).length
  | .vbrev nw d x e => lane1 s b m nw d x e false fun t p => written t (fromBits t.width fun k => p.testBit (t.width - 1 - k))
  | .vcmp nw d x y e => some ⟨nw, d, false,
      if vectorCompares e.ty e.rnd (sourceIn s b m (some e.imm) x e.ty.width) (sourceIn s b m (some e.imm) y e.ty.width) then 1 else 0, 0⟩
  | .vsel nw d x y e => some ⟨nw, d, e.ty.width = 64,
      sourceIn s b m (some e.imm) (if sourceIn s b m (some e.imm) e.sc 32 ≠ 0 then x else y) e.ty.width, 0⟩
  | .vbfe nw d x y e =>
    let p := sourceIn s b m (some e.imm) x 32
    let pos := min (sourceIn s b m (some e.imm) y 32) 32
    let len := min (sourceIn s b m (some e.imm) e.sc 32) 32
    let bit := fun k => if pos + k < 32 then p.testBit (pos + k) else (e.ty.isSigned && p.testBit 31)
    let field := fromBits len bit
    some ⟨nw, d, false, if e.ty.isSigned ∧ 0 < len ∧ bit (len - 1) then pattern 32 ((field : Int) - 2 ^ len) else field, 0⟩
  | .vbfi nw d x y e =>
    let p := sourceIn s b m (some e.imm) x 32
    let q := sourceIn s b m (some e.imm) y 32
    let c := sourceIn s b m (some e.imm) e.sc 32
    let pos := min (c % 256) 32
    let len := min (c / 256 % 256) 32
    some ⟨nw, d, false, fromBits 32 fun k => if pos ≤ k ∧ k < pos + len then q.testBit (k - pos) else p.testBit k, 0⟩
  | .vdiv nw d x y e => lane2 s b m nw d x y e fun t p q =>
      if q = 0 then (written t (-1), 0x20) else narrowed t false (Int.tdiv (intVal t p) (intVal t q))
  | .vrem nw d x y e => lane2 s b m nw d x y e fun t p q =>
      if q = 0 then (written t p, 0x20) else narrowed t false (Int.tmod (intVal t p) (intVal t q))
  | _ => none

/-! ### Class V: float words (R245 to R248, R319 to R326) -/

/-- The rational value of a finite pattern of a format (R245). -/
def floatVal (f : Fmt) (x : Nat) : Option ℚ :=
  let frac := x % 2 ^ f.fbits
  let ex := x / 2 ^ f.fbits % 2 ^ f.ebits
  let sign : ℚ := if x / 2 ^ (f.fbits + f.ebits) % 2 = 1 then -1 else 1
  if ex = 2 ^ f.ebits - 1 then none
  else if ex = 0 then some (sign * frac * (2 : ℚ) ^ ((2 : Int) - 2 ^ (f.ebits - 1) - f.fbits))
  else some (sign * (2 ^ f.fbits + frac : Nat) * (2 : ℚ) ^ ((ex : Int) + 1 - 2 ^ (f.ebits - 1) - f.fbits))

/-- The largest finite value of a format, and infinity's pattern. -/
def floatMax (f : Fmt) : ℚ := (2 - (1 / 2 : ℚ) ^ f.fbits) * 2 ^ (2 ^ (f.ebits - 1) - 1)
def infinity (f : Fmt) (neg : Bool) : Nat := (if neg then 2 ^ (f.fbits + f.ebits) else 0) + (2 ^ f.ebits - 1) * 2 ^ f.fbits

/-- r is the rounding of the number x (no zero) to a format without FTZ (R246): under RNE the nearest value, an even significand at a
tie, infinity from halfway beyond the largest; under the other modes the nearest value in the direction of the mode. -/
def IsRounding (f : Fmt) (rm : Round) (x : ℚ) (r : Nat) : Prop :=
  r / 2 ^ (f.fbits + f.ebits) = (if x < 0 then 1 else 0) ∧
  match rm with
  | .rne =>
    (floatMax f + 2 ^ (2 ^ (f.ebits - 1) - 1) * (1 / 2 : ℚ) ^ (f.fbits + 1) ≤ |x| → r = infinity f (decide (x < 0))) ∧
    (|x| < floatMax f + 2 ^ (2 ^ (f.ebits - 1) - 1) * (1 / 2 : ℚ) ^ (f.fbits + 1) →
      ∃ v, floatVal f r = some v ∧ ∀ y w, floatVal f y = some w → |x - v| ≤ |x - w| ∧ (|x - v| = |x - w| → w = v ∨ r % 2 = 0))
  | .rtz => ∃ v, floatVal f r = some v ∧ |v| ≤ |x| ∧ ∀ y w, floatVal f y = some w → |w| ≤ |x| → |w| ≤ |v|
  | .rup =>
    (floatMax f < x → r = infinity f false) ∧
    (x ≤ floatMax f → ∃ v, floatVal f r = some v ∧ x ≤ v ∧
      ∀ y w, floatVal f y = some w → x ≤ w → v ≤ w)
  | .rdn =>
    (x < -floatMax f → r = infinity f true) ∧
    (-floatMax f ≤ x → ∃ v, floatVal f r = some v ∧ v ≤ x ∧
      ∀ y w, floatVal f y = some w → w ≤ x → w ≤ v)

/-- The four float formats of R245. -/
def IsFormat (f : Fmt) : Prop := f = fmtF16 ∨ f = fmtBf16 ∨ f = fmtF32 ∨ f = fmtF64

/-- The rounding mode of a word (R243): codes 0 to 3 of its round field, else the thread's RM. -/
def modeFor (e : Option VExt) (x : Thread) : Round :=
  match e with
  | some y => if y.rnd.toNat ≤ 3 then Round.ofCode y.rnd.toNat else Round.ofCode (x.modeNow.toNat % 4)
  | none => Round.ofCode (x.modeNow.toNat % 4)

/-- The operation of each float word of one or two sources in a format, under a mode and FTZ (R319, R320). -/
def floatOp (rm : Round) (ftz : Bool) (f : Fmt) : Instr → Nat → Nat → Nat × Flags
  | .fadd .., p, q => f.fadd rm ftz p q
  | .fsub .., p, q => f.fsub rm ftz p q
  | .fmul .., p, q => f.fmul rm ftz p q
  | .fmin .., p, q => f.minMax ftz false p q
  | .fmax .., p, q => f.minMax ftz true p q
  | .fabs .., p, _ => (f.fabs p, 0)
  | .fneg .., p, _ => (f.fneg p, 0)
  | .frnd .., p, _ => f.frnd rm ftz p
  | .frcp .., p, _ => f.frcp rm ftz p
  | .frsq .., p, _ => f.frsq rm ftz p
  | .fsqrt .., p, _ => f.fsqrt rm ftz p
  | .flog2 .., p, _ => f.flog2 rm ftz p
  | .fsin .., p, _ => f.fsin rm ftz p
  | .fcos .., p, _ => f.fcos rm ftz p
  | _, p, _ => (p, 0)

/-- A pattern of a type taken apart: elements 0 and 1 of a packed word each for itself, their flags both set (R241, R319). -/
def onElements (t : ElemTy) (f : Nat → Nat → Nat → Nat × Flags) (p q k : Nat) : Nat × Flags :=
  if t = .f16x2 ∨ t = .bf16x2 then
    ((f (p % 2 ^ 16) (q % 2 ^ 16) (k % 2 ^ 16)).1 + 2 ^ 16 * (f (p / 2 ^ 16) (q / 2 ^ 16) (k / 2 ^ 16)).1,
      (f (p % 2 ^ 16) (q % 2 ^ 16) (k % 2 ^ 16)).2 ||| (f (p / 2 ^ 16) (q / 2 ^ 16) (k / 2 ^ 16)).2)
  else f p q k

/-- A float word of one or two sources in one thread. -/
def floatLane12 (s : State) (b : Bundle) (m : Member) (i : Instr) (nw : Bool) (d : BitVec 7) (x y : BitVec 8) (e : Option VExt) :
    Option LaneValue :=
  let t := tyOf .f32 e
  let th := s.thread b.team m.1 m.2
  let r := onElements t (fun p q _ => floatOp (modeFor e th) (th.modeNow.getLsbD 2) (fmtOf t) i p q)
    (sourceIn s b m (immOf e) x t.width) (sourceIn s b m (immOf e) y t.width) 0
  some ⟨nw, d, t.width = 64, r.1, r.2⟩

/-- The result of every float word, conversion and packing word in one thread (R319 to R326). -/
def floatLane (s : State) (b : Bundle) (m : Member) (i : Instr) : Option LaneValue :=
  let th := s.thread b.team m.1 m.2
  let ftz := th.modeNow.getLsbD 2
  match i with
  | .fadd nw d x y e | .fsub nw d x y e | .fmul nw d x y e | .fmin nw d x y e | .fmax nw d x y e => floatLane12 s b m i nw d x y e
  | .fabs nw d x e | .fneg nw d x e | .frnd nw d x e | .frcp nw d x e | .frsq nw d x e | .fsqrt nw d x e | .flog2 nw d x e
  | .fsin nw d x e | .fcos nw d x e => floatLane12 s b m i nw d x x e
  | .ffma nw d x y e =>
    let r := onElements e.ty (fun p q k => (fmtOf e.ty).ffma (modeFor (some e) th) ftz p q k)
      (sourceIn s b m (some e.imm) x e.ty.width) (sourceIn s b m (some e.imm) y e.ty.width)
      (sourceIn s b m (some e.imm) e.sc e.ty.width)
    some ⟨nw, d, e.ty.width = 64, r.1, r.2⟩
  | .fclass nw d x e =>
    some ⟨nw, d, false, (fmtOf (tyOf .f32 e)).fclass (sourceIn s b m (immOf e) x (tyOf .f32 e).width), 0⟩
  | .fcmp nw d x y e =>
    let r := (fmtOf e.ty).fcmp ftz e.rnd.toNat (sourceIn s b m (some e.imm) x e.ty.width) (sourceIn s b m (some e.imm) y e.ty.width)
    some ⟨nw, d, false, if r.1 then 1 else 0, r.2⟩
  | .fscale nw d x y e =>
    let t := tyOf .f32 e
    let r := (fmtOf t).fscale (modeFor e th) ftz (sourceIn s b m (immOf e) x t.width) (intVal .s32 (sourceIn s b m (immOf e) y 32))
    some ⟨nw, d, t.width = 64, r.1, r.2⟩
  | .fexp2s nw d x y e =>
    let r := fmtF32.fexp2s (modeFor (some e) th) ftz (sourceIn s b m (some e.imm) x 32) (sourceIn s b m (some e.imm) y 32)
      (sourceIn s b m (some e.imm) e.sc 32)
    some ⟨nw, d, false, r.1, r.2⟩
  | .cvt nw d x st e =>
    let r := convert st e.ty (modeFor (some e) th) ftz (sourceIn s b m (some e.imm) x st.width)
    some ⟨nw, d, e.ty.width = 64, if e.ty.width < 32 then (if e.ty.isSigned then written e.ty r.1 else r.1) else r.1, r.2⟩
  | .vpack nw d x y e =>
    let r := vpackVal e.ty (modeFor (some e) th) (sourceIn s b m (some e.imm) x 32) (sourceIn s b m (some e.imm) y 32)
      (sourceIn s b m (some e.imm) e.sc 32)
    some ⟨nw, d, false, r.1, r.2⟩
  | .vunpk nw d x y e =>
    let r := vunpkVal e.ty (sourceIn s b m (some e.imm) x 32) (sourceIn s b m (some e.imm) y 32)
    some ⟨nw, d, false, r.1, r.2⟩
  | _ => none

/-- Each thread of the bundle has its per-lane result (R312), or stands at the fall-through address with it if the clause has ended. -/
def LaneResults (s t : State) (b : Bundle) (i : Instr) (r : Member → LaneValue) : Prop :=
  ∀ m ∈ b.members, ∃ y, LaneResult (s.thread b.team m.1 m.2) y b.ipos (r m).nw (r m).d.toNat
      (BitVec.ofNat 32 (r m).value) (if (r m).wide then some (BitVec.ofNat 32 ((r m).value / 2 ^ 32)) else none) (r m).flags ∧
    t.thread b.team m.1 m.2 = y.afterWord b i.len (clockOf s)

end Sys2Proof.Claims

/-- R249, R312 to R318: every integer word gives each executing thread the result of its operands in vd (unless NW), in vd + 1 for a
64-bit result, in the latch of its position, and the flags it raises; it changes nothing else. -/
def Obligations.IntegerWordComputesPerLane : Prop :=
  ∀ (s : State) (b : Bundle) (i : Instr) (r : Member → LaneValue), Issues s b i →
    (∀ m ∈ b.members, integerLane s b m i = some (r m)) →
    ∃ t, exec i s = .next t ∧ WordFrame s t b i.len ∧ SameUniform s t b.team ∧ LaneResults s t b i r

/-- R243, R312, R319 to R326: every float word, conversion and packing word gives each executing thread its operation's result and
flags in the thread's own mode, a packed word element by element, and changes nothing else. -/
def Sys2Proof.Claims.FloatWordComputesPerLane : Prop :=
  ∀ (s : State) (b : Bundle) (i : Instr) (r : Member → LaneValue), Issues s b i →
    (∀ m ∈ b.members, floatLane s b m i = some (r m)) →
    ∃ t, exec i s = .next t ∧ WordFrame s t b i.len ∧ SameUniform s t b.team ∧ LaneResults s t b i r

/-- R246, R319: without FTZ, sums, differences, products and a × b + c of finite numbers are formed exactly and rounded once into the
format in the selected mode; NX is set exactly where the result is not the exact value. -/
def Sys2Proof.Claims.SumsAndProductsRoundOnce : Prop :=
  ∀ (f : Fmt) (rm : Round) (p q k : Nat) (x y z : ℚ), IsFormat f →
    floatVal f p = some x → floatVal f q = some y → floatVal f k = some z →
    (x + y ≠ 0 → IsRounding f rm (x + y) (f.fadd rm false p q).1) ∧
    (x - y ≠ 0 → IsRounding f rm (x - y) (f.fsub rm false p q).1) ∧
    (x * y ≠ 0 → IsRounding f rm (x * y) (f.fmul rm false p q).1) ∧
    (x * y + z ≠ 0 → IsRounding f rm (x * y + z) (f.ffma rm false p q k).1) ∧
    ((f.fadd rm false p q).2.getLsbD 4 = decide (floatVal f (f.fadd rm false p q).1 ≠ some (x + y))) ∧
    ((f.fsub rm false p q).2.getLsbD 4 = decide (floatVal f (f.fsub rm false p q).1 ≠ some (x - y))) ∧
    ((f.fmul rm false p q).2.getLsbD 4 = decide (floatVal f (f.fmul rm false p q).1 ≠ some (x * y))) ∧
    ((f.ffma rm false p q k).2.getLsbD 4 = decide (floatVal f (f.ffma rm false p q k).1 ≠ some (x * y + z)))

/-- R247: a NaN operand gives the first NaN in the operand order, quieted, and NV exactly if an operand is a signalling NaN. -/
def Sys2Proof.Claims.FirstNanPropagates : Prop :=
  ∀ (f : Fmt) (rm : Round) (ftz : Bool) (p q : Nat), IsFormat f →
    let isNan := fun x : Nat => x / 2 ^ f.fbits % 2 ^ f.ebits = 2 ^ f.ebits - 1 ∧ x % 2 ^ f.fbits ≠ 0
    let quiet := fun x : Nat => x ||| 2 ^ (f.fbits - 1)
    let signalling := fun x : Nat => isNan x ∧ x.testBit (f.fbits - 1) = false
    (isNan p ∨ isNan q) →
    ∀ r ∈ [f.fadd rm ftz p q, f.fsub rm ftz p q, f.fmul rm ftz p q],
      (isNan p → r.1 = quiet p) ∧ (¬isNan p → r.1 = quiet q) ∧ (r.2 = 1 ∨ r.2 = 0) ∧ (r.2 = 1 ↔ signalling p ∨ signalling q)

namespace Sys2Proof.Claims

/-! ### Float functions, conversions and packing (R247, R248, R250 to R252, R320 to R326) -/

/-- NaN patterns, those that signal, a NaN quieted, and the canonical NaN (R245, R247). -/
def isNaN (f : Fmt) (x : Nat) : Prop := x / 2 ^ f.fbits % 2 ^ f.ebits = 2 ^ f.ebits - 1 ∧ x % 2 ^ f.fbits ≠ 0
def signals (f : Fmt) (x : Nat) : Prop := isNaN f x ∧ x.testBit (f.fbits - 1) = false
def quieted (f : Fmt) (x : Nat) : Nat := x ||| 2 ^ (f.fbits - 1)
def canonical (f : Fmt) : Nat := (2 ^ f.ebits - 1) * 2 ^ f.fbits + 2 ^ (f.fbits - 1)

/-- The sign bit, and zero of a sign. -/
def negative (f : Fmt) (x : Nat) : Bool := x.testBit (f.fbits + f.ebits)
def zeroOf (f : Fmt) (neg : Bool) : Nat := if neg then 2 ^ (f.fbits + f.ebits) else 0

/-- n is the number x rounded to an integer in a mode (R246, R250, R320). -/
def IntegerFor (rm : Round) (x : ℚ) (n : Int) : Prop :=
  match rm with
  | .rne => |x - n| ≤ 1 / 2 ∧ (|x - n| = 1 / 2 → n % 2 = 0)
  | .rtz => |(n : ℚ)| ≤ |x| ∧ |x| < |(n : ℚ)| + 1 ∧ 0 ≤ n * x
  | .rup => x ≤ n ∧ n < x + 1
  | .rdn => n ≤ x ∧ x < n + 1

/-- r is the square root of the number x > 0 rounded to a format, as its square compares: of two values the nearer to the root lies on its
side of their midpoint (R246, R320). -/
def IsRoot (f : Fmt) (rm : Round) (x : ℚ) (r : Nat) : Prop :=
  negative f r = false ∧ ∃ v, floatVal f r = some v ∧
    match rm with
    | .rne => ∀ y w, floatVal f y = some w → 0 ≤ w →
        (v < w → x ≤ ((v + w) / 2) ^ 2 ∧ (x = ((v + w) / 2) ^ 2 → r % 2 = 0)) ∧
        (w < v → ((v + w) / 2) ^ 2 ≤ x ∧ (x = ((v + w) / 2) ^ 2 → r % 2 = 0))
    | .rup => x ≤ v ^ 2 ∧ ∀ y w, floatVal f y = some w → 0 ≤ w → x ≤ w ^ 2 → v ≤ w
    | _ => v ^ 2 ≤ x ∧ ∀ y w, floatVal f y = some w → 0 ≤ w → w ^ 2 ≤ x → w ≤ v

/-- The relation of an FCMP condition between two numbers (R282, R321). -/
def floatHolds (cond : Nat) (x y : ℚ) : Prop :=
  match cond with
  | 0 => x = y
  | 1 => x ≠ y
  | 2 => x < y
  | 3 => x ≤ y
  | 4 => x > y
  | 5 => x ≥ y
  | 6 => False
  | _ => True

/-- The bit that FCLASS sets (R320). -/
noncomputable def classBit (f : Fmt) (x : Nat) : Nat :=
  open scoped Classical in
  let ex := x / 2 ^ f.fbits % 2 ^ f.ebits
  if signals f x then 0
  else if isNaN f x then 1
  else
    let k := if ex = 2 ^ f.ebits - 1 then 0 else if ex ≠ 0 then 1 else if x % 2 ^ f.fbits ≠ 0 then 2 else 3
    if negative f x then 2 + k else 9 - k

/-- The number a T8 or T6 code stands for, by DecodeT of R251; none for the NaN code. nb is 7 or 5. -/
def taperedVal (nb code : Nat) : Option ℚ :=
  let m := code % 2 ^ nb
  let lead := m.testBit (nb - 1)
  let run := ((List.range nb).takeWhile (fun j => m.testBit (nb - 1 - j) == lead)).length
  let left := nb - run - 1
  let k : Int := if lead then run - 1 else -run
  let e : Int := if left ≠ 0 ∧ m.testBit (left - 1) then 1 else 0
  if m = 0 then (if code.testBit nb then none else some (0 : Int))
  else some ((if code.testBit nb then -1 else 1) * (2 : ℚ) ^ (2 * k + e) * (1 + (m % 2 ^ (left - 1) : Nat) / (2 : ℚ) ^ (left - 1)))

/-- A number x converted to a tapered code, and the flags (R252). -/
def IsTapered (nb : Nat) (x : ℚ) (r : Nat × Flags) : Prop :=
  ∃ lo hi, taperedVal nb 1 = some lo ∧ taperedVal nb (2 ^ nb - 1) = some hi ∧
    let sign := if x < 0 then 2 ^ nb else 0
    if x = 0 then r = (0, 0)
    else if hi < |x| then r = (sign + (2 ^ nb - 1), 0x90)
    else if |x| < lo / 2 then r = (0, 0x18)
    else if |x| < lo then r = (sign + 1, 0x18)
    else ∃ w, taperedVal nb r.1 = some w ∧ r.2 = (if w = x then 0 else 0x10) ∧
      ∀ c u, c < 2 ^ (nb + 1) → taperedVal nb c = some u → |x - w| ≤ |x - u| ∧ (|x - w| = |x - u| → u = w ∨ r.1 % 2 = 0)

/-- A number converted to an integer type: rounded, and clamped with SAT and NV outside the type's range (R250). -/
def IsIntegerOf (t : ElemTy) (rm : Round) (x : ℚ) (r : Nat × Flags) : Prop :=
  ∃ n, IntegerFor rm x n ∧
    r = (if lowest' t ≤ n ∧ n ≤ highest t then (pattern t.width n, if x = n then 0 else 0x10)
      else (pattern t.width (max (lowest' t) (min (highest t) n)), 0x41))

/-- The scalar float types, the integer types, and the magnitude bits of the tapered ones (R241). -/
def floats : List ElemTy := [.f32, .f64, .f16, .bf16]
def integers : List ElemTy := [.z32, .s32, .z16, .s16, .z8, .s8, .z64, .s64]
def taper (t : ElemTy) : Option Nat := if t = .t8 then some 7 else if t = .t6 then some 5 else none

/-- A word with its byte k replaced. -/
def WithByte (c k v r : Nat) : Prop := r < 2 ^ 32 ∧ ∀ j, j < 4 → r / 2 ^ (8 * j) % 2 ^ 8 = if j = k then v else c / 2 ^ (8 * j) % 2 ^ 8

end Sys2Proof.Claims

open scoped Classical in
/-- R247, R248, R320 to R323: without FTZ, FRCP and FSCALE round once, FSQRT and FRSQ give the rounded root, FRND the integer in its mode;
FMIN, FMAX and FCMP compare values, with −0 below +0 for the first two; FLOG2 of a power of two and FEXP2S of an integer exponent are
exact. The tables' special cases and NaNs are as they stand there, and FCLASS sets one bit. (FLOG2, FSIN, FCOS and FEXP2S of other
numbers: log 13.) -/
def Sys2Proof.Claims.FloatFunctionsFollowTheirRules : Prop :=
  ∀ (f : Fmt) (rm : Round), IsFormat f →
  (∀ (p q : Nat) (x y : ℚ), p < 2 ^ f.width → q < 2 ^ f.width → floatVal f p = some x → floatVal f q = some y →
    (x ≠ 0 → IsRounding f rm (1 / x) (f.frcp rm false p).1 ∧ ∀ n : Int, IsRounding f rm (x * 2 ^ n) (f.fscale rm false p n).1) ∧
    (0 < x → IsRoot f rm x (f.fsqrt rm false p).1 ∧ IsRoot f rm (1 / x) (f.frsq rm false p).1) ∧
    (∃ n, IntegerFor rm x n ∧ floatVal f (f.frnd rm false p).1 = some (n : ℚ) ∧ negative f (f.frnd rm false p).1 = negative f p ∧
      (f.frnd rm false p).2 = 0) ∧
    (floatVal f (f.minMax false false p q).1 = some (min x y) ∧ floatVal f (f.minMax false true p q).1 = some (max x y) ∧
      (f.minMax false false p q).2 = 0 ∧ (f.minMax false true p q).2 = 0 ∧
      (x = 0 → y = 0 → negative f (f.minMax false false p q).1 = (negative f p || negative f q) ∧
        negative f (f.minMax false true p q).1 = (negative f p && negative f q))) ∧
    (∀ c, c < 8 → f.fcmp false c p q = (decide (floatHolds c x y), 0)) ∧
    (x = 0 → f.frcp rm false p = (infinity f (negative f p), 2) ∧ f.frsq rm false p = (infinity f (negative f p), 2) ∧
      f.fsqrt rm false p = (p, 0) ∧ f.flog2 rm false p = (infinity f true, 2) ∧ f.fsin rm false p = (p, 0) ∧
      (∃ r, f.fcos rm false p = (r, 0) ∧ floatVal f r = some 1) ∧ ∀ n, f.fscale rm false p n = (p, 0)) ∧
    (x < 0 → f.fsqrt rm false p = (canonical f, 1) ∧ f.frsq rm false p = (canonical f, 1) ∧ f.flog2 rm false p = (canonical f, 1)) ∧
    (∀ k : Int, x = 2 ^ k → ∃ r, f.flog2 rm false p = (r, 0) ∧ floatVal f r = some (k : ℚ))) ∧
  (∀ p, p < 2 ^ f.width → f.fclass p = 2 ^ classBit f p) ∧
  (∀ p q, p < 2 ^ f.width → q < 2 ^ f.width → isNaN f p →
    (∀ r ∈ [f.frcp rm false p, f.frsq rm false p, f.fsqrt rm false p, f.flog2 rm false p, f.fsin rm false p, f.fcos rm false p,
        f.frnd rm false p, f.fscale rm false p 0], r = (quieted f p, if signals f p then 1 else 0)) ∧
    (∀ big, f.minMax false big p q = (if isNaN f q then quieted f p else q, if signals f p ∨ signals f q then 1 else 0) ∧
      (isNaN f q ∨ f.minMax false big q p = (q, if signals f p then 1 else 0))) ∧
    ∀ c, c < 8 → ∀ r ∈ [f.fcmp false c p q, f.fcmp false c q p],
      r = (decide (c = 1 ∨ c = 6), if signals f p ∨ signals f q ∨ 2 ≤ c ∧ c ≤ 5 then 1 else 0)) ∧
  (∀ neg, f.frcp rm false (infinity f neg) = (zeroOf f neg, 0) ∧ f.frnd rm false (infinity f neg) = (infinity f neg, 0) ∧
    (∀ n, f.fscale rm false (infinity f neg) n = (infinity f neg, 0)) ∧ f.fsin rm false (infinity f neg) = (canonical f, 1) ∧
    f.fcos rm false (infinity f neg) = (canonical f, 1) ∧
    f.fsqrt rm false (infinity f neg) = (if neg then (canonical f, 1) else (infinity f false, 0)) ∧
    f.frsq rm false (infinity f neg) = (if neg then (canonical f, 1) else (0, 0)) ∧
    f.flog2 rm false (infinity f neg) = (if neg then (canonical f, 1) else (infinity f false, 0))) ∧
  (∀ (a b c : Nat) (x y z : ℚ), floatVal fmtF32 a = some x → floatVal fmtF32 b = some y → floatVal fmtF32 c = some z →
    (∀ k : Int, -149 ≤ k → k ≤ 127 → y * (x - z) = k →
      ∃ r, fmtF32.fexp2s rm false a b c = (r, 0) ∧ floatVal fmtF32 r = some ((2 : ℚ) ^ k)) ∧
    ∀ neg, fmtF32.fexp2s rm false (infinity fmtF32 neg) b c =
      (if y = 0 then (canonical fmtF32, 1) else if (y < 0 ↔ neg = true) then (infinity fmtF32 false, 0) else (0, 0)))

open scoped Classical in
/-- R247, R250 to R252, R324 to R326: CVT between integers clamps, from a number to an integer rounds and clamps, to a float rounds once (in
FTZ's absence), to a tapered code takes the nearest; out of a tapered code it is exact; NaNs are as R247, R250 and R252 say. VPACK and
VUNPK place and take the elements that CVT forms, or bytes and halves as they are. -/
def Sys2Proof.Claims.ConversionsFollowTheirRules : Prop :=
  ∀ (rm : Round),
  (∀ st ∈ integers, ∀ x, x < 2 ^ st.width → ∀ ftz,
    (∀ dt ∈ integers, let n := intVal st x
      convert st dt rm ftz x = (pattern dt.width (max (lowest' dt) (min (highest dt) n)), if n < lowest' dt ∨ highest dt < n then 0x40 else 0)) ∧
    (∀ dt ∈ floats, intVal st x ≠ 0 → IsRounding (fmtOf dt) rm (intVal st x) (convert st dt rm false x).1) ∧
    (∀ dt nb, taper dt = some nb → IsTapered nb (intVal st x) (convert st dt rm ftz x))) ∧
  (∀ st ∈ floats, ∀ x, x < 2 ^ st.width →
    (∀ v, floatVal (fmtOf st) x = some v → ∀ ftz,
      (∀ dt ∈ integers, IsIntegerOf dt rm v (convert st dt rm ftz x)) ∧
      (∀ dt nb, taper dt = some nb → IsTapered nb v (convert st dt rm ftz x)) ∧
      (∀ dt ∈ floats, v ≠ 0 → IsRounding (fmtOf dt) rm v (convert st dt rm false x).1)) ∧
    (isNaN (fmtOf st) x →
      (∀ dt ∈ integers, ∀ ftz, convert st dt rm ftz x = (0, 1)) ∧
      (∀ dt nb, taper dt = some nb → ∀ ftz, convert st dt rm ftz x = (2 ^ nb, if signals (fmtOf st) x then 1 else 0)) ∧
      (∀ dt ∈ floats, dt ≠ st → ∀ ftz, let r := convert st dt rm ftz x
        isNaN (fmtOf dt) r.1 ∧ r.1.testBit ((fmtOf dt).fbits - 1) = true ∧ negative (fmtOf dt) r.1 = negative (fmtOf st) x ∧
          r.2 = (if signals (fmtOf st) x then 1 else 0) ∧
          ∀ k, 0 < k → k < (fmtOf dt).fbits → r.1.testBit ((fmtOf dt).fbits - 1 - k) =
            (decide (k < (fmtOf st).fbits) && x.testBit ((fmtOf st).fbits - 1 - k)))) ∧
    (∀ neg, x = infinity (fmtOf st) neg →
      (∀ dt ∈ integers, ∀ ftz, convert st dt rm ftz x = (pattern dt.width (if neg then lowest' dt else highest dt), 0x41)) ∧
      (∀ dt nb, taper dt = some nb → ∀ ftz, convert st dt rm ftz x = ((if neg then 2 ^ nb else 0) + (2 ^ nb - 1), 0x80)) ∧
      ∀ dt ∈ floats, ∀ ftz, convert st dt rm ftz x = (infinity (fmtOf dt) neg, 0))) ∧
  (∀ st nb, taper st = some nb → ∀ x, x < 2 ^ (nb + 1) → ∀ ftz,
    (∀ v, taperedVal nb x = some v →
      (∀ dt ∈ integers, IsIntegerOf dt rm v (convert st dt rm ftz x)) ∧
      (∀ dt kb, dt ≠ st → taper dt = some kb → IsTapered kb v (convert st dt rm ftz x)) ∧
      ∀ dt ∈ floats, ∃ r, convert st dt rm ftz x = (r, 0) ∧ floatVal (fmtOf dt) r = some v) ∧
    (taperedVal nb x = none → (∀ dt ∈ floats, convert st dt rm ftz x = (canonical (fmtOf dt), 0)) ∧
      (∀ dt ∈ integers, convert st dt rm ftz x = (0, 1)) ∧ ∀ dt kb, dt ≠ st → taper dt = some kb → convert st dt rm ftz x = (2 ^ kb, 0))) ∧
  ∀ a b c, a < 2 ^ 32 → b < 2 ^ 32 → c < 2 ^ 32 →
    (∀ p ∈ [(ElemTy.f16x2, ElemTy.f16), (.bf16x2, .bf16)],
      vpackVal p.1 rm a b c = ((convert .f32 p.2 rm false a).1 + 2 ^ 16 * (convert .f32 p.2 rm false b).1,
        (convert .f32 p.2 rm false a).2 ||| (convert .f32 p.2 rm false b).2) ∧
      vunpkVal p.1 a b = convert p.2 .f32 .rne false (a / 2 ^ (16 * (b % 2)) % 2 ^ 16)) ∧
    vpackVal .z16 rm a b c = (a % 2 ^ 16 + 2 ^ 16 * (b % 2 ^ 16), 0) ∧
    (∃ r, vpackVal .z8 rm a b c = (r, 0) ∧ WithByte c (b % 4) (a % 2 ^ 8) r) ∧
    (∀ t ∈ [ElemTy.t8, .t6], (∃ r, vpackVal t rm a b c = (r, (convert .f32 t rm false a).2) ∧
        WithByte c (b % 4) (convert .f32 t rm false a).1 r) ∧
      vunpkVal t a b = convert t .f32 .rne false (a / 2 ^ (8 * (b % 4)) % 2 ^ 8)) ∧
    (∀ t ∈ [ElemTy.z8, .s8], vunpkVal t a b = (pattern 32 (intVal t (a / 2 ^ (8 * (b % 4)) % 2 ^ 8)), 0)) ∧
    ∀ t ∈ [ElemTy.z16, .s16], vunpkVal t a b = (pattern 32 (intVal t (a / 2 ^ (16 * (b % 2)) % 2 ^ 16)), 0)

namespace Sys2Proof.Claims

/-! ### Class V: cross-lane words (R327 to R334) -/

/-- The threads of a bundle stand in increasing logical index, group before lane (R170). -/
def Bundle.InOrder (b : Bundle) : Prop := b.members.Pairwise (fun m n => m.1 < n.1 ∨ m.1 = n.1 ∧ m.2 < n.2)

/-- The lanes of a group that take part, in increasing order. -/
def partLanes (s : State) (b : Bundle) (g : Nat) : List Nat :=
  (List.range (s.lpbOf b.team).w).filter (fun l => decide ((g, l) ∈ b.members))

/-- What the thread in lane l receives by a shuffle from source lane src: a as read there, or its own (R328). -/
def fromLane (s : State) (b : Bundle) (g l : Nat) (src : Option Nat) (read : Nat → Nat) : Nat :=
  match src with
  | some k => if (g, k) ∈ b.members ∧ k < (s.lpbOf b.team).w then read k else read l
  | none => read l

/-- The integer operators of VRED and VSCAN on patterns of a type (R277, R330). -/
def combineInt (t : ElemTy) (op x y : Nat) : Nat :=
  match op with
  | 0 => pattern t.width (intVal t x + intVal t y)
  | 1 => if intVal t y < intVal t x then y else x
  | 2 => if intVal t x < intVal t y then y else x
  | 3 => fromBits t.width fun k => x.testBit k && y.testBit k
  | 4 => fromBits t.width fun k => x.testBit k || y.testBit k
  | _ => fromBits t.width fun k => x.testBit k != y.testBit k

/-- A float reduction as it stands after a lane: result, flags raised so far, whether a NaN has been read (R330). -/
structure FloatRun where
  value : Nat
  flags : Flags
  nan : Bool

/-- One more lane's value x, as read under that lane's FTZ. -/
def FloatRun.next (f : Fmt) (op : Nat → Nat → Nat × Flags) (r : FloatRun) (x : Nat) : FloatRun :=
  let nv : Flags := if f.isSnan x then 1 else 0
  if r.nan then { r with flags := r.flags ||| nv }
  else if f.isNan x then ⟨f.quiet x, r.flags ||| nv, true⟩
  else ⟨(op r.value x).1, r.flags ||| (op r.value x).2, false⟩

/-- The first lane's value. -/
def FloatRun.first (f : Fmt) (x : Nat) : FloatRun :=
  if f.isNan x then ⟨f.quiet x, if f.isSnan x then 1 else 0, true⟩ else ⟨x, 0, false⟩

/-- The result of VRED or VSCAN over a list of lanes of a group (R330): value and flags. -/
def reduceLanes (s : State) (b : Bundle) (g : Nat) (op : BitVec 8) (e : Option VExt) (x : BitVec 8) (ls : List Nat) : Nat × Flags :=
  let t := tyOf .z32 e
  let f := fmtOf t
  let th := fun l => s.thread b.team g l
  let val := fun l => sourceIn s b (g, l) (immOf e) x t.width
  match ls with
  | [] => (0, 0)
  | l0 :: rest =>
    if op.toNat < 6 then (rest.foldl (fun r l => combineInt t op.toNat r (val l)) (val l0), 0)
    else
      let flushed := fun l => f.flushed ((th l).modeNow.getLsbD 2) (val l)
      let step : Nat → Nat → Nat × Flags :=
        if op = 6 then f.fadd (modeFor e (th l0)) ((th l0).modeNow.getLsbD 2) else f.minMax false (op == 8)
      let r := rest.foldl (fun r l => r.next f step (flushed l)) (FloatRun.first f (flushed l0))
      (r.value, r.flags)

/-- A key that orders the binary32 numbers, −0 with +0; ftz: a subnormal is read as zero (R246). -/
def f32Key (ftz : Bool) (v : Nat) : Int :=
  if ftz = true ∧ v % 2 ^ 31 < 2 ^ 23 then 0 else if 2 ^ 31 ≤ v then -((v : Int) - 2 ^ 31) else v

def f32Nan (v : Nat) : Prop := 0x7F800000 < v % 2 ^ 31

/-- Candidate (lane, value, index) x ranks before y (R334), each value read in its own lane's mode. -/
def ranksFirst (ftz : Nat → Bool) (x y : Nat × Nat × Nat) : Prop :=
  let key := fun (c : Nat × Nat × Nat) => f32Key (ftz c.1) c.2.1
  (¬f32Nan x.2.1 ∧ f32Nan y.2.1) ∨ (¬f32Nan x.2.1 ∧ ¬f32Nan y.2.1 ∧ key y < key x) ∨
    ((f32Nan x.2.1 ↔ f32Nan y.2.1) ∧ (f32Nan x.2.1 ∨ key x = key y) ∧
      (x.2.2 < y.2.2 ∨ x.2.2 = y.2.2 ∧ x.1 < y.1))

open scoped Classical in
/-- The candidate of rank k. -/
noncomputable def ofRank (ftz : Nat → Bool) (cs : List (Nat × Nat × Nat)) (k : Nat) : Option (Nat × Nat × Nat) :=
  cs.find? (fun x => decide ((cs.filter (fun y => decide (ranksFirst ftz y x))).length = k))

/-- The row and offset of item w over row lengths of lanes (R333). -/
def rebalance (len : Nat → Nat) (w : Nat) : List Nat → Nat → Option (Nat × Nat)
  | [], _ => none
  | l :: r, p => if p ≤ w ∧ w < p + len l then some (l, w - p) else rebalance len w r (p + len l)

open scoped Classical in
/-- What each cross-lane word gives each thread of the bundle; none: it leaves the thread as it is (R328 to R331, R333, R334). -/
noncomputable def crossLane (s : State) (b : Bundle) : Instr → Option (Member → Option LaneValue)
  | .vshfl nw d x y e => some fun m => some ⟨nw, d, (tyOf .z32 e).width = 64, fromLane s b m.1 m.2
      (some (sourceIn s b m (immOf e) y 32 % (s.lpbOf b.team).w)) (fun l => sourceIn s b (m.1, l) (immOf e) x (tyOf .z32 e).width), 0⟩
  | .vshfx nw d x y e => some fun m => some ⟨nw, d, (tyOf .z32 e).width = 64, fromLane s b m.1 m.2
      (some (m.2 ^^^ sourceIn s b m (immOf e) y 32 % (s.lpbOf b.team).w))
      (fun l => sourceIn s b (m.1, l) (immOf e) x (tyOf .z32 e).width), 0⟩
  | .vshfup nw d x y e => some fun m => some ⟨nw, d, (tyOf .z32 e).width = 64, fromLane s b m.1 m.2
      (if sourceIn s b m (immOf e) y 32 ≤ m.2 then some (m.2 - sourceIn s b m (immOf e) y 32) else none)
      (fun l => sourceIn s b (m.1, l) (immOf e) x (tyOf .z32 e).width), 0⟩
  | .vshfdn nw d x y e => some fun m => some ⟨nw, d, (tyOf .z32 e).width = 64, fromLane s b m.1 m.2
      (if m.2 + sourceIn s b m (immOf e) y 32 < (s.lpbOf b.team).w then some (m.2 + sourceIn s b m (immOf e) y 32) else none)
      (fun l => sourceIn s b (m.1, l) (immOf e) x (tyOf .z32 e).width), 0⟩
  | .vbcst nw d x y e => some fun m =>
      let low := (partLanes s b m.1).headD 0
      some ⟨nw, d, (tyOf .z32 e).width = 64, fromLane s b m.1 low
        (some (sourceIn s b (m.1, low) (immOf e) y 32 % (s.lpbOf b.team).w))
        (fun l => sourceIn s b (m.1, l) (immOf e) x (tyOf .z32 e).width), 0⟩
  | .vred nw d x op e => some fun m =>
      let r := reduceLanes s b m.1 op e x (partLanes s b m.1)
      some ⟨nw, d, (tyOf .z32 e).width = 64, r.1, r.2⟩
  | .vscan nw d x op e => some fun m =>
      let r := reduceLanes s b m.1 op e x ((partLanes s b m.1).filter (fun l => decide (l ≤ m.2)))
      some ⟨nw, d, (tyOf .z32 e).width = 64, r.1, r.2⟩
  | .vballot nw d x => some fun m => some ⟨nw, d, true,
      ((partLanes s b m.1).map (fun l => if sourceIn s b (m.1, l) none x 32 ≠ 0 then 2 ^ l else 0)).sum, 0⟩
  | .vvote nw d x mode => some fun m =>
      let val := fun l => sourceIn s b (m.1, l) none x 32
      some ⟨nw, d, false, if (match mode.toNat with
        | 0 => ∀ l ∈ partLanes s b m.1, val l ≠ 0
        | 1 => ∃ l ∈ partLanes s b m.1, val l ≠ 0
        | _ => ∀ l ∈ partLanes s b m.1, ∀ k ∈ partLanes s b m.1, val l = val k) then 1 else 0, 0⟩
  | .rebal nw d x y e => some fun m =>
      some ⟨nw, d, true, match rebalance (fun l => sourceIn s b (m.1, l) (immOf e) x 32) (sourceIn s b m (immOf e) y 32)
          (partLanes s b m.1) 0 with
        | some (j, o) => j + o * 2 ^ 32
        | none => 2 ^ 64 - 1, 0⟩
  | .vtopk nw d x y e => some fun m =>
      let low := (partLanes s b m.1).headD 0
      let c := sourceIn s b (m.1, low) (some e.imm) e.sc 32
      let k := min (c % 256) (s.lpbOf b.team).w
      let n := min (c / 256 % 256) (s.lpbOf b.team).w
      let cs := ((partLanes s b m.1).filter (fun l => decide (l < n))).map (fun l =>
        (l, sourceIn s b (m.1, l) (some e.imm) x 32, sourceIn s b (m.1, l) (some e.imm) y 32))
      if m.2 < k then some ⟨nw, d, true, match ofRank (fun l => (s.thread b.team m.1 l).modeNow.getLsbD 2) cs m.2 with
        | some r => r.2.2 + r.2.1 * 2 ^ 32
        | none => 0xFFFFFFFF + 0x7FC00000 * 2 ^ 32, 0⟩
      else none
  | _ => none

/-- The code that VBCST and VTOPK read in the lowest taking-part thread only. -/
def lowestCode : Instr → Option Operand
  | .vbcst _ _ _ y _ => some ⟨y, 32⟩
  | .vtopk _ _ _ _ e => some ⟨e.sc, 32⟩
  | _ => none

end Sys2Proof.Claims

/-- R327 to R331, R333, R334: every cross-lane word reads all its sources before it writes, each group for itself, and gives each
thread that takes part its result; where VBCST or VTOPK reads an operand in the lowest thread, it can be read there, and VTOPK's
bundle holds every thread of its groups that has not exited. The model's readings: fmin and fmax reductions flush each lane's value (log 26),
and VTOPK leaves the latch of lanes at or above k (log 41). -/
def Sys2Proof.Claims.CrossLaneWordCombinesLanes : Prop :=
  ∀ (s : State) (b : Bundle) (i : Instr) (r : Member → Option LaneValue), Issues s b i → Claims.Bundle.InOrder b →
    (∀ m ∈ b.members, m.2 < (s.lpbOf b.team).w) → crossLane s b i = some r →
    (∀ o, lowestCode i = some o → ∀ m ∈ b.members, m.2 = (partLanes s b m.1).headD 0 → s.oneCause b.team o m = none) →
    ((∃ nw d x y e, i = .vtopk nw d x y e) → ∀ m ∈ b.members, ∀ l, l < (s.lpbOf b.team).w →
      (s.thread b.team m.1 l).status = .exited ∨ (m.1, l) ∈ b.members) →
    ∃ t, exec i s = .next t ∧ WordFrame s t b i.len ∧ SameUniform s t b.team ∧
      ∀ m ∈ b.members, match r m with
        | some v => ∃ y, LaneResult (s.thread b.team m.1 m.2) y b.ipos v.nw v.d.toNat (BitVec.ofNat 32 v.value)
            (if v.wide then some (BitVec.ofNat 32 (v.value / 2 ^ 32)) else none) v.flags ∧
            t.thread b.team m.1 m.2 = y.afterWord b i.len (clockOf s)
        | none => t.thread b.team m.1 m.2 = (s.thread b.team m.1 m.2).afterWord b i.len (clockOf s)

/-- R159, R332: RAND gives each executing thread Hash(key, L, n) of its key, its logical thread id and its draw count, and adds one to
that count even under NW; nothing else changes. -/
def Sys2Proof.Claims.RandDrawsTheHash : Prop :=
  ∀ (s : State) (b : Bundle) (nw : Bool) (d : BitVec 7) (key : BitVec 8) (e : Option VExt), Issues s b (.rand nw d key e) →
    let round := fun (q : Dword × Dword × Dword) =>
      let x := q.1 + q.2.1.rotateLeft 17 + q.2.2
      let x := (x ^^^ (x >>> 29)) * 0x9E3779B97F4A7C15#64
      (x, q.2.1 ^^^ x, q.2.2 + 0xD6E8FEB86659FD93#64)
    let hash := fun (m : Member) =>
      let q := round (round (round (round (BitVec.ofNat 64 ((s.team b.team).index * (s.lpbOf b.team).t +
        (m.1 * (s.lpbOf b.team).w + m.2)), (s.thread b.team m.1 m.2).draws, BitVec.ofNat 64 (sourceIn s b m (immOf e) key 32)))))
      q.1 ^^^ (q.1 >>> 32)
    ∃ t, exec (.rand nw d key e) s = .next t ∧ WordFrame s t b (Instr.rand nw d key e).len ∧ SameUniform s t b.team ∧
      ∀ m ∈ b.members, ∃ y v, LaneResult { s.thread b.team m.1 m.2 with draws := (s.thread b.team m.1 m.2).draws + 1 } y b.ipos
          nw d.toNat (BitVec.ofNat 32 v) (if (tyOf .z32 e).width = 64 then some (BitVec.ofNat 32 (v / 2 ^ 32)) else none) 0 ∧
        t.thread b.team m.1 m.2 = y.afterWord b (Instr.rand nw d key e).len (clockOf s) ∧
        (tyOf .z32 e = .z32 → v = (hash m).toNat % 2 ^ 32) ∧ (tyOf .z32 e = .z64 → v = (hash m).toNat) ∧
        (tyOf .z32 e = .f32 → floatVal fmtF32 v = some (((hash m).toNat / 2 ^ 40 : Nat) * (1 / 2 : ℚ) ^ 24) ∧ v < 2 ^ 31)

namespace Sys2Proof.Claims

/-! ### Class M and A: loads and stores (R13, R336 to R339, R458) -/

/-- What a load or store word asks of memory. -/
structure LaneAccess where
  d : BitVec 7
  p : BitVec 8
  ix : BitVec 8
  size : Nat
  off : Int
  sx : Bool := false
  /-- The line comes into the cluster's cache. -/
  fill : Bool := true
  fabric : Bool := false
  counted : Bool := false

/-- The fields of the M extension (R279): size 4 by default, 8 of a 64-bit word, and 1 or 2 by sz. -/
def extSize (wide : Bool) : Option MExt → Nat
  | none => if wide then 8 else 4
  | some e => if wide then 8 else if e.sz.toNat = 1 then 1 else if e.sz.toNat = 2 then 2 else 4

def extOff : Option MExt → Int
  | none => 0
  | some e => e.off.toInt

def extSigned : Option MExt → Bool
  | none => false
  | some e => e.sx

/-- Hint 1, streaming, leaves the cache alone (R279). -/
def extFills : Option MExt → Bool
  | none => true
  | some e => e.hint ≠ 1

def loadOf : Instr → Option LaneAccess
  | .ld32 d p i e => some ⟨d, p, i, extSize false e, extOff e, extSigned e, extFills e, false, false⟩
  | .ld64 d p i e => some ⟨d, p, i, extSize true e, extOff e, extSigned e, extFills e, false, false⟩
  | .ldf32 d p i e => some ⟨d, p, i, extSize false e, extOff e, extSigned e, extFills e, true, false⟩
  | .ldf64 d p i e => some ⟨d, p, i, extSize true e, extOff e, extSigned e, extFills e, true, false⟩
  | .gath d p i e => some ⟨d, p, i, extSize false e, extOff e, extSigned e, extFills e, false, true⟩
  | _ => none

def storeOf : Instr → Option LaneAccess
  | .st32 d p i e => some ⟨d, p, i, extSize false e, extOff e, false, true, false, false⟩
  | .st64 d p i e => some ⟨d, p, i, extSize true e, extOff e, false, true, false, false⟩
  | .stf32 d p i e => some ⟨d, p, i, extSize false e, extOff e, false, true, true, false⟩
  | .stf64 d p i e => some ⟨d, p, i, extSize true e, extOff e, false, true, true, false⟩
  | .scat d p i e => some ⟨d, p, i, extSize false e, extOff e, false, true, false, true⟩
  | _ => none

/-- The address of R13 in one thread: the pair of the lowest thread's group, the thread's own index, the offset. -/
def addressOf (s : State) (b : Bundle) (p ix : BitVec 8) (size : Nat) (off : Int) (m : Member) : Int :=
  (((s.group b.team b.group).sPair (2 * p.toNat)).toNat : Int) + (sourceIn s b m none ix 32 * size : Nat) + off

/-- The checks on the accesses of a word, thread by thread (R36, R66, R135, R221). -/
def checked (s : State) (b : Bundle) (i : Instr) (w : LaneAccess) (k : AccKind) (kind : Nat) : Plan :=
  (s.issued b).planAll (s.ctx b i) (addressOf s b w.p w.ix w.size w.off) w.size k w.fabric true true kind

/-- The groups of a bundle. -/
def groupsOf (b : Bundle) : List Nat := (b.members.map (·.1)).dedup

/-- A group in which a counted operation of the bundle has been issued: counter k one higher (R52). -/
def countedUp (b : Bundle) (k : Nat) (on : Bool) (g : Nat) (x : Group) : Group :=
  if on ∧ g ∈ groupsOf b then { x with counters := x.counters.upd 0 k (· + 1) } else x

/-- The counted operation of a gather or scatter. -/
def lanesOp (s : State) (b : Bundle) : Op :=
  { id := s.nextId, team := b.team, groups := groupsOf b, counter := 1, kind := .lanes, remote := false, mems := b.members }

/-- What one lane's load sends out: a read of memory, or the image bytes that thread already has (R458). u: the state in which the
image is read. -/
def loadFlight (s u : State) (b : Bundle) (w : LaneAccess) (n : Nat) (a : Acc) : Flight :=
  let op := if w.counted then some s.nextId else none
  match a.place with
  | .mem l => { id := n, kind := .load, team := b.team, group := a.m.1, lane := a.m.2, reg := w.d.toNat, size := w.size, sx := w.sx,
                va := a.va, loc := l, fill := w.fill, op := op, pc := b.pc, pos := b.pos, akind := 1, word := s.nextId }
  | .image o => { id := n, kind := .result, team := b.team, group := a.m.1, lane := a.m.2, op := op, performed := true,
                  writes := loadWrites w.d.toNat w.size w.sx (u.imageBytes b.team o w.size).1 (u.imageBytes b.team o w.size).2 }

/-- Flights in turn, numbered from n. -/
def numbered (f : Nat → Acc → Flight) : Nat → List Acc → List Flight
  | _, [] => []
  | n, a :: r => f n a :: numbered f (n + 1) r

/-- The threads whose access goes to another module or the host: they await its answer (R37, R396). -/
def awaiting (as : List Acc) : List Member := (as.filter (fun a => match a.place with
  | .mem l => l.remote
  | .image _ => false)).map (·.m)

/-- The bytes a store takes from its register: the pair of a 64-bit store, else the low bytes of the word (R336). -/
def storeData (x : Thread) (d size : Nat) : List Byte :=
  (List.range size).map (fun k => BitVec.ofNat 8 (((x.vGet d).toNat + (x.vGet (d + 1)).toNat * 2 ^ 32) / 2 ^ (8 * k)))

/-- What one lane's store sends out. -/
def storeFlight (s : State) (b : Bundle) (w : LaneAccess) (n : Nat) (a : Acc) : Flight :=
  { id := n, kind := .store, team := b.team, group := a.m.1, lane := a.m.2, reg := w.d.toNat, size := w.size, va := a.va,
    loc := a.place.loc, data := storeData (s.thread b.team a.m.1 a.m.2) w.d.toNat w.size,
    op := if w.counted then some s.nextId else none, pc := b.pc, pos := b.pos, akind := 2, word := s.nextId }

/-- A thread of a DET launch after a global write: its records, one to each 64-byte line, are folded into its digest (R147, R160). -/
def withRecords (s : State) (b : Bundle) (x : Thread) (kind va : Nat) (bs : List Byte) : Thread :=
  if (s.lpbOf b.team).det then (linePieces va bs).foldl (fun x p => x.addRecord kind p.1 p.2) x else x

end Sys2Proof.Claims

/-- R13, R36, R52, R336, R337, R339, R458: a load whose accesses all pass, none of them of an image word with a pending write-back, sends out
one read for each executing thread, at the address of R13 in that thread, to be written back to its own register; GATH raises c.gth of its
groups and is one counted operation. Memory, registers and latches stay as they are. Threads with a remote load go no further (log 35). -/
def Sys2Proof.Claims.LoadsSendOneReadPerThread : Prop :=
  ∀ (s : State) (b : Bundle) (i : Instr) (w : LaneAccess), Issues s b i → loadOf i = some w →
    (checked s b i w .read 1).traps = [] → (checked s b i w .read 1).walkPoison = false →
    (w.counted → ∀ g ∈ groupsOf b, (s.group b.team g).counters.get 0 1 < 63) →
    (∀ a ∈ (checked s b i w .read 1).accs, ∀ l, a.place = .mem l →
      (checked s b i w .read 1).s.detReadWaits b.team l w.size = false) →
    (∀ a ∈ (checked s b i w .read 1).accs, (checked s b i w .read 1).s.placePending b.team a.place w.size = false) →
    let r := checked s b i w .read 1
    let u := if w.counted then (r.s.startOp b.team (groupsOf b) 1 .lanes false b.members).2 else r.s
    let first := s.nextId + (if w.counted then 1 else 0)
    ∃ t, exec i s = .next t ∧ Advances s t b i.len (awaiting r.accs) ∧ SameMemory s t ∧
      r.accs.map (fun a => (a.m, a.va)) = b.members.map (fun m => (m, (addressOf s b w.p w.ix w.size w.off m).toNat)) ∧
      t = { s with teams := t.teams, cores := t.cores, partitions := t.partitions, tlb := r.s.tlb, free := r.s.free,
                   flights := s.flights ++ numbered (loadFlight s u b w) first r.accs, nextId := first + r.accs.length,
                   ops := if w.counted then s.ops ++ [lanesOp s b] else s.ops } ∧
      (∀ g, (t.group b.team g).bare = countedUp b 1 w.counted g (s.group b.team g).bare) ∧
      (∀ g l, (g, l) ∉ b.members → t.thread b.team g l = s.thread b.team g l) ∧
      ∀ m ∈ b.members, t.thread b.team m.1 m.2 =
        (s.thread b.team m.1 m.2).settled b i.len (awaiting r.accs) m (clockOf s)

/-- R13, R36, R52, R336, R337, R339: a store whose accesses all pass and go to memory sends out one write for each executing thread, of
its own register's low bytes at its own address; SCAT raises c.gth. No byte of memory and no register changes yet; in a DET launch a
global write enters its thread's digest. Threads with a remote store go no further until it is answered (logs 20, 35). -/
def Sys2Proof.Claims.StoresSendOneWritePerThread : Prop :=
  ∀ (s : State) (b : Bundle) (i : Instr) (w : LaneAccess), Issues s b i → storeOf i = some w →
    (checked s b i w .write 2).traps = [] → (checked s b i w .write 2).walkPoison = false →
    (w.counted → ∀ g ∈ groupsOf b, (s.group b.team g).counters.get 0 1 < 63) →
    (∀ a ∈ (checked s b i w .write 2).accs, ∃ l, a.place = .mem l ∧
      (l.isFabric ∨ s.stages b.team = false ∧ s.doneGuard b.team a.m.1 = false)) →
    (s.team b.team).stgUsed ≤ (s.lpbOf b.team).stgBytes →
    let r := checked s b i w .write 2
    let first := s.nextId + (if w.counted then 1 else 0)
    let host := r.accs.any (fun a => a.place.isHost)
    ∃ t, exec i s = .next t ∧ Leaves s t b i.len (awaiting r.accs) ∧ OnlyWords s t ∧ SameMemory s t ∧
      r.accs.map (fun a => (a.m, a.va)) = b.members.map (fun m => (m, (addressOf s b w.p w.ix w.size w.off m).toNat)) ∧
      t = { s with teams := t.teams, cores := t.cores, partitions := t.partitions, tlb := r.s.tlb, free := r.s.free,
                   flights := s.flights ++ numbered (storeFlight s b w) first r.accs, nextId := first + r.accs.length,
                   ops := if w.counted then s.ops ++ [lanesOp s b] else s.ops } ∧
      (t.team b.team).bare = { (s.team b.team).bare with exposed := (s.team b.team).exposed || host } ∧
      (∀ g, (t.group b.team g).bare = countedUp b 1 w.counted g (s.group b.team g).bare) ∧
      ∀ a ∈ r.accs, t.thread b.team a.m.1 a.m.2 =
        (if a.place.loc.isFabric then s.thread b.team a.m.1 a.m.2
          else withRecords s b (s.thread b.team a.m.1 a.m.2) 0 a.va (storeData (s.thread b.team a.m.1 a.m.2) w.d.toNat w.size)).settled
            b i.len (awaiting r.accs) a.m (clockOf s)

/-- R148, R149: in a DET launch whose team does not hold the ticket, a store's global writes enter the team's staging buffer, in thread
order and one entry to each 64-byte line; no byte of memory changes and nothing is sent out. -/
def Sys2Proof.Claims.DetStoresAreStaged : Prop :=
  ∀ (s : State) (b : Bundle) (i : Instr) (w : LaneAccess), Issues s b i → storeOf i = some w → w.counted = false →
    (checked s b i w .write 2).traps = [] → (checked s b i w .write 2).walkPoison = false → s.stages b.team = true →
    (∀ a ∈ (checked s b i w .write 2).accs, ∃ l, a.place = .mem l ∧ l.isFabric = false ∧ s.doneGuard b.team a.m.1 = false) →
    (∀ f ∈ s.flights, f.team ≠ b.team) →
    (s.team b.team).stgUsed + ((checked s b i w .write 2).accs.map (fun _ => 16 + (w.size + 7) / 8 * 8)).sum ≤
      (s.lpbOf b.team).stgBytes →
    let r := checked s b i w .write 2
    ∃ t, exec i s = .next t ∧ Leaves s t b i.len [] ∧ SameMemory s t ∧ t.flights = s.flights ∧ t.ops = s.ops ∧
      (t.team b.team).staging = (s.team b.team).staging ++ (r.accs.map (fun a =>
        (linePieces a.va (storeData (s.thread b.team a.m.1 a.m.2) w.d.toNat w.size)).map (fun p =>
          (⟨p.1, false, 0, 0, p.2, [], false, 0⟩ : Stage)))).flatten ∧
      ∀ a ∈ r.accs, t.thread b.team a.m.1 a.m.2 =
        (withRecords s b (s.thread b.team a.m.1 a.m.2) 0 a.va (storeData (s.thread b.team a.m.1 a.m.2) w.d.toNat w.size)).settled
          b i.len [] a.m (clockOf s)

/-- R66, R458: a store of 4 bytes by a thread in trap state to a vector register's word in its own team's image writes that register, at
once, also where the word has a write-back pending (log 69); the bundle goes on and memory stands. -/
def Sys2Proof.Claims.ImageStoreWritesTheRegister : Prop :=
  ∀ (s : State) (b : Bundle) (i : Instr) (w : LaneAccess) (m : Member) (va o g l n : Nat), Issues s b i → storeOf i = some w →
    w.counted = false → w.size = 4 → b.members = [m] →
    (checked s b i w .write 2).traps = [] → (checked s b i w .write 2).walkPoison = false →
    (checked s b i w .write 2).accs = [⟨m, va, .image o⟩] → o % 4 = 0 → (s.lpbOf b.team).place o = some (g, .vector l n) →
    (s.team b.team).stgUsed ≤ (s.lpbOf b.team).stgBytes →
    ∃ t, exec i s = .next t ∧ SameMemory s t ∧ t.flights = s.flights ∧
      (t.thread b.team g l).vGet n = (s.thread b.team m.1 m.2).vGet w.d.toNat ∧
      ∀ k, k ≠ n → (t.thread b.team g l).vGet k = (s.thread b.team g l).vGet k

/-- R338: LDU is one access of the lowest executing thread, at pair a plus register b scaled by the access size; its data goes to the
uniform register d, without a counter. Where it is remote, every executing thread waits for its answer (R396, log 35). -/
def Sys2Proof.Claims.UniformLoadIsOneAccess : Prop :=
  ∀ (s : State) (b : Bundle) (d a : BitVec 9) (x : STail) (size : Nat) (sx : Bool), Issues s b (.ldu d a x) →
    (size, sx) = (match x with
      | .short _ => (4, false)
      | .ext e => match e.atype.toNat with
        | 0 => (4, false) | 1 => (8, false) | 2 => (1, false) | 3 => (1, true) | 4 => (2, false) | _ => (2, true)) →
    let va := ((s.group b.team b.group).sPair a.toNat).toNat + ((s.group b.team b.group).sGet x.reg).toNat * size
    let r := (s.issued b).place (s.ctx b (.ldu d a x)) (lowest b) (va : Int) size .read false true true
    let held (l : Loc) : List Member := if l.remote then b.members else []
    ∀ l, r.1 = .ok (.mem l) → r.2.detReadWaits b.team l size = false →
    ∃ t, exec (.ldu d a x) s = .next t ∧ Advances s t b (Instr.ldu d a x).len (held l) ∧ SameMemory s t ∧ SameGroups s t b.team ∧
      t = { s with teams := t.teams, cores := t.cores, partitions := t.partitions, tlb := r.2.tlb, free := r.2.free,
                   nextId := s.nextId + 1, flights := s.flights ++ [{
          id := s.nextId, kind := .load, team := b.team, group := (lowest b).1, lane := (lowest b).2, uniform := true, reg := d.toNat,
          size := size, sx := sx, va := va, loc := l, fill := true, pc := b.pc, pos := b.pos, akind := 1, word := s.nextId,
          mems := b.members }] } ∧
      ∀ m ∈ b.members, t.thread b.team m.1 m.2 =
        (s.thread b.team m.1 m.2).settled b (Instr.ldu d a x).len (held l) m (clockOf s)

namespace Sys2Proof.Claims

/-! ### What has been issued is performed and written back (R58, R65, R169, R336, R346) -/

/-- The cell of memory a location names: the kind of storage and the byte in it. -/
def cell : Loc → Nat × Nat
  | .fabric c b => (0, c * 2 ^ 23 + b)
  | .hbm pa _ => (1, pa)
  | .host _ a => (2, a)
  | .peer m a => (3, m * 2 ^ 52 + a)

/-- Poison covers 8 bytes of fabric and 64 bytes of HBM (R58). -/
def unitOf (l : Loc) : Nat := if l.isFabric then 8 else 64

/-- A byte of HBM where the next n undo entries of a partition go whose tenant has checkpoints on (R411, R412). -/
def inLog (s : State) (n : Nat) (x : Loc) : Prop :=
  ∃ p, let q := s.partition p
    q.valid = true ∧ (s.tenant q.tenant).ckEn = true ∧ (cell x).1 = 1 ∧
      q.ulbase + 48 * 2 ^ 20 + 72 * q.undo.length ≤ (cell x).2 ∧ (cell x).2 < q.ulbase + 48 * 2 ^ 20 + 72 * (q.undo.length + n)

/-- The state t holds bs at the location l; every other byte outside the undo entries is as it was; a poison mark goes where its whole unit
is written. -/
structure Stored (s t : State) (l : Loc) (bs : List Byte) : Prop where
  bytes : ∀ k, k < bs.length → t.memByte (l.plus k) = bs.getD k 0
  others : ∀ x, ((cell x).1 ≠ (cell l).1 ∨ (cell x).2 < (cell l).2 ∨ (cell l).2 + bs.length ≤ (cell x).2) →
    ¬inLog s bs.length x → t.memByte x = s.memByte x
  poison : ∀ x, t.memPoison x = (s.memPoison x && !decide ((cell x).1 = (cell l).1 ∧ (cell l).2 ≤ (cell x).2 / unitOf x * unitOf x ∧
    (cell x).2 / unitOf x * unitOf x + unitOf x ≤ (cell l).2 + bs.length))

/-- The bytes at an HBM physical address become bs, and no other byte of memory outside new undo entries changes. -/
def HbmBytes (s t : State) (pa : Nat) (bs : List Byte) : Prop :=
  (∀ k nc, k < bs.length → t.memByte (.hbm (pa + k) nc) = bs.getD k 0) ∧
    ∀ l, ¬((cell l).1 = 1 ∧ pa ≤ (cell l).2 ∧ (cell l).2 < pa + bs.length) → ¬inLog s bs.length l → t.memByte l = s.memByte l

/-- What a load of a cluster may read at a location: memory, or the line the cluster holds of a cacheable page (R46). -/
def readable (s : State) (c : Nat) (l : Loc) (n : Nat) (v : List Byte × Bool) : Prop :=
  v = ((List.range n).map (fun k => s.memByte (l.plus k)), (List.range n).any (fun k => s.memPoison (l.plus k))) ∨
    ∃ pa x, l = .hbm pa false ∧ s.cached c (pa / 64) = some x ∧ v = ((x.bytes.drop (pa % 64)).take n, x.poisoned)

/-- The register words that data fills: two of 64 bits, else one, zero- or sign-extended (R336). -/
def filled (reg size : Nat) (sx : Bool) (bs : List Byte) (bad : Bool) : List RegWrite :=
  let n := leNat bs
  if size = 8 then [⟨reg, BitVec.ofNat 32 (n % 2 ^ 32), bad⟩, ⟨reg + 1, BitVec.ofNat 32 (n / 2 ^ 32), bad⟩]
  else if sx ∧ 2 ^ (8 * size - 1) ≤ n then [⟨reg, BitVec.ofInt 32 ((n : Int) - 2 ^ (8 * size)), bad⟩]
  else [⟨reg, BitVec.ofNat 32 n, bad⟩]

/-- Two loads of one word whose bytes lie in one 64-byte line of this module (R447). -/
def together (f g : Flight) : Prop :=
  f.kind = .load ∧ g.kind = .load ∧ f.team = g.team ∧ f.word = g.word ∧ f.loc.remote = false ∧ (cell f.loc).1 = (cell g.loc).1 ∧
    (cell f.loc).2 / 64 = (cell g.loc).2 / 64

/-- A staged entry covers the byte at l with its byte o, by the place its address has now (R148). -/
def covers (s : State) (t : Nat) (l : Loc) (e : Stage) (o : Nat) : Prop :=
  ∃ x, s.peek (s.team t).cluster (s.team t).tenant e.va = some x ∧ (cell x).1 = (cell l).1 ∧ (cell x).2 + o = (cell l).2 ∧ o < e.data.length

/-- The byte r that a team observes at l where memory or its cache gives d: that of its youngest staged plain write that covers l (R149). -/
def observed (s : State) (t : Nat) (l : Loc) (d r : Byte) : Prop :=
  (∀ before e after o, (s.team t).staging.filter (fun x => !x.red) = before ++ e :: after → covers s t l e o →
    (∀ x ∈ after, ∀ k, ¬covers s t l x k) → r = e.data.getD o 0) ∧
  ((∀ e ∈ (s.team t).staging, e.red = false → ∀ o, ¬covers s t l e o) → r = d)

/-- Nothing must be performed before a flight, and its module has a live port (R92, R437). -/
def mayGo (s : State) (f : Flight) : Prop :=
  (∀ g ∈ s.flights, g.before f = false) ∧ s.opBefore f = [] ∧ s.deadPort (modulesOf [f.loc]) = none

/-- The event that performs a flight: the memory of this module, or the answer of a remote side. -/
def performs (f : Flight) : Instr := if f.loc.remote then .remoteAck f.id true else .accessPerformed f.id

end Sys2Proof.Claims

/-- R58, R336, R346: performing a store that no older access must precede writes exactly its bytes and removes it; every other byte
outside new undo entries, thread, core and launch stands. -/
def Sys2Proof.Claims.PerformedStoreWritesItsBytes : Prop :=
  ∀ (s : State) (f : Flight), s.flight f.id = some f → f.performed = false → f.kind = .store →
    mayGo s f →
    ∃ t, exec (performs f) s = .next t ∧ Stored s t f.loc f.data ∧ t.flights = s.flights.filter (fun g => g.id != f.id) ∧
      t = { s with hbm := t.hbm, fab := t.fab, hostMem := t.hostMem, peerMem := t.peerMem, hbmPoison := t.hbmPoison,
                   fabPoison := t.fabPoison, partitions := t.partitions, lines := t.lines, codes := t.codes, flights := t.flights }

/-- R46, R58, R336: performing a load that no older access must precede reads its bytes and leaves memory alone; its register words are
then pending, sign- or zero-extended, poisoned where a byte was. In a DET launch without a seam a global byte is that of the team's
youngest staged plain write to it, if there is one (R149). -/
def Sys2Proof.Claims.PerformedLoadReadsItsBytes : Prop :=
  ∀ (s : State) (f : Flight), s.flight f.id = some f → f.performed = false → f.kind = .load → f.size ∈ [1, 2, 4, 8] →
    mayGo s f →
    ∃ t v, exec (performs f) s = .next t ∧ SameMemory s t ∧ readable s (clusterOf (s.group f.team f.group).core) f.loc f.size v ∧
      ((s.lpbOf f.team).det = false ∨ f.loc.isFabric = true → t.flights = s.flights.map (fun g => if g.id = f.id then
        { f with performed := true, writes := filled f.reg f.size f.sx v.1 v.2 } else g)) ∧
      ((s.lpbOf f.team).det = true → f.loc.isFabric = false → (s.lpbOf f.team).seam = false → ∃ bs bad, bs.length = v.1.length ∧
        (∀ k, k < v.1.length → observed t f.team (f.loc.plus k) (v.1.getD k 0) (bs.getD k 0)) ∧
        t.flights = s.flights.map (fun g => if g.id = f.id then
          { f with performed := true, writes := filled f.reg f.size f.sx bs bad } else g)) ∧
      (∀ g, g.id ≠ f.id → (g ∈ t.flights ↔ g ∈ s.flights)) ∧
      t = { s with partitions := t.partitions, lines := t.lines, flights := t.flights, free := t.free }

/-- R65, R81: a write-back puts its words into the thread's vector registers or the group's uniform registers, marks poison where the
data was poisoned, and removes the flight; a write to s0 is discarded. Memory, cores and every other register stand. The lanes of one load
word that read one 64-byte line arrive together (R447, log 39). -/
def Sys2Proof.Claims.WriteBackFillsTheRegisters : Prop :=
  (∀ (s : State) (f : Flight), s.flight f.id = some f → f.performed = true → (f.writes.map (·.reg)).Nodup →
    (∀ g ∈ s.flights, (g.id = f.id → g = f) ∧ (together f g → g = f)) →
    ∃ t, exec (.pendingWriteback f.id) s = .next t ∧ SameMemory s t ∧ t.flights = s.flights.filter (fun g => g.id != f.id) ∧
      t = { s with teams := t.teams, flights := t.flights } ∧
      (∀ k, k ≠ f.team → t.team k = s.team k) ∧ (t.team f.team).bare = (s.team f.team).bare ∧
      (∀ g l, (g, l) ≠ (f.group, f.lane) → t.thread f.team g l = s.thread f.team g l) ∧
      (∀ w ∈ f.writes, w.reg ∉ f.cancel →
        (f.uniform = false → (t.thread f.team f.group f.lane).vGet w.reg = (if w.poison then 0 else w.val) ∧
          NatSet.has (t.thread f.team f.group f.lane).vPoison w.reg = w.poison) ∧
        (f.uniform = true → (t.group f.team f.group).sGet w.reg = (if w.poison ∨ w.reg = 0 then 0 else w.val) ∧
          (t.group f.team f.group).sBad w.reg = (w.poison && w.reg != 0))) ∧
      (∀ n, (∀ w ∈ f.writes, w.reg = n → n ∈ f.cancel) →
        (t.thread f.team f.group f.lane).vGet n = (s.thread f.team f.group f.lane).vGet n ∧
        (t.group f.team f.group).sGet n = (s.group f.team f.group).sGet n) ∧
      (f.uniform = true → (t.thread f.team f.group f.lane).v = (s.thread f.team f.group f.lane).v) ∧
      (f.uniform = false → (t.group f.team f.group).s = (s.group f.team f.group).s)) ∧
  ∀ (s : State) (f : Flight), f ∈ s.flights → f.performed = true → f.kind = .load → f.loc.remote = false → (s.flights.map (·.id)).Nodup →
    (∀ g ∈ s.flights, together f g → g.performed = true ∧ g.uniform = false ∧ g.cancel = [] ∧ (g.writes.map (·.reg)).Nodup) →
    (∀ g ∈ s.flights, ∀ h ∈ s.flights, together f g → together f h → (g.group, g.lane) = (h.group, h.lane) → g = h) →
    ∃ t, exec (.pendingWriteback f.id) s = .next t ∧ SameMemory s t ∧ (∀ g, g ∈ t.flights ↔ g ∈ s.flights ∧ ¬together f g) ∧
      ∀ g ∈ s.flights, together f g → ∀ w ∈ g.writes, (t.thread g.team g.group g.lane).vGet w.reg = (if w.poison then 0 else w.val) ∧
        NatSet.has (t.thread g.team g.group g.lane).vPoison w.reg = w.poison

namespace Sys2Proof.Claims

/-! ### Traps (R284, R310, R311, R397 to R402) -/

/-- The conditions of R400 under which a trap stops the thread for the debugger. -/
def stopsForDebugger (ten : Tenant) (nv : Nat) (k : Cause) : Prop :=
  ten.trapEnt.getLsbD 0 = false ∨ nv < 2 ∨ ten.dbgAll = true ∨ (k = .breakpoint ∧ ten.dbgBrk = true)

/-- TCAUSE as R398 lays it out. -/
def tcauseWord (k : Cause) (rpos lval code : Nat) : Word :=
  BitVec.ofNat 32 (k.code + rpos * 2 ^ 8 + lval * 2 ^ 12 + code * 2 ^ 16)

/-- The saved latch valid bits. -/
def lvalOf (x : Thread) (rpos : Nat) : Nat :=
  if rpos = 0 then 0 else ((List.range 4).map (fun n => if NatSet.has x.y.valid n then 2 ^ n else 0)).sum

/-- A thread x that was not in trap state has taken a trap (R400), resumption point (pc, rpos): trap-state bytes and latches saved, then the
handler's clause with the fabric offset of its lane-state block (lane) and TCAUSE in v(NV−2) and v(NV−1), or STATE 5. Nothing else of
it changes but its place in the order of ages and at a rein. -/
structure TrapTaken (x y : Thread) (ten : Tenant) (nv lane : Nat) (k : Cause) (code : Nat) (tva pc : Dword) (rpos : Nat) : Prop where
  cause : y.trap.cause = k.code ∧ y.trap.rpos = rpos ∧ y.trap.lval = BitVec.ofNat 4 (lvalOf x rpos) ∧ y.trap.code = code ∧
    y.trap.nest = false ∧ (y.trap.dbg = true ↔ stopsForDebugger ten nv k)
  place : y.trap.tva = tva ∧ y.trap.trpc = pc ∧ (2 ≤ nv → y.trap.tsave0 = x.vGet (nv - 2)) ∧ y.trap.tsave1 = x.vGet (nv - 1)
  stopped : stopsForDebugger ten nv k → y.status = .stopped ∧ ∀ n, y.vGet n = x.vGet n
  handler : ¬stopsForDebugger ten nv k → y.status = .handler ∧ y.pc = BitVec.ofNat 64 (ten.trapEnt.toNat % 2 ^ 52 / 4 * 4) ∧
    y.pos = 0 ∧ y.vGet (nv - 2) = BitVec.ofNat 32 (lane / 4) ∧ y.vGet (nv - 1) = tcauseWord k rpos (lvalOf x rpos) code ∧
    NatSet.has y.vPoison (nv - 2) = false ∧ NatSet.has y.vPoison (nv - 1) = false ∧
    ∀ n, n ≠ nv - 2 → n ≠ nv - 1 → y.vGet n = x.vGet n ∧ NatSet.has y.vPoison n = NatSet.has x.vPoison n
  latches : y.y = {} ∧ y.ySaved = if rpos = 0 then {} else x.y
  kept : { y with pc := x.pc, pos := x.pos, status := x.status, v := x.v, vPoison := x.vPoison, trap := x.trap, y := x.y,
                  ySaved := x.ySaved, readyAt := x.readyAt, late := x.late, prio := x.prio, rein := x.rein, arrived := x.arrived } = x

/-- The fabric offset of a thread's lane-state block (R21, R61, R69, R71). -/
def laneBlock (s : State) (b : Bundle) (m : Member) : Nat :=
  let p := s.lpbOf b.team
  let x := s.team b.team
  s.clusterIndex x.tenant x.cluster * 2 ^ 23 + (x.base + p.groupOff m.1 + (256 + (4 * p.nu + 255) / 256 * 256) + 64 * m.2)

/-- No group of a team waits at a rendezvous, which a trap could break (R367). -/
def noRendezvous (s : State) (t : Nat) : Prop := ∀ g, (s.group t g).rendezvous = none

/-- The thread m of the bundle b took a trap at its word between s and t; one that stops stands at that word (R310). -/
def trappedAs (s t : State) (b : Bundle) (m : Member) (k : Cause) (code : Nat) (tva pc : Dword) (rpos : Nat) : Prop :=
  TrapTaken (s.thread b.team m.1 m.2) (t.thread b.team m.1 m.2) (s.tenant (s.team b.team).tenant) (s.lpbOf b.team).nv
    (laneBlock s b m) k code tva pc rpos ∧
  ((t.thread b.team m.1 m.2).status = .stopped → (t.thread b.team m.1 m.2).pc = b.pc ∧ (t.thread b.team m.1 m.2).pos = b.pos)

/-- What a bundle whose threads have all trapped leaves alone: memory, uniform registers, other threads and teams, other cores, and every
request to an Awl group but those that an atomic of the bundle had still waited for (R125). -/
structure AllLeft (s t : State) (b : Bundle) : Prop where
  memory : SameMemory s t
  uniform : SameUniform s t b.team
  core : ∀ k, t.core k = if k = s.cur then { s.core k with bundle := none } else s.core k
  others : ∀ k, k ≠ b.team → t.team k = s.team k
  threads : ∀ g l, (g, l) ∉ b.members → t.thread b.team g l = s.thread b.team g l
  machine : t = { s with teams := t.teams, cores := t.cores, partitions := t.partitions, notices := t.notices, awl := t.awl }
  awl : ∀ q, q ∈ t.awl ↔ q ∈ s.awl ∧ ¬(q.id ∈ b.awl ∧ q.op = 0)

/-- No thread of a bundle awaits an answer. -/
def Unheld (s : State) (b : Bundle) : Prop := ∀ m ∈ b.members, s.remoteWait b.team m = false ∧ s.wordWait b.team m = false

/-- The first of the checks of order 1 to 4 of R284 that a word fails, if any: clause rules, encoding and trap state, features,
operands. -/
def FailsFirst (s : State) (b : Bundle) (i : Instr) (k : Cause) : Prop :=
  let u := useOf (s.lpbOf b.team).w i
  let clause := hdrClass b.header u.cls = false ∨ (u.closing = true ∧ b.pos + i.len ≠ hdrCount b.header) ∨
    hdrCount b.header < b.pos + i.len ∨ (u.nr = true ∧ hdrNR b.header = false)
  let encoding := i.wf = false ∨ (s.anyTrapped b = true ∧ u.noTrapState = true)
  let feature := ∃ f ∈ u.features, (s.lpbOf b.team).features.getLsbD f = false ∧ (s.core s.cur).feat.getLsbD f = false
  let operand := u.operandBad (s.lpbOf b.team).nv (s.lpbOf b.team).nu (s.lpbOf b.team).nt = true
  (clause ∧ k = .illegalClause) ∨ (¬clause ∧ encoding ∧ k = .illegalInstruction) ∨
    (¬clause ∧ ¬encoding ∧ feature ∧ k = .featureAbsent) ∨ (¬clause ∧ ¬encoding ∧ ¬feature ∧ operand ∧ k = .illegalOperand)

end Sys2Proof.Claims

/-- R284, R396, R400: a word that fails a check of order 1 to 4 has no effect of its own: every executing thread traps with the first
failing check's cause at that word, and the bundle leaves the core; a thread that stops stands at the word (log 56). It holds of every word
of the opcode table. -/
def Sys2Proof.Claims.FailingCheckTrapsEveryThread : Prop :=
  ∀ (s : State) (b : Bundle) (i : Instr) (k : Cause), i.isWord = true → (∀ w, i ≠ .illegalInstruction w) →
    (s.core s.cur).bundle = some b → b.members ≠ [] → b.members.Nodup → Unheld s b →
    (∀ m ∈ b.members, (s.thread b.team m.1 m.2).inTrap = false) → noRendezvous s b.team → FailsFirst s b i k →
    ∃ t, exec i s = .next t ∧ AllLeft s t b ∧ t.partitions = s.partitions ∧
      ∀ m ∈ b.members, trappedAs s t b m k 0 0 b.pc b.pos

/-- R81, R175, R284, R37: threads that alone fail check 5 or 6 (a latch, a poisoned source) trap and leave the bundle; the word then acts as
if the bundle had held only the others. It holds of every word of the opcode table. -/
def Sys2Proof.Claims.OwnFailureLeavesTheBundle : Prop :=
  ∀ (s : State) (b : Bundle) (i : Instr), i.isWord = true → (∀ w, i ≠ .illegalInstruction w) →
    (s.core s.cur).bundle = some b → b.members.Nodup → Unheld s b →
    (∀ k, ¬FailsFirst s b i k) → s.waits b (useOf (s.lpbOf b.team).w i) = false → noRendezvous s b.team →
    let bad := b.members.filterMap (fun m => (s.ownCause b.team (useOf (s.lpbOf b.team).w i) m).map (fun k => (⟨m, k, 0, 0⟩ : TrapAt)))
    (b.without bad).members ≠ [] → s.waits (b.without bad) (useOf (s.lpbOf b.team).w i) = false →
    exec i s = exec i ((s.takeAll b bad).setBundle s.cur (some (b.without bad)))

/-- R267, R354, R396: a word that names a register with a pending write-back, or a tile whose F bit is set, or all of whose threads await a
remote answer, waits at issue: the bundle stays and nothing else changes. So does a bundle one of whose threads has a sweep under way or, in a
DET launch, a compare-and-swap to be decided (log 35). It holds of every word of the opcode table. -/
def Sys2Proof.Claims.WordWaitsAtIssue : Prop :=
  ∀ (s : State) (b : Bundle) (i : Instr), i.isWord = true → (∀ w, i ≠ .illegalInstruction w) →
    (s.core s.cur).bundle = some b →
    ((∀ m ∈ b.members, s.remoteWait b.team m = true) ∨ (∃ m ∈ b.members, s.wordWait b.team m = true) ∨
      ((∀ m ∈ b.members, s.remoteWait b.team m = false) ∧ (∀ k, ¬FailsFirst s b i k) ∧ s.waits b (useOf (s.lpbOf b.team).w i) = true)) →
    exec i s = .next { s with cores := s.cores.put {} s.cur { s.core s.cur with bundle := some { b with stalled := true } } }

/-- R37, R396: where some threads of a bundle await a remote answer and others do not, a word is that of the others alone; those that wait
stand at it, outside the bundle. It holds of every word of the opcode table. -/
def Sys2Proof.Claims.HeldThreadsStandAside : Prop :=
  ∀ (s : State) (b : Bundle) (i : Instr), i.isWord = true → (s.core s.cur).bundle = some b → b.members.Nodup →
    (∃ m ∈ b.members, s.remoteWait b.team m = false) → (∃ m ∈ b.members, s.remoteWait b.team m = true) →
    (∀ m ∈ b.members, s.wordWait b.team m = false) →
    ∃ u : State, (∀ g l, u.thread b.team g l = if (g, l) ∈ b.members ∧ s.remoteWait b.team (g, l) = true then
        { s.thread b.team g l with pc := b.pc, pos := b.pos } else s.thread b.team g l) ∧
      (∀ g, (u.group b.team g).bare = (s.group b.team g).bare) ∧ (∀ k, k ≠ b.team → u.team k = s.team k) ∧
      (u.team b.team).bare = (s.team b.team).bare ∧ u = { s with teams := u.teams } ∧
      exec i s = exec i (u.setBundle s.cur (some { b with members := b.members.filter (fun m => !s.remoteWait b.team m) }))

/-- R310, R400: TRAP n traps every executing thread, BREAK for 0 and SOFTWARE with n otherwise; the resumption point is the fall-through
header, and TVA names the clause; a thread that stops stands at the TRAP word (log 56). -/
def Sys2Proof.Claims.TrapWordTakesItsTrap : Prop :=
  ∀ (s : State) (b : Bundle) (n : BitVec 8), Issues s b (.trap n) →
    (∀ m ∈ b.members, (s.thread b.team m.1 m.2).inTrap = false) → noRendezvous s b.team →
    ∃ t, exec (.trap n) s = .next t ∧ AllLeft s t b ∧ OnlyWords s t ∧
      ∀ m ∈ b.members, trappedAs s t b m (if n = 0 then .breakpoint else .software) n.toNat b.pc (nextHeader b) 0

/-- R402: a thread in trap state that traps again keeps its trap state but for NEST and DBG, stops (STATE 5) at the word (log 56) and writes
no register; the event is posted. -/
def Sys2Proof.Claims.NestedTrapStops : Prop :=
  ∀ (s : State) (b : Bundle) (n : BitVec 8), Issues s b (.trap n) →
    (∀ m ∈ b.members, (s.thread b.team m.1 m.2).inTrap = true) → noRendezvous s b.team →
    ∃ t, exec (.trap n) s = .next t ∧ AllLeft s t b ∧ OnlyWords s t ∧ t.notices.length = s.notices.length + b.members.length ∧
      ∀ m ∈ b.members, t.thread b.team m.1 m.2 = { s.thread b.team m.1 m.2 with
        trap := { (s.thread b.team m.1 m.2).trap with nest := true, dbg := true }, y := {},
        pc := b.pc, pos := b.pos, status := .stopped }

/-- R311, R401: TRET in trap state, where every target passes R302, restores v(NV−2) and v(NV−1) from TSAVE0 and TSAVE1, the latches
marked in LVAL if RPOS > 0, and continues at TRPC and RPOS, where its MODE holds (R458). -/
def Sys2Proof.Claims.TretRestoresAndContinues : Prop :=
  ∀ (s : State) (b : Bundle), Issues s b .tret → (∀ m ∈ b.members, (s.thread b.team m.1 m.2).inTrap = true) →
    2 ≤ (s.lpbOf b.team).nv →
    TargetsPass (clusterOf s.cur) (s.team b.team).tenant (s.team b.team).launch (b.members.map (fun m => (s.thread b.team m.1 m.2).trap.trpc)) s [] →
    ∃ t, exec .tret s = .next t ∧ CloseFrame s t b ∧ ∀ m ∈ b.members,
      let x := s.thread b.team m.1 m.2
      let y := t.thread b.team m.1 m.2
      y.pc = x.trap.trpc ∧ y.pos = x.trap.rpos ∧ y.status = .ready ∧ y.modeWas = none ∧ y.trap = x.trap ∧ y.mode = x.mode ∧ y.flags = x.flags ∧
        y.draws = x.draws ∧ y.depth = x.depth ∧ y.frames = x.frames ∧
        y.vGet ((s.lpbOf b.team).nv - 2) = x.trap.tsave0 ∧ y.vGet ((s.lpbOf b.team).nv - 1) = x.trap.tsave1 ∧
        (∀ n, n ≠ (s.lpbOf b.team).nv - 2 → n ≠ (s.lpbOf b.team).nv - 1 →
          y.vGet n = x.vGet n ∧ NatSet.has y.vPoison n = NatSet.has x.vPoison n) ∧
        (x.trap.rpos = 0 → y.y = {}) ∧
        (0 < x.trap.rpos → ∀ n, n < 4 → NatSet.has y.y.valid n = x.trap.lval.getLsbD n ∧
          (x.trap.lval.getLsbD n = true → y.y.val.get 0 n = x.ySaved.val.get 0 n))

/-- R284, R285: a word that decodes to nothing traps ILLEGAL_CLAUSE where its bits break a rule of its clause, else ILLEGAL_INSTRUCTION, in
every executing thread. -/
def Sys2Proof.Claims.UndecodableWordTraps : Prop :=
  ∀ (s : State) (b : Bundle) (w : Word), (s.core s.cur).bundle = some b → b.members ≠ [] → b.members.Nodup →
    Unheld s b → (∀ m ∈ b.members, (s.thread b.team m.1 m.2).inTrap = false) →
    noRendezvous s b.team →
    let broken := hdrClass b.header (classOf (opOf w)) = false ∨ hdrCount b.header < b.pos + wordsOf w ∨
      (closingWord w = true ∧ b.pos + wordsOf w ≠ hdrCount b.header) ∨ (nonReplayable w = true ∧ hdrNR b.header = false)
    ∃ t, exec (.illegalInstruction w) s = .next t ∧ AllLeft s t b ∧ ∀ k, (broken → k = Cause.illegalClause) →
      (¬broken → k = .illegalInstruction) → ∀ m ∈ b.members, trappedAs s t b m k 0 0 b.pc b.pos

namespace Sys2Proof.Claims

/-! ### Class A: atomics and reductions at memory (R123 to R131, R347, R348) -/

/-- The access size of a type code (R347): 8 bytes for z64 and s64. -/
def atomSize (e : AExt) : Nat := if e.atype = 2 ∨ e.atype = 3 then 8 else 4

def atomOf : Instr → Option AtomSpec
  | .atom nw d p i e => some ⟨false, false, nw, atomSize e, e.aop.toNat, e.atype.toNat, d.toNat, e.vb.toNat, e.off.toInt, p, i⟩
  | .red p i e => some ⟨true, false, false, atomSize e, e.aop.toNat, e.atype.toNat, 0, e.vb.toNat, e.off.toInt, p, i⟩
  | .atomCas nw d p i e => some ⟨false, true, nw, 4, 0, 0, d.toNat, e.vb.toNat, e.off.toInt, p, i⟩
  | .atomCas64 nw d p i e => some ⟨false, true, nw, 8, 0, 0, d.toNat, e.vb.toNat, e.off.toInt, p, i⟩
  | _ => none

/-- A PCIe AtomicOp carries fetch-and-add, swap and compare-and-swap, with a result (R31). -/
def hostCarries (a : AtomSpec) : Bool := !a.red && (a.cas || a.aop == 0 || a.aop == 6)

def checkedAtom (s : State) (b : Bundle) (i : Instr) (a : AtomSpec) : Plan :=
  (s.issued b).planAll (s.ctx b i) (addressOf s b a.p a.ix a.size a.off) a.size .atomic false false (hostCarries a) 3

/-- An operand of an atomic: a register, or a pair of registers (R128). -/
def atomOperand (x : Thread) (n size : Nat) : Dword :=
  BitVec.ofNat 64 (if size = 8 then (x.vGet n).toNat + (x.vGet (n + 1)).toNat * 2 ^ 32 else (x.vGet n).toNat)

/-- The lane operation of one access. -/
def atomLane (s : State) (b : Bundle) (a : AtomSpec) (x : Acc) : AwlLane :=
  let th := s.thread b.team x.m.1 x.m.2
  ⟨x.m.1, x.m.2, x.place.loc, x.va, a.aop, a.atype, a.cas, a.size, atomOperand th a.vb a.size,
    if a.cas then atomOperand th (a.vb + a.size / 4) a.size else 0, []⟩

/-- The owners of a word's locations, in the order in which they come up (R123). -/
def atomOwners (s : State) (b : Bundle) (ls : List AwlLane) : List Nat :=
  (ls.map (fun l => s.ownerOf (s.team b.team).tenant l.loc)).dedup

/-- One request to each owner, with its lanes, numbered from n. -/
def atomRequests (s : State) (b : Bundle) (a : AtomSpec) (ls : List AwlLane) (op : Nat) : Nat → List Nat → List AwlReq
  | _, [] => []
  | n, o :: r =>
    ⟨n, o, clusterOf s.cur, op, b.team, if a.red || a.nw then none else some a.d,
      ls.filter (fun l => s.ownerOf (s.team b.team).tenant l.loc == o), true, b.pc, b.pos⟩ :: atomRequests s b a ls op (n + 1) r

/-- Every request, operation and flight has a number below the next one to be given. -/
def numbersBelow (s : State) : Prop :=
  (∀ q ∈ s.awl, q.id < s.nextId) ∧ (∀ o ∈ s.ops, o.id < s.nextId) ∧ ∀ f ∈ s.flights, f.id < s.nextId

/-- The byte in a cell. -/
def byteAt (s : State) (c : Nat × Nat) : Byte :=
  match c.1 with
  | 0 => s.fab.get 0 c.2
  | 1 => s.hbm.get 0 c.2
  | 2 => s.hostMem.get 0 c.2
  | _ => s.peerMem.get 0 c.2

/-- The new value of R130 and R131 for old; none: a failed comparison writes nothing. -/
def newValue (l : AwlLane) (old : Nat) : Option Nat :=
  let w := 8 * l.size
  let b := l.operand.toNat % 2 ^ w
  let v (x : Nat) : Int := if (l.atype = 1 ∨ l.atype = 3) ∧ 2 ^ (w - 1) ≤ x then (x : Int) - 2 ^ w else x
  if l.cas then (if old = b then some (l.newVal.toNat % 2 ^ w) else none)
  else some (match l.aop with
    | 0 => (old + b) % 2 ^ w
    | 1 => if v b < v old then b else old
    | 2 => if v b > v old then b else old
    | 3 => old &&& b
    | 4 => old ||| b
    | 5 => old ^^^ b
    | 6 => b
    | _ => if l.atype = 5 then
        (fmtBf16.fadd .rne false (old % 2 ^ 16) (b % 2 ^ 16)).1 + 2 ^ 16 * (fmtBf16.fadd .rne false (old / 2 ^ 16) (b / 2 ^ 16)).1
      else (fmtF32.fadd .rne false old b).1)

/-- The value a lane finds in memory M. -/
def oldValue (M : Nat × Nat → Byte) (l : AwlLane) : Nat := leNat ((List.range l.size).map (fun k => M (cell (l.loc.plus k))))

/-- Memory after one lane's operation; a poisoned location is left as it is (R58). -/
def afterLane (s : State) (M : Nat × Nat → Byte) (l : AwlLane) : Nat × Nat → Byte :=
  match newValue l (oldValue M l) with
  | none => M
  | some n => fun c =>
    if s.memBad l.loc l.size = false ∧ c.1 = (cell l.loc).1 ∧ (cell l.loc).2 ≤ c.2 ∧ c.2 < (cell l.loc).2 + l.size then
      BitVec.ofNat 8 (n / 2 ^ (8 * (c.2 - (cell l.loc).2)))
    else M c

/-- The results of the lanes in turn, each the value it found. -/
def laneResults (s : State) (q : AwlReq) (d : Nat) : Nat → (Nat × Nat → Byte) → List AwlLane → List Flight
  | _, _, [] => []
  | n, M, l :: r =>
    { id := n, kind := .result, team := q.team, group := l.group, lane := l.lane, op := some q.op, performed := true,
      writes := (filled d l.size false ((List.range l.size).map (fun k =>
          if s.memBad l.loc l.size then 0 else M (cell (l.loc.plus k)))) (s.memBad l.loc l.size)).filter
        (fun w => !l.cancel.contains w.reg) } :: laneResults s q d (n + 1) (afterLane s M l) r

/-- The requests an owner has of atomics that have issued. -/
def queueOf (s : State) (owner : Nat) : List AwlReq := s.awl.filter (fun q => q.owner == owner && q.op != 0)

end Sys2Proof.Claims

/-- R123 to R125, R347, R348: an atomic or reduction whose accesses all pass, with room in every owner's queue and nothing waiting there, issues as one operation of
c.ato, which keeps the lines it touches (log 17): each owner receives one granted request with the lane operations on its locations, their
registers read now. No byte of memory and no register changes yet. Threads with a remote atomic go no further until it is answered (log 35).
Outside a DET launch. -/
def Sys2Proof.Claims.AtomicsAskTheOwners : Prop :=
  ∀ (s : State) (b : Bundle) (i : Instr) (a : AtomSpec), Issues s b i → atomOf i = some a → (s.lpbOf b.team).det = false →
    numbersBelow s → b.awl = [] → (s.team b.team).stgUsed ≤ (s.lpbOf b.team).stgBytes → (checkedAtom s b i a).traps = [] → (checkedAtom s b i a).walkPoison = false →
    (∀ g ∈ groupsOf b, (s.group b.team g).counters.get 0 2 < 63) →
    let r := checkedAtom s b i a
    let ls := r.accs.map (atomLane s b a)
    let owners := atomOwners s b ls
    (∀ o ∈ owners, o < 320 → (s.awl.filter (fun q => q.owner == o && q.granted)).length < 256 ∧
      ∀ q ∈ s.awl, q.owner = o → q.granted = true) →
    let op := s.nextId + owners.length
    let held := (ls.filter (fun l => l.loc.remote)).map (fun l => (l.group, l.lane))
    ∃ t, exec i s = .next t ∧ Leaves s t b i.len held ∧ OnlyWords s t ∧ SameMemory s t ∧
      r.accs.map (fun a => (a.m, a.va)) = b.members.map (fun m => (m, (addressOf s b a.p a.ix a.size a.off m).toNat)) ∧
      t = { s with teams := t.teams, cores := t.cores, partitions := t.partitions, tlb := r.s.tlb, free := r.s.free, nextId := op + 1,
                   awl := s.awl ++ atomRequests s b a ls op s.nextId owners,
                   ops := s.ops ++ [{ id := op, team := b.team, groups := groupsOf b, counter := 2, kind := .atomics,
                                      remote := ls.any (fun l => l.loc.remote), lines := (ls.filterMap (fun l => l.loc.line)).dedup,
                                      mems := b.members }] } ∧
      (t.team b.team).bare = { (s.team b.team).bare with
        exposed := (s.team b.team).exposed || !a.red || r.accs.any (fun x => x.place.isHost) } ∧
      (∀ g, (t.group b.team g).bare = countedUp b 2 true g (s.group b.team g).bare) ∧
      ∀ m ∈ b.members, t.thread b.team m.1 m.2 = (s.thread b.team m.1 m.2).settled b i.len held m (clockOf s)

/-- R125: the owner grants the next entry to one waiting request: of the cluster first in round-robin order from the owner's position, which
moves on past it, and of that cluster the earliest. -/
def Sys2Proof.Claims.OwnerGrantsRoundRobin : Prop :=
  ∀ (s : State) (owner : Nat), (s.awl.filter (fun q => q.owner == owner && q.granted)).length < 256 →
    let waiting := s.awl.filter (fun q => q.owner == owner && !q.granted)
    let turn := fun (q : AwlReq) => (q.cluster + 320 - s.awlTurn.get 0 owner) % 320
    waiting ≠ [] →
    ∃ before q after, waiting = before ++ q :: after ∧ (∀ x ∈ before, turn q < turn x) ∧ (∀ x ∈ after, turn q ≤ turn x) ∧
      exec (.awlGrant owner) s = .next { s with
        awl := s.awl.map (fun x => if x.id = q.id then { x with granted := true } else x)
        awlTurn := s.awlTurn.put 0 owner ((q.cluster + 1) % 320) }

/-- R126, R127, R130, R131: performing a request that no older one of its queue precedes on a line does its lane operations one after
another, in increasing logical index: each reads its location, writes the new value of R130 there and, with a destination, sends the
old value back to its own lane. The entry is free; no other byte outside new undo entries changes. -/
def Sys2Proof.Claims.RequestPerformsItsLanes : Prop :=
  ∀ (s : State) (owner index : Nat) (q : AwlReq), owner < 320 → (queueOf s owner)[index]? = some q →
    (∀ x ∈ (queueOf s owner).take index, ∀ l ∈ x.lanes, ∀ k ∈ q.lanes,
      l.loc.key.1 ≠ k.loc.key.1 ∨ l.loc.key.2 / 64 ≠ k.loc.key.2 / 64) →
    (∀ f ∈ s.flights, f.team = q.team → f.performed = true) → (∀ l ∈ q.lanes, l.size = 4 ∨ l.size = 8) →
    (∀ l ∈ q.lanes, l.operand.toNat < 2 ^ (8 * l.size) ∧ l.newVal.toNat < 2 ^ (8 * l.size) ∧
      (l.cas = false → (l.size = 8 ↔ l.atype = 2 ∨ l.atype = 3))) →
    (∀ l ∈ q.lanes, ∀ k, k < l.size → ¬inLog s (8 * q.lanes.length) (l.loc.plus k)) →
    ∃ t, exec (.awlPerform owner index) s = .next t ∧
      (∀ x, (¬inLog s (8 * q.lanes.length) x → t.memByte x = q.lanes.foldl (afterLane s) (byteAt s) (cell x)) ∧ t.memPoison x = s.memPoison x) ∧
      t.awl = s.awl.filter (fun x => x.id != q.id) ∧
      t.flights = s.flights ++ (match q.dest with
        | none => []
        | some d => laneResults s q d s.nextId (byteAt s) q.lanes) ∧
      t.cores = s.cores ∧ t.launches = s.launches ∧ t.tenants = s.tenants ∧ t.ops = s.ops ∧
      ((s.lpbOf q.team).det = false → t.teams = s.teams)

namespace Sys2Proof.Claims

/-! ### Fences, waits on counters, prefetch (R54, R87, R88, R340, R344 to R346) -/

/-- A fence of a storage scope and kind waits for this access of its thread: unperformed, not counted, a read or, for a release, a write
to storage of the scope; or a sweep (R85, R88, R93). -/
def fenceAwaits (b : Bundle) (storage kind : BitVec 2) (f : Flight) : Prop :=
  f.team = b.team ∧ (f.group, f.lane) ∈ b.members ∧ f.performed = false ∧ f.op = none ∧
    (f.kind = .sweep ∨ ((storage = 3 ∨ storage = (if f.loc.isFabric then 0 else 1)) ∧
      (f.kind = .load ∨ f.kind = .store ∧ kind ≠ 0)))

/-- The agent scope a fence acts at (R87). -/
def actsAt (s : State) (b : Bundle) (scope : BitVec 3) : Nat :=
  if (s.lpbOf b.team).det ∧ (scope = 2 ∨ scope = 3) then 4 else scope.toNat

end Sys2Proof.Claims

/-- R85 to R88, R93, R346, R409: a fence whose threads have no access left that it waits for goes on; an acquire of global storage wider
than .clus empties the global-line cache of its cluster, a release at .dev or wider exposes its team, and no byte of memory, register
or latch changes. A fence with an access left that it awaits (log 19) waits at issue, and nothing else changes. In a DET launch an acquire
of global storage at .clus or wider needs the ticket. -/
def Sys2Proof.Claims.FenceOrdersAndGoesOn : Prop :=
  (∀ (s : State) (b : Bundle) (remote : Bool) (storage : BitVec 2) (scope : BitVec 3) (kind : BitVec 2),
    Issues s b (.fence remote storage scope kind) → (∀ f ∈ s.flights, ¬fenceAwaits b storage kind f) →
    ((s.lpbOf b.team).det = true → kind ≠ 1 → storage = 1 ∨ storage = 3 → 2 ≤ scope.toNat → s.holdsTicket b.team = true) →
    ∃ t, exec (.fence remote storage scope kind) s = .next t ∧ Leaves s t b 1 [] ∧ OnlyWords s t ∧ SameMemory s t ∧
      SameGroups s t b.team ∧
      t = { s with teams := t.teams, cores := t.cores, partitions := t.partitions, lines := t.lines } ∧
      (t.team b.team).bare = { (s.team b.team).bare with
        exposed := (s.team b.team).exposed || (decide (kind ≠ 0) && decide (4 ≤ actsAt s b scope)) } ∧
      t.lines = (if kind ≠ 1 ∧ (storage = 1 ∨ storage = 3) ∧ 3 ≤ actsAt s b scope then
        s.lines.filter (fun x => x.cluster != clusterOf s.cur) else s.lines) ∧
      ∀ m ∈ b.members, t.thread b.team m.1 m.2 = (s.thread b.team m.1 m.2).afterWord b 1 (clockOf s)) ∧
  ∀ (s : State) (b : Bundle) (remote : Bool) (storage : BitVec 2) (scope : BitVec 3) (kind : BitVec 2),
    Issues s b (.fence remote storage scope kind) → (∃ f ∈ s.flights, fenceAwaits b storage kind f) →
    ((s.lpbOf b.team).det = true → kind ≠ 1 → storage = 1 ∨ storage = 3 → 2 ≤ scope.toNat → s.holdsTicket b.team = true) →
    exec (.fence remote storage scope kind) s = .next (s.setBundle s.cur (some { b with stalled := true }))

/-- R54, R344: WAITC goes on where the counter of every group of the bundle is at most n, DRAIN where all four are 0; otherwise, with no
copy that is paused for the ticket, the word waits at issue. -/
def Sys2Proof.Claims.CounterWaitsCompare : Prop :=
  ∀ (s : State) (b : Bundle) (i : Instr) (ok : Group → Prop), Issues s b i →
    ((∃ c n, i = .waitc c n ∧ ok = fun g => g.counters.get 0 c.toNat ≤ n.toNat) ∨
      (i = .drain ∧ ok = fun g => ∀ k, k < 4 → g.counters.get 0 k = 0)) →
    ((∀ g ∈ groupsOf b, ok (s.group b.team g)) →
      ∃ t, exec i s = .next t ∧ WordFrame s t b 1 ∧ SameUniform s t b.team ∧
        ∀ m ∈ b.members, t.thread b.team m.1 m.2 = (s.thread b.team m.1 m.2).afterWord b 1 (clockOf s)) ∧
    ((∃ g ∈ groupsOf b, ¬ok (s.group b.team g)) → (∀ o ∈ s.ops, o.rest = []) →
      exec i s = .next (s.setBundle s.cur (some { b with stalled := true })))

/-- R340: PREF with addresses below 2^52 goes on and changes no register and no byte of memory, whatever other check its addresses fail;
of one thread, the line of a cacheable local page is then in the cluster's cache, as memory holds it or as it was. -/
def Sys2Proof.Claims.PrefetchOnlyFillsTheCache : Prop :=
  ∀ (s : State) (b : Bundle) (p ix : BitVec 8) (e : Option MExt), Issues s b (.pref p ix e) →
    (∀ m ∈ b.members, 0 ≤ addressOf s b p ix 1 (extOff e) m ∧ addressOf s b p ix 1 (extOff e) m < 2 ^ 52) →
    ∃ t, exec (.pref p ix e) s = .next t ∧ Advances s t b (Instr.pref p ix e).len [] ∧ SameMemory s t ∧ SameGroups s t b.team ∧
      t = { s with teams := t.teams, cores := t.cores, partitions := t.partitions, lines := t.lines, tlb := t.tlb, free := t.free } ∧
      (∀ m ∈ b.members, t.thread b.team m.1 m.2 = (s.thread b.team m.1 m.2).afterWord b (Instr.pref p ix e).len (clockOf s)) ∧
      ∀ m pa, b.members = [m] → (s.access (clusterOf s.cur) (s.team b.team).tenant (addressOf s b p ix 1 (extOff e) m) 1 .read false
          true).1 = .ok (.hbm pa false) →
        ∃ x, t.cached (clusterOf s.cur) (pa / 64) = some x ∧ (s.cached (clusterOf s.cur) (pa / 64) = some x ∨
          (x.bytes = (List.range 64).map (fun k => s.hbm.get 0 (64 * (pa / 64) + k)) ∧
            x.poisoned = NatSet.has s.hbmPoison (pa / 64)))

namespace Sys2Proof.Claims

/-! ### Reins (R133 to R140, R349, R350) -/

/-- The rein a uniform register names for the bundle's team (R133): offset, port, and the member it belongs to. -/
structure Named where
  off : Nat
  port : Nat
  member : Nat

def named (s : State) (b : Bundle) (a : BitVec 9) : Named :=
  let w := ((s.group b.team b.group).sGet a.toNat).toNat
  ⟨64 * (w % 2 ^ 16), w / 2 ^ 16 % 16, if w / 2 ^ 20 = 0xFFF then (s.team b.team).member else w / 2 ^ 20⟩

/-- The name is 0xFFF or a member of the gang. -/
def nameOk (s : State) (b : Bundle) (a : BitVec 9) : Prop :=
  let w := ((s.group b.team b.group).sGet a.toNat).toNat
  w / 2 ^ 20 = 0xFFF ∨ w / 2 ^ 20 < (s.team b.team).gangSize

/-- FWPERM of the cluster that a member stands on allows a pop (RD) or a push (RD and WR) of its reins (R22); a member that does not stand
is not asked. -/
def permitted (s : State) (b : Bundle) (k : Nat) (push : Bool) : Prop :=
  ∀ u, s.memberTeam b.team k = some u →
    let i := s.clusterIndex (s.team u).tenant (s.team u).cluster
    let w := (s.tenant (s.team u).tenant).fwperm.get 0 (i / 16)
    w.getLsbD (2 * (i % 16)) = true ∧ (push = true → w.getLsbD (2 * (i % 16) + 1) = true)

/-- No access of the bundle's threads is left that an implied fence awaits (R92): of a release every one, of an acquire the reads. -/
def fenced (s : State) (b : Bundle) (kind : BitVec 2) : Prop := ∀ f ∈ s.flights, ¬fenceAwaits b 3 kind f

/-- Fields of a block (R134): CFG's slots, HEAD, COUNT, a port's ALLOW, a ring entry. -/
def slots (s : State) (u off : Nat) : Nat := s.reinGet u off 4 4 % 2 ^ 9
def ports (s : State) (u off : Nat) : Nat := s.reinGet u off 4 4 / 2 ^ 9 % 16 + 1
def head (s : State) (u off : Nat) : Nat := s.reinGet u off 8 4
def handles (s : State) (u off : Nat) : Nat := s.reinGet u off 12 4
def allowance (s : State) (u off port : Nat) : Nat := s.reinGet u off (16 + 2 * port) 2
def entry (s : State) (u off slot : Nat) : Nat := s.reinGet u off (64 + 8 * slot) 8

/-- The first byte of a block in the fabric. -/
def blockAt (s : State) (u off : Nat) : Nat :=
  (s.team u).cluster * 2 ^ 23 + (s.team u).base + (s.lpbOf u).declOff + off

/-- Every byte of memory is as it was but for those of the block at the offsets of the list: (offset, length). -/
def OnlyFields (s t : State) (u off : Nat) (fs : List (Nat × Nat)) : Prop :=
  ∀ x, (∀ f ∈ fs, ¬((cell x).1 = 0 ∧ blockAt s u off + f.1 ≤ (cell x).2 ∧ (cell x).2 < blockAt s u off + f.1 + f.2)) →
    t.memByte x = s.memByte x

/-- The handle's write of R138. -/
def HandleStored (s t : State) (u off port : Nat) (h : Word) : Prop :=
  entry t u off ((head s u off + handles s u off) % slots s u off) = h.toNat + port * 2 ^ 32 ∧
    handles t u off = (handles s u off + 1) % 2 ^ 32

/-- A push of R138: one unit of the port's allowance is taken and the handle enters the ring. -/
def Pushed (s t : State) (u off port : Nat) (h : Word) : Prop :=
  allowance t u off port = allowance s u off port - 1 ∧ HandleStored s t u off port h ∧
    OnlyFields s t u off [(12, 4), (16 + 2 * port, 2), (64 + 8 * ((head s u off + handles s u off) % slots s u off), 8)]

/-- The port of the entry that a pop takes. -/
def headPort (s : State) (u off : Nat) : Nat := entry s u off (head s u off) / 2 ^ 32 % 16

/-- A pop of R138: the handle, and its port's allowance grows. -/
def Popped (s t : State) (u off : Nat) : Prop :=
  head t u off = (head s u off + 1) % slots s u off % 2 ^ 32 ∧ handles t u off = handles s u off - 1 ∧
    allowance t u off (headPort s u off) = (allowance s u off (headPort s u off) + 1) % 2 ^ 16 ∧
    OnlyFields s t u off [(8, 4), (12, 4), (16 + 2 * headPort s u off, 2)]

/-- No other thread of the launch came to this rein for the same purpose before the bundle's threads (R138). -/
def isFirst (s : State) (b : Bundle) (pop : Bool) (n : Named) : Prop :=
  let w : ReinWait := ⟨pop, n.member, n.off, if pop then 0 else n.port⟩
  let mine := (s.thread b.team (lowest b).1 (lowest b).2)
  s.reinFirst b.team w (if mine.rein = some w then mine.arrived else s.nextId) = true

/-- The threads no longer wait at a rein and the bundle goes on. -/
def LeftTheRein (s t : State) (b : Bundle) (len : Nat) : Prop :=
  ∀ m ∈ b.members, t.thread b.team m.1 m.2 =
    ({ s.thread b.team m.1 m.2 with rein := none, arrived := 0 } : Thread).afterWord b len (clockOf s)

/-- The write-back of a pop: the uniform registers d and, for POPT, d + 1. -/
def popFlight (s : State) (b : Bundle) (ws : List RegWrite) : Flight :=
  { id := s.nextId, kind := .result, team := b.team, group := (lowest b).1, lane := (lowest b).2, uniform := true, performed := true,
    writes := ws }

/-- The operation of a push to another member. -/
def pushOp (s : State) (b : Bundle) (u : Nat) (n : Named) (h : Word) : Op :=
  { id := s.nextId, team := b.team, groups := groupsOf b, counter := 3, kind := .push u n.off n.port h, remote := true }

/-- The bundle has asked and waits at issue; nothing else has changed. -/
structure Asked (s t : State) (b : Bundle) : Prop where
  machine : t = { s with cores := t.cores }
  core : ∀ k, t.core k = if k = s.cur then { s.core k with bundle := some { b with asked := true, stalled := true } } else s.core k

end Sys2Proof.Claims

/-- R22, R137 to R139: on an open rein of its own team, where FWPERM allows it, with allowance on the port, PUSH (first of those that wait) and PUSHT take one unit and
put the handle into the ring; PUSHT writes 0. Otherwise PUSHT changes nothing and writes 1, 2 or 3 for no allowance, a pending and a
closed rein. -/
def Sys2Proof.Claims.PushEntersTheRing : Prop :=
  (∀ (s : State) (b : Bundle) (a : BitVec 9) (x : STail), Issues s b (.push a x) → nameOk s b a → fenced s b 1 →
    let n := named s b a
    n.member = (s.team b.team).member → permitted s b n.member true → s.reinState b.team n.member n.off = .opened → n.port < ports s b.team n.off →
    0 < allowance s b.team n.off n.port → isFirst s b false n →
    ∃ t, exec (.push a x) s = .next t ∧ Leaves s t b (Instr.push a x).len [] ∧ OnlyWords s t ∧ SameGroups s t b.team ∧
      Pushed s t b.team n.off n.port ((s.group b.team b.group).sGet x.reg) ∧ LeftTheRein s t b (Instr.push a x).len) ∧
  ∀ (s : State) (b : Bundle) (d a : BitVec 9) (x : STail), Issues s b (.pusht d a x) → nameOk s b a →
    let n := named s b a
    n.member = (s.team b.team).member → permitted s b n.member true →
    (s.reinState b.team n.member n.off = .opened → n.port < ports s b.team n.off) →
    let v := match s.reinState b.team n.member n.off with
      | .opened => if 0 < allowance s b.team n.off n.port then 0 else 1
      | .pending => 2
      | .closed => 3
    (v = 0 → fenced s b 1) →
    ∃ t, exec (.pusht d a x) s = .next t ∧ Leaves s t b (Instr.pusht d a x).len [] ∧ OnlyWords s t ∧
      UniformOnly s t b.team b.group [d.toNat] ∧
      (t.group b.team b.group).sGet d.toNat = (if d = 0 then 0 else BitVec.ofNat 32 v) ∧
      LatchEverywhere s t b (.pusht d a x) (BitVec.ofNat 32 v) ∧
      (if v = 0 then Pushed s t b.team n.off n.port ((s.group b.team b.group).sGet x.reg) else SameMemory s t)

/-- R92, R137 to R139: on a rein of its own team that holds a handle, open or closed, POP (first of those that wait) and POPT take the handle at
HEAD, which is then a pending write-back, and clear the cluster's global-line cache; POPT's second word is 0. Of an empty or pending
rein POPT returns 0 and 1, 2 or 3, and memory stands. -/
def Sys2Proof.Claims.PopTakesTheHandle : Prop :=
  (∀ (s : State) (b : Bundle) (d a : BitVec 9), Issues s b (.pop d a) → nameOk s b a → fenced s b 0 →
    let n := named s b a
    n.member = (s.team b.team).member → permitted s b n.member false → s.reinState b.team n.member n.off ≠ .pending → 0 < handles s b.team n.off → isFirst s b true n →
    ∃ t, exec (.pop d a) s = .next t ∧ Leaves s t b 1 [] ∧ OnlyWords s t ∧ SameGroups s t b.team ∧ Popped s t b.team n.off ∧
      t.lines = s.lines.filter (fun x => x.cluster != clusterOf s.cur) ∧ LeftTheRein s t b 1 ∧
      t.flights = s.flights ++ [popFlight s b
        [⟨d.toNat, BitVec.ofNat 32 (entry s b.team n.off (head s b.team n.off)), false⟩]]) ∧
  ∀ (s : State) (b : Bundle) (d a : BitVec 9), Issues s b (.popt d a) → nameOk s b a →
    let n := named s b a
    n.member = (s.team b.team).member → permitted s b n.member false →
    let v := match s.reinState b.team n.member n.off with
      | .opened => if 0 < handles s b.team n.off then 0 else 1
      | .pending => 2
      | .closed => if 0 < handles s b.team n.off then 0 else 3
    (v = 0 → fenced s b 0) →
    ∃ t, exec (.popt d a) s = .next t ∧ Leaves s t b 1 [] ∧ OnlyWords s t ∧ SameGroups s t b.team ∧
      (∀ m ∈ b.members, t.thread b.team m.1 m.2 = (s.thread b.team m.1 m.2).afterWord b 1 (clockOf s)) ∧
      (if v = 0 then Popped s t b.team n.off ∧ t.lines = s.lines.filter (fun x => x.cluster != clusterOf s.cur)
        else SameMemory s t ∧ t.lines = s.lines) ∧
      t.flights = s.flights ++ [popFlight s b
        [⟨d.toNat, if v = 0 then BitVec.ofNat 32 (entry s b.team n.off (head s b.team n.off)) else 0, false⟩,
          ⟨d.toNat + 1, BitVec.ofNat 32 v, false⟩]]

/-- R136, R137: REIN.OPEN within R136's limits, with no other guarded block in the way, writes the block's header and enters it in the guard;
REIN.CLOSE of an open rein sets STATE to 2 and of a closed one does nothing. The ring's bytes stay as they stand (log 65). -/
def Sys2Proof.Claims.ReinOpensAndCloses : Prop :=
  (∀ (s : State) (b : Bundle) (a : BitVec 9) (x : STail), Issues s b (.reinOpen a x) → nameOk s b a →
    let n := named s b a
    let cfg := ((s.group b.team b.group).sGet x.reg).toNat
    let size := cfg % 2 ^ 9
    let np := cfg / 2 ^ 9 % 16 + 1
    let allow := cfg / 2 ^ 13 % 2 ^ 9
    n.member = (s.team b.team).member → 4 ≤ size ∧ size ≤ 256 → 1 ≤ allow ∧ allow ≤ 256 → cfg < 2 ^ 22 → np * allow ≤ size →
    n.off + (64 + 8 * size) ≤ (s.lpbOf b.team).fabric → (s.team b.team).guard.length < 64 →
    (∀ o ∈ (s.team b.team).guard, o + (64 + 8 * slots s b.team o) ≤ n.off ∨ n.off + (64 + 8 * size) ≤ o) →
    ∃ t, exec (.reinOpen a x) s = .next t ∧ Leaves s t b (Instr.reinOpen a x).len [] ∧ OnlyWords s t ∧ SameGroups s t b.team ∧
      (t.team b.team).guard = (s.team b.team).guard ++ [n.off] ∧ t.reinGet b.team n.off 0 4 = 1 ∧ t.reinGet b.team n.off 4 4 = cfg ∧
      head t b.team n.off = 0 ∧ handles t b.team n.off = 0 ∧ (∀ p, p < np → allowance t b.team n.off p = allow) ∧
      OnlyFields s t b.team n.off [(0, 64)] ∧
      ∀ m ∈ b.members, t.thread b.team m.1 m.2 = (s.thread b.team m.1 m.2).afterWord b (Instr.reinOpen a x).len (clockOf s)) ∧
  ∀ (s : State) (b : Bundle) (a : BitVec 9), Issues s b (.reinClose a) → nameOk s b a →
    let n := named s b a
    n.member = (s.team b.team).member → s.reinState b.team n.member n.off ≠ .pending →
    ∃ t, exec (.reinClose a) s = .next t ∧ Leaves s t b 1 [] ∧ OnlyWords s t ∧ SameGroups s t b.team ∧
      (if s.reinState b.team n.member n.off = .opened then t.reinGet b.team n.off 0 4 = 2 ∧ OnlyFields s t b.team n.off [(0, 4)]
        else SameMemory s t) ∧
      ∀ m ∈ b.members, t.thread b.team m.1 m.2 = (s.thread b.team m.1 m.2).afterWord b 1 (clockOf s)

/-- R140: a PUSH (first of those that wait, where the owner's rein is open and has allowance) or PUSHT to another member asks the owner and
waits at issue. The owner's answer takes a unit of the allowance where there is one; with it the push issues as an operation of c.col that
exposes the team, PUSHT writing the answer's status, and its handle enters the owner's ring by a later write, in any block of that offset
that is then guarded (log 66). -/
def Sys2Proof.Claims.RemotePushAsksTheOwner : Prop :=
  (∀ (s : State) (b : Bundle) (i : Instr) (a : BitVec 9) (x : STail), Issues s b i → nameOk s b a →
    let n := named s b a
    (i = .push a x ∧ fenced s b 1 ∧ s.reinState b.team n.member n.off = .opened ∧ (s.memberTeam b.team n.member).isSome = true ∧
        n.port < ports s ((s.memberTeam b.team n.member).getD 0) n.off ∧
        0 < allowance s ((s.memberTeam b.team n.member).getD 0) n.off n.port ∧ isFirst s b false n ∨
      ∃ d, i = .pusht d a x) →
    n.member ≠ (s.team b.team).member → permitted s b n.member true → b.rein = none →
    (∀ g ∈ groupsOf b, (s.group b.team g).counters.get 0 3 < 63) →
    ∃ t, exec i s = .next t ∧ Asked s t b) ∧
  (∀ (s : State) (b : Bundle) (d a : BitVec 9) (x : STail), Issues s b (.pusht d a x) → nameOk s b a →
    let n := named s b a
    n.member ≠ (s.team b.team).member → permitted s b n.member true → (∀ g ∈ groupsOf b, (s.group b.team g).counters.get 0 3 < 63) →
    ∀ v, b.rein = some v → (v = 0 ∧ fenced s b 1 ∨ v = 1 ∨ v = 2 ∨ v = 3) →
    ∃ t, exec (.pusht d a x) s = .next t ∧ Leaves s t b (Instr.pusht d a x).len [] ∧ OnlyWords s t ∧ SameMemory s t ∧
      UniformOnly s t b.team b.group [d.toNat] ∧ (t.group b.team b.group).sGet d.toNat = (if d = 0 then 0 else BitVec.ofNat 32 v) ∧
      LatchEverywhere s t b (.pusht d a x) (BitVec.ofNat 32 v) ∧
      t.ops = (if v = 0 then
        s.ops ++ [pushOp s b ((s.memberTeam b.team n.member).getD 0) n ((s.group b.team b.group).sGet x.reg)] else s.ops) ∧
      ∀ g, (t.group b.team g).counters = (countedUp b 3 (v = 0) g (s.group b.team g)).counters) ∧
  (∀ (s : State) (core : Nat) (b : Bundle) (a : BitVec 9) (x : STail) (u : Nat), (s.core core).bundle = some b →
    ((∃ d, decodeWords (b.words.getD b.pos 0) b.words[b.pos + 1]? = .ok (.pusht d a x)) ∨
      decodeWords (b.words.getD b.pos 0) b.words[b.pos + 1]? = .ok (.push a x)) →
    b.asked = true → b.rein = none →
    let n := named s b a
    s.memberTeam b.team n.member = some u → s.reinState b.team n.member n.off = .opened → n.port < ports s u n.off →
    ∃ t, exec (.reinAllowanceGrant core) s = .next t ∧
      (t.core core).bundle = some { b with rein := some (if 0 < allowance s u n.off n.port then 0 else 1), stalled := false } ∧
      (if 0 < allowance s u n.off n.port then
        allowance t u n.off n.port = allowance s u n.off n.port - 1 ∧ OnlyFields s t u n.off [(16 + 2 * n.port, 2)] else SameMemory s t) ∧
      t.teams = s.teams ∧ ∀ k, k ≠ core → t.core k = s.core k) ∧
  (∀ (s : State) (b : Bundle) (a : BitVec 9) (x : STail), Issues s b (.push a x) → nameOk s b a → fenced s b 1 →
    let n := named s b a
    n.member ≠ (s.team b.team).member → permitted s b n.member true → b.rein = some 0 → (∀ g ∈ groupsOf b, (s.group b.team g).counters.get 0 3 < 63) →
    ∃ t, exec (.push a x) s = .next t ∧ Leaves s t b (Instr.push a x).len [] ∧ OnlyWords s t ∧ SameMemory s t ∧
      (t.team b.team).exposed = true ∧ (∀ g, (t.group b.team g).bare = countedUp b 3 true g (s.group b.team g).bare) ∧
      t.ops = s.ops ++ [pushOp s b ((s.memberTeam b.team n.member).getD 0) n ((s.group b.team b.group).sGet x.reg)] ∧
      LeftTheRein s t b (Instr.push a x).len) ∧
  ∀ (s : State) (o : Op) (u off port : Nat) (h : Word), s.op o.id = some o → o.kind = .push u off port h → o.finished = false →
    port < 16 → (s.team u).live = true → off ∈ (s.team u).guard →
    ∃ t, exec (.reinRemoteWrite o.id) s = .next t ∧ HandleStored s t u off port h ∧
      OnlyFields s t u off [(12, 4), (64 + 8 * ((head s u off + handles s u off) % slots s u off), 8)] ∧ t.cores = s.cores ∧
      ∀ g l, t.thread o.team g l = s.thread o.team g l

namespace Sys2Proof.Claims

/-! ### Copies and Renaz transfers (R47 to R53, R341 to R343, R352, R353) -/

/-- What a copy word asks: for .sb the reservation id and an offset in it as destination, the shape of R342, and the limits it breaks. -/
def copyOf (g : Group) (i : Instr) : Option CopyArgs :=
  let r := fun (n : Nat) => (g.sGet n).toNat
  let pair := fun (n : Nat) => (g.sPair n).toNat
  let shape := fun (n : Nat) => decide (2 ^ 32 ≤ r n * r (n + 1) ∨ (1 < r (n + 1) ∧ r (n + 3) < r n))
  match i with
  | .cpy d a b => some ⟨none, pair d.toNat, pair a.toNat, r b.reg, 1, 0, 0, false, false⟩
  | .cpySb d a b => some ⟨some (r d.toNat % 2 ^ 8), r d.toNat / 2 ^ 8 % 2 ^ 18, pair a.toNat, r b.reg, 1, 0, 0,
      decide (2 ^ 26 ≤ r d.toNat), false⟩
  | .cpy2d d a b => some ⟨none, pair d.toNat, pair a.toNat, r b.reg, r (b.reg + 1), r (b.reg + 2), r (b.reg + 3), shape b.reg, false⟩
  | .cpy2dSb d a b => some ⟨some (r d.toNat % 2 ^ 8), r d.toNat / 2 ^ 8 % 2 ^ 18, pair a.toNat, r b.reg, r (b.reg + 1), r (b.reg + 2),
      r (b.reg + 3), shape b.reg || decide (2 ^ 26 ≤ r d.toNat), false⟩
  | _ => none

/-- The transfers over the Renaz link: their range, their alignment, and the kind of operation they become. -/
def transferOf (g : Group) (i : Instr) : Option (CopyArgs × Nat × (List Segment → OpKind)) :=
  let r := fun (n : Nat) => (g.sGet n).toNat
  let pair := fun (n : Nat) => (g.sPair n).toNat
  match i with
  | .xcpy d a b => some (⟨none, pair d.toNat, pair a.toNat, r b.reg, 1, 0, 0, false, false⟩, 1, .xcpy)
  | .xred d a e =>
    let size := if e.atype = 2 ∨ e.atype = 3 then 8 else 4
    some (⟨none, pair d.toNat, pair a.toNat, r e.sb.toNat, 1, 0, 0, decide (r e.sb.toNat % size ≠ 0), true⟩, size,
      fun segs => .xred segs e.func.toNat e.atype.toNat (r e.sc.toNat))
  | _ => none

/-- A piece of a copy carries bytes of one row: k bytes from the row's start on both sides (R342). -/
def ofRow (a : CopyArgs) (base : Nat) (g : Segment) : Prop :=
  ∃ r k, r < a.rows ∧ k + g.len ≤ a.width ∧ g.srcVa = a.src + r * a.spitch + k ∧ g.dstVa = a.dst + r * a.dpitch + k ∧
    g.sb = (if a.sb = none then none else some (base + g.dstVa))

/-- The pieces cover the copy: their lengths make up WIDTH · ROWS, and none crosses a page of the side it touches. -/
def Covers (a : CopyArgs) (base : Nat) (segs : List Segment) : Prop :=
  (segs.map (·.len)).sum = a.width * a.rows ∧ ∀ g ∈ segs, ofRow a base g ∧ g.srcVa % 4096 + g.len ≤ 4096

/-- The counted operation of a copy. -/
def copyOp (s : State) (b : Bundle) (k : Nat) (kind : OpKind) (remote : Bool) : Op :=
  { id := s.nextId, team := b.team, groups := groupsOf b, counter := k, kind := kind, remote := remote, mems := b.members }

/-- A piece is written to a host page (R409). -/
def touchesHost (g : Segment) : Bool :=
  g.sb.isNone && match g.dst with
    | .host _ _ => true
    | _ => false

/-- A location lies inside its storage's address range. -/
def inRange (l : Loc) (n : Nat) : Prop := match l with
  | .peer _ a => a + n ≤ 2 ^ 52
  | _ => True

/-- The pieces share no byte that one of them writes. -/
def Apart (segs : List Segment) : Prop :=
  segs.Pairwise (fun a b => a.meets b = false) ∧
    ∀ g ∈ segs, inRange g.src g.len ∧ inRange g.dst g.len ∧ (g.sb = none → g.dst.overlaps g.len g.src g.len = false)

/-- Byte k of a piece, where it has gone. -/
def landed (t : State) (team : Nat) (g : Segment) (k : Nat) : Byte :=
  match g.sb with
  | none => t.memByte (g.dst.plus k)
  | some o => (t.team team).sb.get 0 (o + k)

/-- No other operation of o's team is under way; operations have different numbers, and each counts in some group. -/
def OnlyOp (s : State) (o : Op) : Prop :=
  (∀ x ∈ s.ops, x.id ≠ o.id → x.team ≠ o.team) ∧ (s.ops.map (·.id)).Nodup ∧ ∀ x ∈ s.ops, x.groups ≠ []

/-- Nothing is under way that a copy must wait for: no other operation of its team, and every access of the team is performed. -/
def Alone (s : State) (o : Op) : Prop :=
  OnlyOp s o ∧ ∀ f ∈ s.flights, f.id ≠ o.id ∧ (f.team = o.team → f.performed = true)

/-- The places of an operation lie on modules that have a live port (R437). -/
def reached (s : State) (o : Op) : Prop := s.deadPort (modulesOf (segLocs o.kind.segs)) = none

/-- The round of its window to which an XRED belongs, from the one in progress: of the next where its index has been applied, and one further
for each unfinished one of the same index before it (R440). at: window and index of an operation. -/
def roundIn (s : State) (o : Op) (i w : Nat) : Nat :=
  (if i < s.xredNext.get 0 w then 1 else 0) +
    (s.ops.filter (fun x => decide (x.id < o.id ∧ x.finished = false ∧ x.kind.xredAt = some (i, w)))).length

/-- No unfinished XRED of the same window is of an earlier round, or of the same round with a lower index (R353, R440). -/
def comesFirst (s : State) (o : Op) : Prop :=
  ∀ i w, o.kind.xredAt = some (i, w) → ∀ x ∈ s.ops, x.id ≠ o.id → x.finished = false → ∀ k, x.kind.xredAt = some (k, w) →
    roundIn s o i w < roundIn s x k w ∨ (roundIn s o i w = roundIn s x k w ∧ i ≤ k)

/-- The operation is recorded: it has left, and its counter has fallen by one in each of its groups (R53). -/
def Recorded (s t : State) (o : Op) : Prop :=
  t.ops = s.ops.filter (fun x => x.id != o.id) ∧
    ∀ g k, (t.group o.team g).counters.get 0 k =
      (s.group o.team g).counters.get 0 k - (if g ∈ o.groups ∧ k = o.counter then 1 else 0)

end Sys2Proof.Claims

/-- R47, R48, R52, R341 to R343: a copy that passes its checks, with room in its counter and in the engine, issues as one operation of
c.cpy in every group of the bundle; its pieces cover WIDTH · ROWS bytes. A copy with pieces on a host or peer page issues when the
remote side has accepted it. No byte of memory moves yet. Outside a DET launch. -/
def Sys2Proof.Claims.CopiesIssueOneOperation : Prop :=
  ∀ (s : State) (b : Bundle) (i : Instr) (a : CopyArgs) (rows : List (List Segment)) (r : State), Issues s b i →
    copyOf (s.group b.team b.group) i = some a → (s.lpbOf b.team).det = false →
    (s.issued b).checkCopy (s.ctx b i) a 1 = (.rows rows, r) → rows.flatten ≠ [] →
    (∀ g ∈ groupsOf b, (s.group b.team g).counters.get 0 0 < 63) → s.engineBusy (clusterOf s.cur) = false →
    (rows.flatten.any Segment.remote = true → ∃ va, b.peer = some (true, va)) →
    (rows.flatten.any Segment.remote = false → b.peer = none) →
    let base := 64 * (s.copyResv b.team a).unit
    let grant := if a.sb = none then none else some (s.copyResv b.team a).grant
    ∃ t, exec i s = .next t ∧ Leaves s t b i.len [] ∧ OnlyWords s t ∧ SameMemory s t ∧ Covers a base rows.flatten ∧
      t.ops = s.ops ++ [copyOp s b 0 (.copy rows.flatten grant) (rows.flatten.any Segment.remote)] ∧
      (∀ g, (t.group b.team g).bare = countedUp b 0 true g (s.group b.team g).bare) ∧
      (t.team b.team).bare = { (s.team b.team).bare with exposed := (s.team b.team).exposed || rows.flatten.any touchesHost } ∧
      ∀ m ∈ b.members, t.thread b.team m.1 m.2 = (s.thread b.team m.1 m.2).afterWord b i.len (clockOf s)

/-- R48, R343: a copy of no bytes makes none of the checks that name a byte; it is counted and completes at once. -/
def Sys2Proof.Claims.EmptyCopyCompletesAtOnce : Prop :=
  ∀ (s : State) (b : Bundle) (i : Instr) (a : CopyArgs), Issues s b i → copyOf (s.group b.team b.group) i = some a →
    (s.lpbOf b.team).det = false → a.bad = false → a.width = 0 ∨ a.rows = 0 → (a.sb ≠ none → (s.copyResv b.team a).live = true) →
    (∀ g ∈ groupsOf b, (s.group b.team g).counters.get 0 0 < 63) → s.engineBusy (clusterOf s.cur) = false → b.peer = none →
    (∀ o ∈ s.ops, o.team ≠ b.team ∧ o.id < s.nextId ∧ o.groups ≠ []) →
    ∃ t, exec i s = .next t ∧ Advances s t b i.len [] ∧ SameMemory s t ∧ t.ops = s.ops ∧
      (∀ g k, (t.group b.team g).counters.get 0 k = (s.group b.team g).counters.get 0 k) ∧
      ∀ m ∈ b.members, t.thread b.team m.1 m.2 = (s.thread b.team m.1 m.2).afterWord b i.len (clockOf s)

/-- R352, R353: XCPY between this module and one peer, and XRED from this module into one peer, issue as one operation of c.col once the peer
has accepted them, and expose their team; no byte moves yet. Outside a DET launch. -/
def Sys2Proof.Claims.TransfersIssueOneOperation : Prop :=
  ∀ (s : State) (b : Bundle) (i : Instr) (a : CopyArgs) (align : Nat) (kind : List Segment → OpKind) (rows : List (List Segment))
    (r : State) (va : Dword) (peer : Nat), Issues s b i →
    transferOf (s.group b.team b.group) i = some (a, align, kind) → (s.lpbOf b.team).det = false →
    (s.issued b).checkCopy (s.ctx b i) a align = (.rows rows, r) → rows.flatten ≠ [] →
    ((∀ g ∈ rows.flatten, (∃ x, g.dst = .peer peer x) ∧ g.src.remote = false) ∨
      ((∃ x y z, i = .xcpy x y z) ∧ ∀ g ∈ rows.flatten, (∃ x, g.src = .peer peer x) ∧ g.dst.remote = false)) →
    (∀ g ∈ groupsOf b, (s.group b.team g).counters.get 0 3 < 63) → s.engineBusy (clusterOf s.cur) = false → b.peer = some (true, va) →
    ∃ t, exec i s = .next t ∧ Leaves s t b i.len [] ∧ OnlyWords s t ∧ SameMemory s t ∧ Covers a 0 rows.flatten ∧
      t.ops = s.ops ++ [copyOp s b 3 (kind rows.flatten) true] ∧ (t.team b.team).exposed = true ∧
      (∀ g, (t.group b.team g).bare = countedUp b 3 true g (s.group b.team g).bare) ∧
      ∀ m ∈ b.members, t.thread b.team m.1 m.2 = (s.thread b.team m.1 m.2).afterWord b i.len (clockOf s)

/-- R47 to R53: a copy whose pieces share no byte that one of them writes, with nothing of its team under way and no poison in its source,
moves every source byte to its destination and no other byte of memory outside new undo entries, in one step (log 80); it is then recorded.
One with a remote side that a live port reaches does so at its answer. -/
def Sys2Proof.Claims.CopyMovesItsBytes : Prop :=
  ∀ (s : State) (o : Op), s.op o.id = some o → o.finished = false → o.rest = [] → (s.lpbOf o.team).det = false →
    ((∃ segs grant, o.kind = .copy segs grant) ∨ (o.remote = true ∧ ∃ segs, o.kind = .xcpy segs)) → Alone s o → Apart o.kind.segs →
    (o.remote = true → reached s o) →
    (∀ g ∈ o.kind.segs, ∀ k, k < g.len → s.memPoison (g.src.plus k) = false) →
    let n := (o.kind.segs.map (·.len)).sum
    (∀ g ∈ o.kind.segs, ∀ k, k < g.len → ¬inLog s n (g.src.plus k) ∧ (g.sb = none → ¬inLog s n (g.dst.plus k))) →
    ∃ t, exec (if o.remote then .remoteAck o.id true else .counterCompletion o.id) s = .next t ∧
      (∀ g ∈ o.kind.segs, ∀ k, k < g.len → landed t o.team g k = s.memByte (g.src.plus k)) ∧
      (∀ x, (∀ g ∈ o.kind.segs, g.sb = none → ¬((cell x).1 = (cell g.dst).1 ∧ (cell g.dst).2 ≤ (cell x).2 ∧
        (cell x).2 < (cell g.dst).2 + g.len)) → ¬inLog s n x → t.memByte x = s.memByte x) ∧
      Recorded s t o ∧ t.cores = s.cores ∧ t.launches = s.launches ∧ ∀ g l, t.thread o.team g l = s.thread o.team g l

/-- R53, R127: a gather, scatter or atomic with nothing of its own left is recorded; R439: a transfer that asked its remote side learns the
answer and is tried again; R353, R440: an XRED of one element, the first in the order of its window's rounds (log 75), combines it at the
peer, by the operation of R130. -/
def Sys2Proof.Claims.OperationsComplete : Prop :=
  (∀ (s : State) (o : Op), s.op o.id = some o → o.finished = false → (o.kind = .lanes ∨ o.kind = .atomics) →
    OnlyOp s o → (∀ f ∈ s.flights, f.op ≠ some o.id) → (∀ q ∈ s.awl, q.op ≠ o.id) →
    ∃ t, exec (.counterCompletion o.id) s = .next t ∧ Recorded s t o ∧ SameMemory s t ∧ t.flights = s.flights ∧ t.cores = s.cores ∧
      ∀ g l, t.thread o.team g l = s.thread o.team g l) ∧
  (∀ (s : State) (core : Nat) (b : Bundle) (accept : Bool) (va : Dword), (s.core core).bundle = some b → b.asked = true → b.peer = none →
    (∀ m ∈ b.peers, s.cutOff m = false) →
    exec (.peerCheckReply core accept va) s = .next (s.setBundle core (some { b with peer := some (accept, va), stalled := false }))) ∧
  ∀ (s : State) (o : Op) (g : Segment) (aop atype index : Nat) (n : Nat), s.op o.id = some o → o.finished = false → o.remote = true →
    o.kind = .xred [g] aop atype index → g.len = (if atype = 2 ∨ atype = 3 then 8 else 4) → Alone s o → o.rest = [] →
    comesFirst s o → reached s o →
    (s.lpbOf o.team).det = false → inRange g.dst g.len → (∃ m a, g.dst = .peer m a) → g.src.remote = false →
    (∀ k, k < g.len → s.memPoison (g.src.plus k) = false) →
    newValue ⟨0, 0, g.dst, 0, aop, atype, false, g.len, BitVec.ofNat 64 (leNat (s.memBytes g.src g.len)), 0, []⟩
      (leNat (s.memBytes g.dst g.len)) = some n →
    ∃ t, exec (.remoteAck o.id true) s = .next t ∧ Stored s t g.dst (leBytes g.len n) ∧ Recorded s t o

namespace Sys2Proof.Claims

/-! ### Collision queries (R237 to R239, R351) -/

/-- The nine query words of a lane, in registers v(q) on, or s(q − 0x80) on for all lanes, and the budget word. -/
def queryOf (s : State) (b : Bundle) (q : BitVec 8) (budget : BitVec 9) (m : Member) : List Word :=
  (List.range 9).map (fun k => if q.toNat < 0x80 then (s.thread b.team m.1 m.2).vGet (q.toNat + k)
    else (s.group b.team m.1).sGet (q.toNat - 0x80 + k)) ++ [(s.group b.team b.group).sGet budget.toNat]

def wordBytes (ws : List Nat) : List Byte := (ws.map (leBytes 4)).flatten

/-- One lane's query on its way to the sweep unit. -/
def sweepFlight (s : State) (b : Bundle) (d : BitVec 7) (p q : BitVec 8) (budget : BitVec 9) (n : Nat) (m : Member) : Flight :=
  { id := n, kind := .sweep, team := b.team, group := m.1, lane := m.2, reg := d.toNat,
    va := ((s.group b.team b.group).sPair (2 * p.toNat)).toNat, data := wordBytes ((queryOf s b q budget m).map (·.toNat)),
    pc := b.pc, pos := b.pos, akind := 7, word := s.nextId }

def sweepFlights (f : Nat → Member → Flight) : Nat → List Member → List Flight
  | _, [] => []
  | n, m :: r => f n m :: sweepFlights f (n + 1) r

/-- A binary32 bound lies at or below, or at or above, a number. -/
def below (lo : Nat) (v : ℚ) : Prop := lo = infinity fmtF32 true ∨ ∃ x, floatVal fmtF32 lo = some x ∧ x ≤ v
def above (hi : Nat) (v : ℚ) : Prop := hi = infinity fmtF32 false ∨ ∃ x, floatVal fmtF32 hi = some x ∧ v ≤ x

/-- lo ≤ hi of two bounds that are no NaN. -/
def boundsMeet (lo hi : Nat) : Prop :=
  lo = infinity fmtF32 true ∨ hi = infinity fmtF32 false ∨
    ∃ x y, floatVal fmtF32 lo = some x ∧ floatVal fmtF32 hi = some y ∧ x ≤ y

/-- A node with bounds lo and hi overlaps the query of nine words q (R238): the exact segment meets the box widened by h. -/
def nodeOverlaps (q lo hi : List Nat) : Prop :=
  (∃ x ∈ lo ++ hi, f32Nan x) ∨
    ((∀ k, k < 3 → boundsMeet (lo.getD k 0) (hi.getD k 0)) ∧
      ∃ t : ℚ, 0 ≤ t ∧ t ≤ 1 ∧ ∀ k, k < 3 → ∃ p0 p1, floatVal fmtF32 (q.getD k 0) = some p0 ∧
        floatVal fmtF32 (q.getD (3 + k) 0) = some p1 ∧
        below (fmtF32.fsub .rdn false (lo.getD k 0) (q.getD (6 + k) 0)).1 (p0 + t * (p1 - p0)) ∧
        above (fmtF32.fadd .rup false (hi.getD k 0) (q.getD (6 + k) 0)).1 (p0 + t * (p1 - p0)))

/-- The traversal of R239 over the words of a tree (W: the word at a byte offset), from a stack and a count of nodes seen: result code and
leaf. -/
inductive Traverses (W : Nat → Nat) (nnode budget : Nat) (q : List Nat) : List Nat → Nat → Nat × Nat → Prop
  | none (seen : Nat) : Traverses W nnode budget q [] seen (0, 0xFFFFFFFF)
  | budget (n : Nat) (r : List Nat) : Traverses W nnode budget q (n :: r) budget (2, 0xFFFFFFFF)
  | stale (n : Nat) (r : List Nat) (seen : Nat) (h : seen < budget) (hn : nnode ≤ n) :
    Traverses W nnode budget q (n :: r) seen (3, 0xFFFFFFFF)
  | miss (n : Nat) (r : List Nat) (seen : Nat) (v : Nat × Nat) (h : seen < budget) (hn : n < nnode)
    (ho : ¬nodeOverlaps q ((List.range 3).map (fun k => W (0x40 + 32 * n + 4 * k))) ((List.range 3).map (fun k => W (0x4C + 32 * n + 4 * k))))
    (hr : Traverses W nnode budget q r (seen + 1) v) : Traverses W nnode budget q (n :: r) seen v
  | hit (n : Nat) (r : List Nat) (seen : Nat) (h : seen < budget) (hn : n < nnode)
    (ho : nodeOverlaps q ((List.range 3).map (fun k => W (0x40 + 32 * n + 4 * k))) ((List.range 3).map (fun k => W (0x4C + 32 * n + 4 * k))))
    (hl : 2 ^ 31 ≤ W (0x58 + 32 * n)) : Traverses W nnode budget q (n :: r) seen (1, W (0x58 + 32 * n) % 2 ^ 31)
  | full (n : Nat) (r : List Nat) (seen : Nat) (h : seen < budget) (hn : n < nnode)
    (ho : nodeOverlaps q ((List.range 3).map (fun k => W (0x40 + 32 * n + 4 * k))) ((List.range 3).map (fun k => W (0x4C + 32 * n + 4 * k))))
    (hl : W (0x58 + 32 * n) < 2 ^ 31) (hs : 256 < r.length + 2) : Traverses W nnode budget q (n :: r) seen (2, 0xFFFFFFFF)
  | down (n : Nat) (r : List Nat) (seen : Nat) (v : Nat × Nat) (h : seen < budget) (hn : n < nnode)
    (ho : nodeOverlaps q ((List.range 3).map (fun k => W (0x40 + 32 * n + 4 * k))) ((List.range 3).map (fun k => W (0x4C + 32 * n + 4 * k))))
    (hl : W (0x58 + 32 * n) < 2 ^ 31) (hs : r.length + 2 ≤ 256)
    (hr : Traverses W nnode budget q (W (0x58 + 32 * n) :: W (0x5C + 32 * n) :: r) (seen + 1) v) :
    Traverses W nnode budget q (n :: r) seen v

/-- A query with a NaN or infinite component or a negative half-extent (R238). -/
def deadQuery (q : List Nat) : Prop :=
  (∃ x ∈ q, x / 2 ^ 23 % 2 ^ 8 = 255) ∨ ∃ x ∈ q.drop 6, 2 ^ 31 < x

end Sys2Proof.Claims

/-- R351: SWEEP with a legal budget and a 64-byte aligned tree hands each executing lane's nine query words and the budget to the sweep unit,
its results pending; no register, latch, counter or byte of memory changes. The bundle goes no further until the sweeps have read their
nodes, also at the end of its clause (log 35). -/
def Sys2Proof.Claims.SweepHandsOverTheQueries : Prop :=
  ∀ (s : State) (b : Bundle) (d : BitVec 7) (p q : BitVec 8) (budget : BitVec 9), Issues s b (.sweep d p q budget) →
    let n := ((s.group b.team b.group).sGet budget.toNat).toNat
    let tree := ((s.group b.team b.group).sPair (2 * p.toNat)).toNat
    1 ≤ n → n ≤ 65536 → tree < 2 ^ 52 → tree % 64 = 0 →
    ∃ t, exec (.sweep d p q budget) s = .next t ∧ Advances s t b 2 b.members ∧ SameMemory s t ∧ SameGroups s t b.team ∧
      t = { s with teams := t.teams, cores := t.cores, partitions := t.partitions, nextId := s.nextId + b.members.length,
                   flights := s.flights ++ sweepFlights (sweepFlight s b d p q budget) s.nextId b.members } ∧
      ∀ m ∈ b.members, t.thread b.team m.1 m.2 = s.thread b.team m.1 m.2

/-- R237 to R239: the traversal of a tree in fabric memory that no one changes gives the result of R239, with the exact box test of R238: the
first leaf the query meets, child 0 first, or NONE, BUDGET or STALE; an odd generation gives STALE. The result is pending in the
lane's two registers, and memory stands. Outside a DET launch. -/
def Sys2Proof.Claims.SweepFindsTheFirstLeaf : Prop :=
  ∀ (s : State) (f : Flight) (q : List Nat) (budget c base : Nat) (v : Nat × Nat), s.flight f.id = some f → f.kind = .sweep →
    f.performed = false → (s.lpbOf f.team).det = false → f.data = wordBytes (q ++ [budget]) → q.length = 9 → (∀ x ∈ q, x < 2 ^ 32) →
    1 ≤ budget → budget ≤ 65536 → (∀ g ∈ s.flights, g.id ≠ f.id → g.team ≠ f.team) →
    let W := fun off => leNat (s.memBytes (.fabric c (base + off)) 4)
    (∀ off, off < 0x40 + 32 * W 12 → off % 4 = 0 → ∀ n, n = 4 ∨ (n = 8 ∧ off = 0) →
      s.place (s.sweepCtx f) (f.group, f.lane) ((f.va + off : Nat) : Int) n .read false false true = (.ok (.mem (.fabric c (base + off))), s)) →
    (∀ off, s.memPoison (.fabric c (base + off)) = false) →
    (deadQuery q ∧ v = (0, 0xFFFFFFFF) ∨ ¬deadQuery q ∧ ∃ r, Traverses W (W 12) budget q [W 8] 0 r ∧
      v = if W 0 % 2 = 1 then (3, 0xFFFFFFFF) else r) →
    ∃ t, exec (.sweepResult f.id) s = .next t ∧ SameMemory s t ∧ t = { s with flights := t.flights, lines := t.lines } ∧
      t.flights = s.flights.map (fun g => if g.id = f.id then
        { f with performed := true, writes := [⟨f.reg, BitVec.ofNat 32 v.1, false⟩, ⟨f.reg + 1, BitVec.ofNat 32 v.2, false⟩] } else g)

namespace Sys2Proof.Claims

/-! ### Class X: matrix products (R251, R254 to R258, R355 to R358, R362 to R364, R369) -/

/-- The exact sum of the products of two lists of numbers. -/
def exactSum (xs : List (ℚ × ℚ)) : ℚ := (xs.map (fun p => p.1 * p.2)).sum

/-- A NaN of binary32 quieted. -/
def isNan32 (d : Nat) : Prop := d / 2 ^ 23 % 2 ^ 8 = 255 ∧ d % 2 ^ 23 ≠ 0

/-- Tile, accumulator and operands of a product word. -/
def productOf : Instr → Option (BitVec 4 × BitVec 4 × MatWord)
  | .mma d c x y e | .mmab d c x y e => some (d, c, ⟨x, y, e, false⟩)
  | .smma d c x y e => some (d, c, ⟨x, y, e, true⟩)
  | _ => none

/-- One element of the result: the blocks in rising order for T8 and T6, one block for BF16 and FP16 (R256, R257). An element that
is not kept is no term; a block's scale is the sum of the two scale exponents, none if one is the NaN scale. -/
def resultElement (fmt blk c : Nat) (kept : List Bool) (x y : List FVal) (sx sy : List (Option Int)) : Nat :=
  let terms := fun lo n => ((List.range n).filter (fun k => kept.getD (lo + k) false)).map
    (fun k => (x.getD (lo + k) (.zero false), y.getD (lo + k) (.zero false)))
  if fmt ≤ 1 then
    (List.range ((if fmt = 0 then 64 else 128) / blk)).foldl (fun d n =>
      blockT d (terms (n * blk) blk) (match sx.getD n (some 0), sy.getD n (some 0) with
        | some p, some q => some (p + q)
        | _, _ => none)) c
  else blockH c (terms 0 16)

/-- The bundle holds every thread of its groups that has not exited (R354). -/
def isFull (s : State) (b : Bundle) : Prop :=
  ∀ g ∈ groupsOf b, ∀ l, l < (s.lpbOf b.team).w → (s.thread b.team g l).status ≠ .exited → (g, l) ∈ b.members

/-- M, N and K of a word's shape register obey R362, and none is 0 (zero: one is). -/
def shapeOk (g : Group) (e : XExt) (zero : Bool) : Prop :=
  let v := (g.sGet e.dims.toNat).toNat
  let k := if e.fmt.toNat = 0 then 64 else if e.fmt.toNat = 1 then 128 else 16
  if e.dims = 0 then zero = false
  else v < 2 ^ 24 ∧ (v % 256 = 0 ∨ v % 256 = 32) ∧ (v / 256 % 256 = 0 ∨ v / 256 % 256 = 32) ∧ (v / 65536 % 256 = 0 ∨ v / 65536 % 256 = k) ∧
    (zero = true ↔ v % 256 = 0 ∨ v / 256 % 256 = 0 ∨ v / 65536 = 0)

/-- A tile as it is read: +0.0 in every element while V is 0 (R74). -/
def tileElement (a : Tile) (n : Nat) : Word := if a.v then a.val.elems.get 0 n else 0

/-- A tile with a result on its way: F set, the grants whose units its word holds (R79, R355). -/
def onItsWay (a : Tile) (v : Option TileVal) (held : List Nat) : Tile := { a with f := true, next := v, held := held, byLoad := false }

/-- A tile that holds no poison. -/
def tileClean (a : Tile) : Prop := a.v = false ∨ a.val.poison = []

/-- Of the team's groups, only the tile d of the bundle's group changes. -/
def OnlyTile (s t : State) (b : Bundle) (d : Nat) : Prop :=
  (t.team b.team).bare = (s.team b.team).bare ∧
  ∀ g, { (t.group b.team g).bare with tiles := [] } = { (s.group b.team g).bare with tiles := [] } ∧
    ∀ n, (g ≠ b.group ∨ n ≠ d) → t.tile b.team g n = s.tile b.team g n

/-- The word is counted as a word and as a matrix operation, and nothing else of a partition changes (R390). -/
def CountsMatrix (s t : State) : Prop :=
  ∀ p, { t.partition p with counters := [] } = { s.partition p with counters := [] } ∧
    ∀ k, (t.partition p).counters.get 0 k =
      (s.partition p).counters.get 0 k + (if p = partOf (clusterOf s.cur) ∧ (k = 2 ∨ k = 3) then 1 else 0)

/-- Every thread of the bundle goes on past the word. -/
def GoOnPast (s t : State) (b : Bundle) (len : Nat) : Prop :=
  ∀ m ∈ b.members, t.thread b.team m.1 m.2 = (s.thread b.team m.1 m.2).afterWord b len (clockOf s)

/-- An element of an operand in registers (R356). -/
def registerElement (s : State) (team g fmt f i k : Nat) : FVal :=
  let e := if fmt ≤ 1 then 1 else 2
  let rw := (if fmt = 0 then 64 else if fmt = 1 then 128 else 16) * e / 4
  let w := (s.lpbOf team).w
  let n := i * rw + k * e / 4
  let th := s.thread team g (n % w)
  let v := if th.status = .exited then 0 else (th.vGet (f + n / w)).toNat
  mmaElem fmt (v / 2 ^ (8 * (k * e % 4)) % 2 ^ (8 * e))

/-- Where row i of a Saddlebag operand begins, and the place of the scale of its element k (R357). -/
def sbRow (even odd qt i : Nat) : Nat := even / 2 ^ 8 % 2 ^ 18 + qt * (odd / 2 ^ 12 % 2 ^ 12) * 64 + i * (odd % 2 ^ 12)
def sbScale (r : Resv) (even odd qt e blk i k : Nat) : Nat :=
  let ro := sbRow even odd qt i
  let rowp := odd % 2 ^ 12
  r.r2.toNat % 2 ^ 18 + ro / rowp * (r.r2.toNat / 2 ^ 18 % 2 ^ 12) + (ro % rowp / e + k) / blk

end Sys2Proof.Claims

/-- R251, R255, R256: one block of a T8 or T6 element adds the exact sum of its products, scaled by a power of two, to the running
element and rounds once, to nearest even: an exact zero sum leaves the element; an infinite element stays; a NaN element is quieted, and a NaN
operand or scale gives 0x7FC00000. R257: a BF16 or FP16 element does the same with its 16 products and no scale. -/
def Obligations.MatrixBlockRoundsOnce : Prop :=
  (∀ (nb d : Nat) (cs : List (Nat × Nat)) (xs : List (ℚ × ℚ)) (sc : Option Int), (nb = 7 ∨ nb = 5) → d < 2 ^ 32 →
    let ts := cs.map (fun p => (decodeT nb p.1, decodeT nb p.2))
    (isNan32 d → blockT d ts sc = d ||| 2 ^ 22) ∧
    (¬isNan32 d → sc = none ∨ (∃ p ∈ cs, taperedVal nb p.1 = none ∨ taperedVal nb p.2 = none) → blockT d ts sc = 0x7FC00000) ∧
    (cs.map (fun p => (taperedVal nb p.1, taperedVal nb p.2)) = xs.map (fun p => (some p.1, some p.2)) → ∀ e, sc = some e →
      (d % 2 ^ 31 = 0x7F800000 → blockT d ts sc = d) ∧
      ∀ c, floatVal fmtF32 d = some c →
        (exactSum xs = 0 → blockT d ts sc = d) ∧
        (exactSum xs ≠ 0 → c + exactSum xs * 2 ^ e = 0 → blockT d ts sc = 0) ∧
        (c + exactSum xs * 2 ^ e ≠ 0 → IsRounding fmtF32 .rne (c + exactSum xs * 2 ^ e) (blockT d ts sc)))) ∧
  ∀ (f : Fmt) (d : Nat) (cs : List (Nat × Nat)) (xs : List (ℚ × ℚ)) (c : ℚ), (f = fmtBf16 ∨ f = fmtF16) → d < 2 ^ 32 →
    (∀ p ∈ cs, p.1 < 2 ^ 16 ∧ p.2 < 2 ^ 16) → floatVal fmtF32 d = some c →
    cs.map (fun p => (floatVal f p.1, floatVal f p.2)) = xs.map (fun p => (some p.1, some p.2)) →
    let r := blockH d (cs.map (fun p => (f.decode false p.1, f.decode false p.2)))
    (exactSum xs = 0 → r = d) ∧ (exactSum xs ≠ 0 → c + exactSum xs = 0 → r = 0) ∧
      (c + exactSum xs ≠ 0 → IsRounding fmtF32 .rne (c + exactSum xs) r)

/-- R356, R357, R253: where the elements of an operand in registers and of one in the Saddlebag stand, and its scales: byte E
stands for the exponent E − 127, 255 for the NaN scale, and an operand without scales has exponent 0. -/
def Sys2Proof.Claims.MatrixOperandsStandWhereNamed : Prop :=
  (∀ (s : State) (team g fmt f blk i k : Nat), fmt ≤ 3 → i < 32 → k < mmaK fmt →
    (((s.group team g).regOperand (s.lpbOf team).w fmt f blk).rows.getD i []).getD k (.zero false) =
      registerElement s team g fmt f i k) ∧
  ∀ (t : Team) (fmt even odd qt i k : Nat), fmt ≤ 3 → i < 32 → k < mmaK fmt → even < 2 ^ 32 → odd < 2 ^ 32 →
    let r := t.resvOf (even % 2 ^ 8)
    let e := if fmt ≤ 1 then 1 else 2
    let o := t.sbOperand fmt ⟨even, odd, qt⟩
    let ro := sbRow even odd qt i
    ((o.rows.getD i []).getD k (.zero false) =
      mmaElem fmt (if e = 1 then (t.sbByte r (ro + k)).toNat else (t.sbByte r (ro + 2 * k)).toNat + 256 * (t.sbByte r (ro + 2 * k + 1)).toNat)) ∧
    (fmt ≤ 1 → odd % 2 ^ 12 ≠ 0 → r.r0.toNat / 2 ^ 4 % 4 ≤ 2 → ro % (odd % 2 ^ 12) % r.blk = 0 →
      (o.scales.getD i []).getD (k / r.blk) none =
        if r.r0.getLsbD 6 then
          (if t.sbByte r (sbScale r even odd qt e r.blk i k) = 255 then none
            else some (((t.sbByte r (sbScale r even odd qt e r.blk i k)).toNat : Int) - 127))
        else some (0 : Int))

/-- R355, R362 to R364, R369: with a full bundle, a shape within R362 and operands that pass the checks of R358, MMA, MMAB and SMMA set F on ad
and send it the product added to ac (+0.0 under zi); an empty shape sends zeros, a copy of ac, or nothing; operands that fail trap
with their cause in every thread, the poisoned Saddlebag words among them counted (R390). No register, flag or latch changes. -/
def Sys2Proof.Claims.MatrixWordSendsTheProduct : Prop :=
  ∀ (s : State) (b : Bundle) (i : Instr) (d c : BitVec 4) (m : MatWord), Issues s b i → productOf i = some (d, c, m) → isFull s b →
    (m.e.zi = true ∨ tileClean (s.tile b.team b.group c.toNat)) →
    let acc := fun n => if m.e.zi then (0 : Word) else tileElement (s.tile b.team b.group c.toNat) n
    let g := s.group b.team b.group
    (∀ x y blk kept, shapeOk g m.e false → s.fetchMat b.team g m [0] = .ok (x, [y], blk, kept) →
      ∃ t v, exec i s = .next t ∧ Leaves s t b i.len [] ∧ CountsMatrix s t ∧ SameMemory s t ∧ OnlyTile s t b d.toNat ∧
        GoOnPast s t b i.len ∧
        t.tile b.team b.group d.toNat = onItsWay (s.tile b.team b.group d.toNat) (some v) (s.grantsOf b.team g m) ∧
        v.poison = [] ∧ ∀ p q, p < 32 → q < 32 → v.elems.get 0 (32 * p + q) =
          BitVec.ofNat 32 (resultElement m.fmt blk (acc (32 * p + q)).toNat (kept.getD p []) (x.rows.getD p []) (y.rows.getD q [])
            (x.scales.getD p []) (y.scales.getD q []))) ∧
    (shapeOk g m.e true →
      ∃ t v, exec i s = .next t ∧ Leaves s t b i.len [] ∧ CountsMatrix s t ∧ SameMemory s t ∧ OnlyTile s t b d.toNat ∧
        GoOnPast s t b i.len ∧
        t.tile b.team b.group d.toNat = onItsWay (s.tile b.team b.group d.toNat) v [] ∧
        (v = none ↔ m.e.zi = false ∧ d = c) ∧ ∀ u, v = some u → u.poison = [] ∧ ∀ n, u.elems.get 0 n = acc n) ∧
    ∀ k, shapeOk g m.e false → s.fetchMat b.team g m [0] = .error k →
      ∃ u, (u = s.issued b ∨ u = (s.issued b).count (partOf (clusterOf s.cur)) 9 (s.matPoison b.team g m [0])) ∧
        exec i s = .next (settle s.cur i.len b { s := u, traps := b.members.map (fun x => ⟨x, k, 0, 0⟩) })

namespace Sys2Proof.Claims

/-! ### Class X: tiles (R74, R354, R368, R370 to R372) -/

/-- A tile written at once: value, V and D (R370, R372). -/
def writtenTile (a : Tile) (v : TileVal) : Tile := { a with val := v, v := true, d := true }

/-- Magnitudes in the order of R368: by |x|, NaNs above infinity and all alike (log 42). -/
def magnitude (x : Word) : Nat := if 0x7F800000 < x.toNat % 2 ^ 31 then 0x7F800001 else x.toNat % 2 ^ 31

/-- Rows of sub-block h of a mask that keep column j. -/
def keeps (k : Mask) (h j : Nat) : Nat := ((List.range 4).filter (fun r => (k.getD (4 * h + r) 0).testBit j)).length

/-- A sub-block with a column that does not keep two. -/
def unsatisfied (k : Mask) (h u : Nat) : Prop := ∃ a, a < 4 ∧ keeps k h (4 * u + a) ≠ 2

/-- A thread's mask registers: how many, and which row register r of lane l holds. -/
def maskCount (w : Nat) : Nat := if w = 64 then 1 else 32 / w
def maskWord (k : Mask) (w r l : Nat) : Word := if w = 64 ∧ 32 ≤ l then 0 else BitVec.ofNat 32 (k.getD (r * w + l) 0)

/-- The pitch of a tile in memory: the operand's, or 32 elements where it is 0. -/
def pitchOf (s : State) (b : Bundle) (x : BitVec 8) (size : Nat) : Nat :=
  let v := sourceIn s b (lowest b) none x 32
  if v = 0 then 32 * size else v

/-- The address of element n of a tile in memory (R371). -/
def tileAddress (s : State) (b : Bundle) (p x : BitVec 8) (size n : Nat) : Nat :=
  ((s.group b.team b.group).sPair (2 * p.toNat)).toNat + n / 32 * pitchOf s b x size + n % 32 * size

/-- The type of a tile access: f32, f16 or bf16. -/
def tileTy (e : Option XExt) : ElemTy :=
  match e with
  | none => .f32
  | some x => if x.fmt = 10 then .f16 else if x.fmt = 11 then .bf16 else .f32

def tileBytes (e : Option XExt) : Nat := if tileTy e = .f32 then 4 else 2

/-- An element widened to binary32 exactly; a NaN keeps its payload at the top of the fraction (R247, R371). -/
def widened (ty : ElemTy) (x : Nat) : Nat :=
  let fb := if ty = .f16 then 10 else if ty = .bf16 then 7 else 23
  let eb := if ty = .f16 then 5 else 8
  if x / 2 ^ fb % 2 ^ eb = 2 ^ eb - 1 ∧ x % 2 ^ fb ≠ 0 then
    x / 2 ^ (eb + fb) % 2 * 2 ^ 31 + 255 * 2 ^ 23 + x % 2 ^ fb * 2 ^ (23 - fb)
  else (convert ty .f32 .rne false x).1

/-- The word is counted, and n poisoned units that it read; nothing else of a partition changes (R58, R390). -/
def CountsPoison (s t : State) (n : Nat) : Prop :=
  ∀ p, { t.partition p with counters := [] } = { s.partition p with counters := [] } ∧
    ∀ k, (t.partition p).counters.get 0 k = (s.partition p).counters.get 0 k +
      (if p = partOf (clusterOf s.cur) then (if k = 2 then 1 else if k = 9 then BitVec.ofNat 64 n else 0) else 0)

/-- A tile whose load is under way: F set, no Saddlebag units held (R371). -/
def loading (a : Tile) (v : TileVal) : Tile := { a with f := true, next := some v, held := [], byLoad := true }

/-- The poisoned units of memory that the elements of a tile lie in. -/
def unitsRead (s : State) (e : Option XExt) (ls : List (Nat × Place)) : Nat :=
  (((ls.map (·.2.loc)).filter (fun l => (List.range (tileBytes e)).any (fun k => s.memPoison (l.plus k)))).map (fun l =>
    ((cell l).1, (cell l).2 / unitOf l))).dedup.length

/-- The elements a tile load brings: each converted from its bytes; both of a poisoned 64-bit tile word are 0. -/
def isLoaded (s : State) (e : Option XExt) (ls : List (Nat × Place)) (v : TileVal) : Prop :=
  let bad := fun n => (List.range (tileBytes e)).any (fun k => s.memPoison ((ls.getD n (0, .image 0)).2.loc.plus k))
  ∀ n, n < 1024 →
    NatSet.has v.poison (n / 2) = (bad (n / 2 * 2) || bad (n / 2 * 2 + 1)) ∧
    v.elems.get 0 n = if bad (n / 2 * 2) || bad (n / 2 * 2 + 1) then 0
      else BitVec.ofNat 32 (widened (tileTy e)
        (leNat ((List.range (tileBytes e)).map (fun k => s.memByte ((ls.getD n (0, .image 0)).2.loc.plus k)))))

/-- Row i of a tile as it is stored. -/
def rowData (e : Option XExt) (a : Tile) (i : Nat) : List Byte :=
  ((List.range 32).map (fun j =>
    leBytes (tileBytes e) (convert .f32 (tileTy e) .rne false (tileElement a (32 * i + j)).toNat).1)).flatten

/-- The pieces of a stored tile, row by row, each inside a 64-byte line: address, location of its first element, bytes. -/
def rowPieces (e : Option XExt) (a : Tile) (ls : List (Nat × Place)) : List (Nat × Loc × List Byte) :=
  ((List.range 32).map (fun i =>
    let start := (ls.getD (32 * i) (0, .image 0)).1
    (linePieces start (rowData e a i)).map (fun p =>
      (p.1, (ls.getD (32 * i + (p.1 - start) / tileBytes e) (0, .image 0)).2.loc, p.2)))).flatten

/-- What a stored piece sends out. -/
def pieceFlight (s : State) (b : Bundle) (n : Nat) (q : Nat × Loc × List Byte) : Flight :=
  { id := s.nextId + n, kind := .store, team := b.team, group := (lowest b).1, lane := (lowest b).2, size := q.2.2.length, va := q.1,
    loc := q.2.1, data := q.2.2, pc := b.pc, pos := b.pos, akind := 8, word := s.nextId }

/-- The checks on the 1,024 elements of a tile. -/
def tileChecked (s : State) (b : Bundle) (i : Instr) (p x : BitVec 8) (e : Option XExt) (k : AccKind) : TileCheck × State :=
  (s.issued b).checkTile (s.ctx b i) p x (tileBytes e) k

end Sys2Proof.Claims

/-- R370, R372: TZERO writes +0.0, TMOV a copy of ac and TCVT its elements through the format and back, all with V = 1 and D = 1; TWAIT changes no
tile. They write no register and no latch, and nothing else changes. TSTAT writes V and D bits, then F bits, of the team's tiles. -/
def Sys2Proof.Claims.TileWordsWriteTheTile : Prop :=
  (∀ (s : State) (b : Bundle) (i : Instr) (d : BitVec 4) (v : TileVal), Issues s b i →
    (i = .tzero d ∧ v = {} ∨
      (∃ c, i = .tmov d c ∧ tileClean (s.tile b.team b.group c.toNat) ∧
        v = if (s.tile b.team b.group c.toNat).v then (s.tile b.team b.group c.toNat).val else {})) →
    ∃ t, exec i s = .next t ∧ Advances s t b i.len [] ∧ SameMemory s t ∧ OnlyTile s t b d.toNat ∧ GoOnPast s t b i.len ∧
      t.tile b.team b.group d.toNat = writtenTile (s.tile b.team b.group d.toNat) v) ∧
  (∀ (s : State) (b : Bundle) (d c : BitVec 4) (e : XExt) (ty : ElemTy), Issues s b (.tcvt d c e) →
    (e.fmt = 10 ∧ ty = .f16 ∨ e.fmt = 11 ∧ ty = .bf16 ∨ e.fmt = 12 ∧ ty = .t8 ∨ e.fmt = 13 ∧ ty = .t6) →
    tileClean (s.tile b.team b.group c.toNat) →
    ∃ t v, exec (.tcvt d c e) s = .next t ∧ Advances s t b 2 [] ∧ SameMemory s t ∧ OnlyTile s t b d.toNat ∧ GoOnPast s t b 2 ∧
      t.tile b.team b.group d.toNat = writtenTile (s.tile b.team b.group d.toNat) v ∧ v.poison = [] ∧
      ∀ n, n < 1024 → v.elems.get 0 n = BitVec.ofNat 32 (convert ty .f32 .rne false
        (convert .f32 ty .rne false (tileElement (s.tile b.team b.group c.toNat) n).toNat).1).1) ∧
  (∀ (s : State) (b : Bundle) (d : BitVec 4), Issues s b (.twait d) →
    ∃ t, exec (.twait d) s = .next t ∧ WordFrame s t b 1 ∧ SameUniform s t b.team ∧ GoOnPast s t b 1) ∧
  ∀ (s : State) (b : Bundle) (a : BitVec 8), Issues s b (.tstat a) →
    let bits := fun f : Tile → Bool => fromBits (s.lpbOf b.team).nt (fun n => f (s.tile b.team b.group n))
    let lo := BitVec.ofNat 32 (bits (fun x => x.v) + 2 ^ 16 * bits (fun x => x.d))
    let d := a.toNat - 0x80
    ∃ t, exec (.tstat a) s = .next t ∧ WordFrame s t b 1 ∧ UniformOnly s t b.team b.group [d, d + 1] ∧
      (t.group b.team b.group).sGet d = (if d = 0 then 0 else lo) ∧
      (t.group b.team b.group).sGet (d + 1) = BitVec.ofNat 32 (bits (fun x => x.f)) ∧ LatchEverywhere s t b (.tstat a) lo

/-- R354, R368: MSEARCH writes each executing lane its rows of the mask of the search, the unsatisfied rows and columns, and the first
mask word into the latch; ac stands. The mask keeps two of every four columns in every row; it starts from the two largest magnitudes, ties to
the lower column, NaNs alike (log 42); an exchange takes the lowest column above and below 2, and the row with the smallest magnitude dropped, then the largest
gained, then the lowest. -/
def Sys2Proof.Claims.MsearchWritesTheMask : Prop :=
  (∀ (s : State) (b : Bundle) (c : BitVec 4) (d : BitVec 8), Issues s b (.msearch c d) → isFull s b →
    tileClean (s.tile b.team b.group c.toNat) →
    let w := (s.lpbOf b.team).w
    let k := searchMask (fun i j => magnitude (tileElement (s.tile b.team b.group c.toNat) (32 * i + j)))
    ∃ t, exec (.msearch c d) s = .next t ∧ WordFrame s t b 1 ∧ SameUniform s t b.team ∧
      ∀ m ∈ b.members, ∃ y : Thread, t.thread b.team m.1 m.2 = y.afterWord b 1 (clockOf s) ∧
        (∀ r, r < maskCount w → y.vGet (d.toNat + r) = maskWord k w r m.2) ∧
        (∀ i, i < 32 → ((y.vGet (d.toNat + maskCount w)).getLsbD i = true ↔ ∃ u, u < 8 ∧ unsatisfied k (i / 4) u)) ∧
        (∀ j, j < 32 → ((y.vGet (d.toNat + maskCount w + 1)).getLsbD j = true ↔ ∃ h, h < 8 ∧ keeps k h j ≠ 2)) ∧
        (∀ n, (n < d.toNat ∨ d.toNat + maskCount w + 2 ≤ n) → y.vGet n = (s.thread b.team m.1 m.2).vGet n) ∧
        y.y.val.get 0 (b.ipos % 4) = maskWord k w 0 m.2 ∧
        { y with v := (s.thread b.team m.1 m.2).v, vPoison := (s.thread b.team m.1 m.2).vPoison,
                 y := (s.thread b.team m.1 m.2).y } = s.thread b.team m.1 m.2) ∧
  (∀ (mag : Nat → Nat → Nat) (i u : Nat), i < 32 → u < 8 →
    ((List.range 4).filter (fun a => ((searchMask mag).getD i 0).testBit (4 * u + a))).length = 2 ∧
    ∀ a, a < 4 → (((startMask mag).getD i 0).testBit (4 * u + a) = true ↔ ((List.range 4).filter (fun x =>
      decide (mag i (4 * u + a) < mag i (4 * u + x)) || (decide (mag i (4 * u + a) = mag i (4 * u + x)) && decide (x < a)))).length < 2)) ∧
  ∀ (mag : Nat → Nat → Nat) (k : Mask) (h u r j p : Nat), exchange mag k h u = some (r, j, p) →
    (u = j / 4 ∧ 2 < keeps k h j ∧ ∀ x, x / 4 = u → 2 < keeps k h x → j ≤ x) ∧
    (u = p / 4 ∧ keeps k h p < 2 ∧ ∀ x, x / 4 = u → keeps k h x < 2 → p ≤ x) ∧
    (r / 4 = h ∧ (k.getD r 0).testBit j = true ∧ (k.getD r 0).testBit p = false) ∧
    ∀ q, q / 4 = h → (k.getD q 0).testBit j = true → (k.getD q 0).testBit p = false →
      mag r j < mag q j ∨ (mag r j = mag q j ∧ (mag q p < mag r p ∨ (mag q p = mag r p ∧ r ≤ q)))

/-- R371, R372: a TLD whose rows pass and lie in memory, of a team outside DET launches with nothing in flight and no line of its cluster cached, sets F and sends the
tile its elements, widened, poisoned where a memory unit is. A TST whose rows pass and lie in memory, of a clean tile, sends out its rows in order, each
cut at 64-byte lines and narrowed to nearest even; memory changes when they are performed. -/
def Sys2Proof.Claims.TileAccessesMoveRows : Prop :=
  (∀ (s : State) (b : Bundle) (d : BitVec 4) (p x : BitVec 8) (e : Option XExt) (ls : List (Nat × Place)) (r : State),
    Issues s b (.tld d p x e) → (s.lpbOf b.team).det = false → tileChecked s b (.tld d p x e) p x e .read = (.locs ls, r) →
    (∀ l ∈ ls, ∃ q, l.2 = .mem q ∧ q.remote = false) → b.peer = none → (∀ f ∈ s.flights, f.team ≠ b.team) →
    (∀ k ∈ s.lines, k.cluster ≠ clusterOf s.cur) →
    ∃ t v, exec (.tld d p x e) s = .next t ∧ Leaves s t b (Instr.tld d p x e).len [] ∧ CountsPoison s t (unitsRead s e ls) ∧ SameMemory s t ∧
      OnlyTile s t b d.toNat ∧ GoOnPast s t b (Instr.tld d p x e).len ∧
      t.tile b.team b.group d.toNat = loading (s.tile b.team b.group d.toNat) v ∧
      ls.map (·.1) = (List.range 1024).map (tileAddress s b p x (tileBytes e)) ∧ isLoaded s e ls v) ∧
  ∀ (s : State) (b : Bundle) (d : BitVec 4) (p x : BitVec 8) (e : Option XExt) (ls : List (Nat × Place)) (r : State),
    Issues s b (.tst d p x e) → (s.lpbOf b.team).det = false → tileClean (s.tile b.team b.group d.toNat) →
    tileChecked s b (.tst d p x e) p x e .write = (.locs ls, r) → (∀ l ∈ ls, ∃ q, l.2 = .mem q ∧ q.remote = false) → b.peer = none →
    ∃ t, exec (.tst d p x e) s = .next t ∧ Advances s t b (Instr.tst d p x e).len [] ∧ SameMemory s t ∧ SameGroups s t b.team ∧
      GoOnPast s t b (Instr.tst d p x e).len ∧ ls.map (·.1) = (List.range 1024).map (tileAddress s b p x (tileBytes e)) ∧
      t.flights = s.flights ++ (rowPieces e (s.tile b.team b.group d.toNat) ls).mapIdx (pieceFlight s b)

/-- R74, R355, R372: when a result or a tile load arrives, the tile holds it with V = 1 and D = 1 and F = 0, and the units its word held are free;
an operation that leaves the tile alone only clears F. Nothing else of the machine changes. -/
def Sys2Proof.Claims.ResultsArriveInTheTile : Prop :=
  ∀ (s : State) (team g n : Nat) (i : Instr),
    (i = .matrixResult team g n ∧ (s.tile team g n).byLoad = false ∨ i = .tileLoadComplete team g n ∧ (s.tile team g n).byLoad = true) →
    (s.tile team g n).f = true →
    ∃ t, exec i s = .next t ∧ t = { s with teams := t.teams } ∧ (∀ k, k ≠ team → t.team k = s.team k) ∧
      (∀ k l, (k, l) ≠ (g, n) → t.tile team k l = s.tile team k l) ∧ (t.team team).bare = (s.team team).bare ∧
      (∀ k, { t.group team k with tiles := [] } = { s.group team k with tiles := [] }) ∧
      t.tile team g n = (match (s.tile team g n).next with
        | none => { s.tile team g n with f := false, held := [], byLoad := false }
        | some v => { val := v, v := true, d := true, f := false, next := none, held := [] })

namespace Sys2Proof.Claims

/-! ### Class X: reservations, GANG and MMAG (R77 to R79, R108, R359 to R361, R365 to R367) -/

/-- The four words of a record, which R77 accepts. -/
def recordOk (r : Nat → Word) : Prop :=
  let w := fun k => (r k).toNat
  w 0 % 2 ^ 4 < 4 ∧ w 0 / 2 ^ 4 % 4 ≠ 3 ∧ w 0 < 2 ^ 7 ∧ 1 ≤ w 1 ∧ w 1 ≤ 4096 ∧ w 2 < 2 ^ 30 ∧ w 3 < 2 ^ 28 ∧
    (w 0 / 2 ^ 6 = 1 → w 0 % 2 ^ 4 < 2 ∧ w 2 % 2 ^ 18 < 64 * w 1)

/-- The entry of an id shows a reservation; id 0 never does. -/
def shows (x : Team) (id : Nat) : Prop := 1 ≤ id ∧ (x.resv.get {} id).live = true

/-- Unit u belongs to no live reservation. -/
def unitFree (x : Team) (u : Nat) : Prop :=
  ∀ id, 1 ≤ id → id ≤ 15 → (x.resv.get {} id).live = true →
    ¬((x.resv.get {} id).unit ≤ u ∧ u < (x.resv.get {} id).unit + (x.resv.get {} id).r1.toNat % 2 ^ 13)

/-- SIZE units from u on are free, of the team's SBB/64. -/
def fits (s : State) (b : Bundle) (size u : Nat) : Prop :=
  u + size ≤ (s.lpbOf b.team).sbb / 64 ∧ ∀ k, k < size → unitFree (s.team b.team) (u + k)

/-- Units released but not yet returned: an operation that named them is still at work (R79). -/
def stillHeld (s : State) (b : Bundle) (r : Released) : Prop :=
  r ∈ (s.team b.team).released ∧ ((∃ o ∈ s.ops, o.team = b.team ∧ o.finished = false ∧ ∃ segs, o.kind = .copy segs (some r.grant)) ∨
    ∃ g n, g < (s.lpbOf b.team).groups ∧ n < 16 ∧
      (s.tile b.team g n).f = true ∧ r.grant ∈ (s.tile b.team g n).held)

/-- A team but for its groups, reservation table and Saddlebag. -/
def Team.unreserved (t : Team) : Team := { t.bare with resv := [], released := [], sb := [], sbWritten := [], sbPoison := [] }

/-- The bundle's word leaves everything but the team's reservations alone. -/
structure OnlyResv (s t : State) (b : Bundle) (i : Instr) : Prop extends Leaves s t b i.len [] where
  words : OnlyWords s t
  memory : SameMemory s t
  rest : Team.unreserved (t.team b.team) = Team.unreserved (s.team b.team)
  fixed : ∀ g, (t.group b.team g).fixed = (s.group b.team g).fixed

/-- The pair of a destination: low register 2p. -/
def PairIs (s t : State) (b : Bundle) (i : Instr) (p : BitVec 8) (lo hi : Word) : Prop :=
  UniformOnly s t b.team b.group [2 * p.toNat, 2 * p.toNat + 1] ∧
    (t.group b.team b.group).sGet (2 * p.toNat) = (if p = 0 then 0 else lo) ∧
    (t.group b.team b.group).sGet (2 * p.toNat + 1) = hi ∧ LatchEverywhere s t b i lo

/-- The groups a gang register lists: NG, then G(k). -/
def listed (g : Dword) : List Nat := (List.range (g.toNat % 16)).map (fun k => g.toNat / 2 ^ (8 * k + 8) % 256)

/-- A value of g that R365 accepts for a group x of a team of n groups. -/
def gangOk (g : Dword) (n x : Nat) : Prop :=
  2 ≤ g.toNat % 16 ∧ g.toNat % 16 ≤ 6 ∧ g.toNat / 16 % 16 = 0 ∧ g.toNat < 2 ^ 56 ∧ (∀ k ∈ listed g, k < n) ∧ (listed g).Nodup ∧
    (∀ k, g.toNat % 16 ≤ k → k < 6 → g.toNat / 2 ^ (8 * k + 8) % 256 = 0) ∧ x ∈ listed g

/-- The MMAG word at the bundle's position, as a group's rendezvous holds it. -/
def arrivalOf (s : State) (b : Bundle) (e : XExt) : Rendezvous :=
  ⟨(s.group b.team b.group).g, b.words.getD b.pos 0, e.toWord, b.header⟩

/-- A thread that waited at MMAG goes on at its next word. -/
def Thread.pastGang (x : Thread) (r : Rendezvous) (clk : Nat) : Thread :=
  if x.status = .blocked .mmag then
    (if (r.header.extractLsb' 28 4).toNat ≤ x.pos + 2 then
      { x with status := .ready, pc := x.pc + BitVec.ofNat 64 (4 * ((r.header.extractLsb' 28 4).toNat + 1)), pos := 0, y := {}, readyAt := clk }
    else { x with status := .ready, pos := x.pos + 2, readyAt := clk })
  else x

/-- The MMAG word of a listed group: its destination, its accumulator and its operands. -/
def gangOperands (r : Rendezvous) (d c : BitVec 4) (a b : BitVec 8) (e : XExt) : Prop :=
  decodeWords r.base (some r.ext) = .ok (.mmag d c a b e)

end Sys2Proof.Claims

/-- R77, R78, R360: RESV of an accepted record takes the lowest free id and the lowest run of free units, and writes id and record word 3;
without a free id it writes 0 and 1, without room 0 and 2, and changes nothing else. Units that an operation still uses make it wait, those that a
tile reads until its result arrives (log 42). -/
def Sys2Proof.Claims.ResvTakesTheLowestUnits : Prop :=
  ∀ (s : State) (b : Bundle) (p q : BitVec 8), Issues s b (.resv p q) →
    let r := fun k => (s.group b.team b.group).sGet (2 * q.toNat + k)
    let x := s.team b.team
    let size := (r 1).toNat
    recordOk r →
    ((∀ id, 1 ≤ id → id ≤ 15 → shows x id) → ∃ t, exec (.resv p q) s = .next t ∧ WordFrame s t b 1 ∧ PairIs s t b (.resv p q) p 0 1) ∧
    ((∃ id, 1 ≤ id ∧ id ≤ 15 ∧ ¬shows x id) → (∀ u, ¬fits s b size u) →
      ∃ t, exec (.resv p q) s = .next t ∧ WordFrame s t b 1 ∧ PairIs s t b (.resv p q) p 0 2) ∧
    ∀ id u, 1 ≤ id → id ≤ 15 → ¬shows x id → (∀ k, 1 ≤ k → k < id → shows x k) → fits s b size u → (∀ v, v < u → ¬fits s b size v) →
      ((∀ y, stillHeld s b y → y.unit + y.size ≤ u ∨ u + size ≤ y.unit) →
        ∃ t, exec (.resv p q) s = .next t ∧ OnlyResv s t b (.resv p q) ∧ PairIs s t b (.resv p q) p (BitVec.ofNat 32 id) (r 3) ∧
          (t.team b.team).resv.get {} id = ⟨true, r 0, r 1, r 2, r 3, u, s.nextId, (s.partition (partOf (clusterOf s.cur))).sbPast⟩ ∧
          (∀ k, k ≠ id → (t.team b.team).resv.get {} k = x.resv.get {} k) ∧
          ∀ o, NatSet.has (t.team b.team).sbWritten o =
            (NatSet.has x.sbWritten o && !decide (64 * u ≤ o ∧ o < 64 * (u + size)))) ∧
      ((∃ y, stillHeld s b y ∧ y.unit < u + size ∧ u < y.unit + y.size) →
        exec (.resv p q) s = .next (s.setBundle s.cur (some { b with stalled := true })))

open scoped Classical in
/-- R79, R361: RELS of an id with a reservation frees it at once and keeps its units until their operations have ended; without one it
traps ACCESS. RQRY writes record word 0 and SIZE, or 0, and the number of free units, and changes nothing else. -/
def Sys2Proof.Claims.RelsAndRqryReadTheTable : Prop :=
  (∀ (s : State) (b : Bundle) (p : BitVec 8), Issues s b (.rels p) →
    let id := ((s.group b.team b.group).sGet (2 * p.toNat)).toNat % 256
    let e := (s.team b.team).resv.get {} id
    (shows (s.team b.team) id →
      ∃ t, exec (.rels p) s = .next t ∧ OnlyResv s t b (.rels p) ∧ SameUniform s t b.team ∧ GoOnPast s t b 1 ∧
        (∀ k, (t.team b.team).resv.get {} k = if k = id then {} else (s.team b.team).resv.get {} k) ∧
        (t.team b.team).released = (s.team b.team).released ++ [⟨e.unit, e.r1.toNat % 2 ^ 13, e.grant⟩]) ∧
    (¬shows (s.team b.team) id → exec (.rels p) s = .next (settle s.cur 1 b
      { s := s.issued b, traps := b.members.map (fun m => ⟨m, .access, 0, 0⟩) }))) ∧
  ∀ (s : State) (b : Bundle) (p q : BitVec 8), Issues s b (.rqry p q) →
    let id := ((s.group b.team b.group).sGet (2 * q.toNat)).toNat % 256
    let e := (s.team b.team).resv.get {} id
    ∃ t, exec (.rqry p q) s = .next t ∧ WordFrame s t b 1 ∧ PairIs s t b (.rqry p q) p
      (if shows (s.team b.team) id then BitVec.ofNat 32 (e.r0.toNat % 2 ^ 7 + e.r1.toNat % 2 ^ 13 * 2 ^ 16) else 0)
      (BitVec.ofNat 32 ((List.range ((s.lpbOf b.team).sbb / 64)).filter (fun u => decide (unitFree (s.team b.team) u))).length)

/-- R365: GANG sets the group's g to its pair where the value obeys R365, and traps ILLEGAL_OPERAND with g unchanged otherwise. R366: a
group whose MMAG finds listed groups still missing, none of them gone or at odds with it, waits at the rendezvous and frees the slice. -/
def Sys2Proof.Claims.GangRegisterAndArrival : Prop :=
  (∀ (s : State) (b : Bundle) (p : BitVec 8), Issues s b (.gang p) →
    let v := (s.group b.team b.group).sPair (2 * p.toNat)
    (gangOk v (s.lpbOf b.team).groups b.group →
      ∃ t, exec (.gang p) s = .next t ∧ Advances s t b 1 [] ∧ SameMemory s t ∧ GoOnPast s t b 1 ∧
        ∀ g, (t.group b.team g).bare = if g = b.group then { (s.group b.team g).bare with g := v } else (s.group b.team g).bare) ∧
    (¬gangOk v (s.lpbOf b.team).groups b.group → exec (.gang p) s = .next (settle s.cur 1 b
      { s := s.issued b, traps := b.members.map (fun m => ⟨m, .illegalOperand, 0, 0⟩) }))) ∧
  ∀ (s : State) (b : Bundle) (d c : BitVec 4) (x y : BitVec 8) (e : XExt), Issues s b (.mmag d c x y e) → isFull s b →
    (s.group b.team b.group).g.toNat % 16 ≠ 0 →
    (∀ g q, (s.group b.team g).rendezvous = some q → g ≠ b.group →
      (b.group ∉ listed q.g ∧ g ∉ listed (s.group b.team b.group).g) ∨ (q.g = (s.group b.team b.group).g ∧ q.ext = e.toWord)) →
    (∀ g ∈ listed (s.group b.team b.group).g, g ≠ b.group → (s.group b.team g).rendezvous = none →
      ∃ l, l < (s.lpbOf b.team).w ∧ (s.thread b.team g l).status ≠ .exited ∧
        ∀ k, k < (s.lpbOf b.team).w → (s.thread b.team g k).status ≠ .handler ∧ (s.thread b.team g k).status ≠ .stopped) →
    (∃ g ∈ listed (s.group b.team b.group).g, g ≠ b.group ∧ (s.group b.team g).rendezvous = none) →
    ∃ t, exec (.mmag d c x y e) s = .next t ∧ SameMemory s t ∧ t.partitions = s.partitions ∧ (t.core s.cur).bundle = none ∧
      (∀ g, (t.group b.team g).bare = if g = b.group then
        { (s.group b.team g).bare with rendezvous := some (arrivalOf s b e) } else (s.group b.team g).bare) ∧
      (∀ g l, t.thread b.team g l = if (g, l) ∈ b.members then
        { s.thread b.team g l with status := .blocked .mmag, pc := b.pc, pos := b.pos } else s.thread b.team g l)

/-- R366, R258: the last listed group's MMAG completes the rendezvous: A, the shape and B come from position 0's word, each listed group at
position k has its own ad on its way to its own ac (or +0.0) plus A·B(k), B read at tile index k; the waiting threads of every group go on. -/
def Sys2Proof.Claims.RendezvousRunsInEveryGroup : Prop :=
  ∀ (s : State) (b : Bundle) (d c : BitVec 4) (x y : BitVec 8) (e : XExt) (rs : Nat → Rendezvous) (ds cs : Nat → BitVec 4)
    (xs ys : Nat → BitVec 8) (a : MatOperand) (bs : List MatOperand) (blk : Nat) (kept : List (List Bool)),
    Issues s b (.mmag d c x y e) → isFull s b → (∀ m ∈ b.members, m.1 = b.group) →
    let gs := listed (s.group b.team b.group).g
    gangOk (s.group b.team b.group).g (s.lpbOf b.team).groups b.group → rs b.group = arrivalOf s b e →
    (∀ g ∈ gs, g ≠ b.group → (s.group b.team g).rendezvous = some (rs g) ∧
      (rs g).g = (s.group b.team b.group).g ∧ (rs g).ext = e.toWord) →
    (∀ g q, (s.group b.team g).rendezvous = some q → g ∉ gs → b.group ∉ listed q.g) →
    (∀ g ∈ gs, gangOperands (rs g) (ds g) (cs g) (xs g) (ys g) e) →
    (s.group b.team b.group).rendezvous = none →
    let g0 := gs.headD 0
    shapeOk (s.group b.team g0) e false → (e.dims ≠ 0 → (s.group b.team g0).sBad e.dims.toNat = false) →
    s.fetchMat b.team (s.group b.team g0) ⟨xs g0, ys g0, e, false⟩ (List.range gs.length) = .ok (a, bs, blk, kept) →
    (∀ g ∈ gs, e.zi = true ∨ tileClean (s.tile b.team g (cs g).toNat)) →
    ∃ t, exec (.mmag d c x y e) s = .next t ∧ SameMemory s t ∧ GoOnPast s t b 2 ∧
      (∀ g ∈ gs, ∃ v, t.tile b.team g (ds g).toNat = onItsWay (s.tile b.team g (ds g).toNat) (some v)
          (s.grantsOf b.team (s.group b.team g0) ⟨xs g0, ys g0, e, false⟩) ∧
        ∀ p q, p < 32 → q < 32 → v.elems.get 0 (32 * p + q) = BitVec.ofNat 32 (resultElement e.fmt.toNat blk
          (if e.zi then 0 else tileElement (s.tile b.team g (cs g).toNat) (32 * p + q)).toNat (List.replicate (mmaK e.fmt.toNat) true)
          (a.rows.getD p []) ((bs.getD (gs.idxOf g) ⟨[], []⟩).rows.getD q []) (a.scales.getD p [])
          ((bs.getD (gs.idxOf g) ⟨[], []⟩).scales.getD q []))) ∧
      (∀ g ∈ gs, (t.group b.team g).rendezvous = none) ∧
      (∀ g n, (g ∉ gs ∨ n ≠ (ds g).toNat) → t.tile b.team g n = s.tile b.team g n) ∧
      ∀ g ∈ gs, g ≠ b.group → ∀ l, t.thread b.team g l = if l < (s.lpbOf b.team).w then
        Thread.pastGang (s.thread b.team g l) (rs g) (s.core (s.group b.team g).core).clk.toNat else s.thread b.team g l

namespace Sys2Proof.Claims

/-! ### Class Y (R210, R211, R222 to R224, R373 to R395) -/

/-- The counters of the list, of the partition of the word, have grown by one, and nothing else of a partition but its pool changes
(R390). -/
def Counts (s t : State) (ks : List Nat) : Prop :=
  ∀ p, { t.partition p with counters := [], pool := [] } = { s.partition p with counters := [], pool := [] } ∧
    ∀ k, (t.partition p).counters.get 0 k =
      (s.partition p).counters.get 0 k + (if p = partOf (clusterOf s.cur) ∧ k ∈ ks then 1 else 0)

/-- A poisoned page-table entry stood in the way of an event (R408): the tenant's fault comes next, and the event has no other effect. -/
def FaultsInstead (s t : State) (tn : Nat) : Prop :=
  s.hbmPoison ≠ [] ∧ t = { s with agenda := ⟨0, .event (.tenantFault tn)⟩ :: s.agenda }

/-- The counters of a LAUNCH that is accepted: words, launches, and the poisoned units that the n bytes read at q lie in (R58, R390). -/
def CountsLaunch (s t : State) (q : Loc) (n : Nat) : Prop :=
  let bad := (((List.range n).filter (fun k => s.memPoison (q.plus k))).map (fun k =>
    ((cell (q.plus k)).1, (cell (q.plus k)).2 / unitOf (q.plus k)))).dedup.length
  ∀ p, { t.partition p with counters := [], pool := [] } = { s.partition p with counters := [], pool := [] } ∧
    ∀ k, (t.partition p).counters.get 0 k = (s.partition p).counters.get 0 k +
      (if p = partOf (clusterOf s.cur) then (if k = 2 ∨ k = 11 then 1 else if k = 9 then BitVec.ofNat 64 bad else 0) else 0)

/-- A pair of uniform words as the result, and no other register (R294, R373). -/
def PairResult (s t : State) (b : Bundle) (i : Instr) (d : Nat) (lo hi : Word) : Prop :=
  UniformOnly s t b.team b.group [d, d + 1] ∧ (t.group b.team b.group).sGet d = (if d = 0 then 0 else lo) ∧
    (t.group b.team b.group).sGet (d + 1) = hi ∧ LatchEverywhere s t b i lo

/-- The words of a team's groups but for threads and uniform registers stand. -/
def SameFixed (s t : State) (team : Nat) : Prop := ∀ g, (t.group team g).fixed = (s.group team g).fixed

/-- The pool of a partition. -/
def poolEntry (s : State) (p e : Nat) : PoolEntry := (s.partition p).pool.get {} e

/-- A team after an accepted LAUNCH whose child took entry e of partition p (R375, R409). -/
def hasLaunched (x : Team) (p e : Nat) : Team :=
  { x with accepted := x.accepted + 1, handles := x.handles ++ [⟨x.accepted, p, e⟩], exposed := true }

/-- The team's open handle h. -/
def openHandle (s : State) (b : Bundle) (h : Nat) (k : Handle) : Prop :=
  (s.team b.team).handles.find? (fun q => q.handle == h) = some k

/-- E(NDIM − 1), and the row of a point (R202). -/
def lastExtent (u : Seam) (p : Lpb) : Nat := if u.ndim = 1 then p.e0 else if u.ndim = 2 then p.e1 else p.e2

/-- A position of a row counts as complete (R208). -/
def rowHas (r : SeamRow) (pos : Nat) : Prop := pos < r.prefixLen ∨ (pos < r.prefixLen + 64 ∧ r.window.getLsbD (pos - r.prefixLen) = true)

/-- SEAM.QRY's pair (R381). -/
def seamPair (s : State) (b : Bundle) (sel : Nat) : Nat × Nat :=
  let l := s.launchOf b.team
  let u := l.seamUnit
  let p := s.lpbOf b.team
  if p.seam = false then (0, 0)
  else match sel with
    | 0 => (leNat (u.bytes.take 4), p.e0 * p.e1 * p.e2 / lastExtent u p)
    | 1 => (p.e0, p.e1)
    | 2 => (p.e2, u.runcap)
    | 3 => if p.det then (0, 0) else (u.doneCount, u.doneCount / 2 ^ 32)
    | _ => if p.det then (0, 0)
      else ((u.rows.get {} ((s.team b.team).index / lastExtent u p)).prefixLen, u.running.length)

/-- The pair each status word writes, for a launch outside DET and inside it (R379, R381, R385, R390, R392, R394). -/
def statusPair (s : State) (b : Bundle) : Instr → Option (BitVec 9 × Word × Word)
  | .seamPos d => some (d,
      if (s.lpbOf b.team).seam then (BitVec.ofNat 32 (s.team b.team).index, BitVec.ofNat 32 ((s.team b.team).index / 2 ^ 32))
      else (BitVec.allOnes 32, BitVec.allOnes 32))
  | .seamQry d sel => some (d, BitVec.ofNat 32 (seamPair s b sel.toNat).1, BitVec.ofNat 32 (seamPair s b sel.toNat).2)
  | .skvGet d sel =>
    let p := s.partition (partOf (clusterOf s.cur))
    let k := s.core s.cur
    let cores := (List.range 30).map (fun j => 30 * partOf (clusterOf s.cur) + j)
    some (d, if (s.lpbOf b.team).det then (0, 0) else match sel.toNat with
      | 0 => (BitVec.ofNat 32 (p.counters.get 0 4).toNat, BitVec.ofNat 32 ((p.counters.get 0 4).toNat / 2 ^ 32))
      | 1 => (BitVec.ofNat 32 p.escalations.toNat, BitVec.ofNat 32 (p.escalations.toNat / 2 ^ 32))
      | 2 => (BitVec.ofNat 32 k.cstep, BitVec.ofNat 32 k.wcount)
      | _ => (BitVec.ofNat 32 (cores.filter (fun c => (s.core c).quar)).length, 0))
  | .feat d =>
    let f := if (s.lpbOf b.team).det then (s.lpbOf b.team).features else (s.core s.cur).feat
    some (d, BitVec.ofNat 32 f.toNat, BitVec.ofNat 32 (f.toNat / 2 ^ 32))
  | .pctr d all n =>
    let ps := if all = 1 then (List.range 64).filter (fun p => (s.partition p).valid && (s.partition p).tenant == (s.team b.team).tenant)
      else [partOf (clusterOf s.cur)]
    let v : Dword := if (s.lpbOf b.team).det then 0 else (ps.map (fun p => (s.partition p).counters.get 0 n.toNat)).foldl (· + ·) 0
    if (s.lpbOf b.team).det ∨ n.toNat ∈ [1, 2, 3, 4, 8, 9, 10, 11, 12] then
      some (d, BitVec.ofNat 32 v.toNat, BitVec.ofNat 32 (v.toNat / 2 ^ 32)) else none
  | _ => none

/-- An island set's slot. -/
def setOf (s : State) (tn k : Nat) : IslSlot := (s.tenant tn).slots.get {} k

/-- What each report word reports, in one thread (R382): slot, kind, first and second body. -/
def reportOf (x : Thread) : Instr → Option (Nat × Report)
  | .islLink v kind slot => some (slot.toNat, ⟨kind.toNat, (x.vGet v.toNat).toNat, (x.vGet (v.toNat + 1)).toNat⟩)
  | .islUnlink v slot => some (slot.toNat, ⟨2, (x.vGet v.toNat).toNat, (x.vGet (v.toNat + 1)).toNat⟩)
  | .islWake v slot => some (slot.toNat, ⟨3, (x.vGet v.toNat).toNat, 0⟩)
  | _ => none

/-- Ids that R224 accepts. -/
def reportOk (sl : IslSlot) (r : Report) : Prop := r.a < sl.desc.nbody ∧ (r.kind < 3 → r.b < sl.desc.nbody ∧ r.a ≠ r.b)

/-- The engine answers RETIRE at once (R220, R227, R235): the set is off or poisoned, or the island's gang has been retired. -/
def stepRetires (s : State) (b : Bundle) : Prop :=
  let sl := setOf s (s.team b.team).tenant (s.team b.team).slot
  sl.en = false ∨ sl.reenable = true ∨ sl.poisoned = true ∨
    ∃ x ∈ sl.islands, x.launch = some (s.team b.team).launch ∧ x.retired = true

/-- A thread stopped by HALT (R395). -/
structure Halted (x y : Thread) (nv : Nat) (header fall : Dword) : Prop where
  status : y.status = .stopped
  trap : y.trap.cause = 16 ∧ y.trap.rpos = 0 ∧ y.trap.lval = 0 ∧ y.trap.code = 0 ∧ y.trap.nest = false ∧ y.trap.dbg = true ∧
    y.trap.tva = header ∧ y.trap.trpc = fall ∧ (2 ≤ nv → y.trap.tsave0 = x.vGet (nv - 2)) ∧ y.trap.tsave1 = x.vGet (nv - 1)
  kept : y.v = x.v ∧ y.vPoison = x.vPoison ∧ y.flags = x.flags ∧ y.mode = x.mode ∧ y.draws = x.draws ∧ y.depth = x.depth ∧
    y.frames = x.frames ∧ y.y = {} ∧ y.crc = x.crc ∧ y.records = x.records

end Sys2Proof.Claims

/-- R197, R374: LAUNCH of an address that passes R36 (outside DET): beyond depth 24 it writes 2, with a full pool 1, each with 0xFFFFFFFF, and
makes no entry. Otherwise the 128 bytes enter the lowest free entry at the next depth, the pair is 0 and the team's next handle, and the
team is exposed. A page of the host or of a peer has answered that it accepts the read (R36, R38). -/
def Sys2Proof.Claims.LaunchEntersThePool : Prop :=
  ∀ (s : State) (b : Bundle) (d : BitVec 9) (p : BitVec 8) (q : Loc) (r : State), Issues s b (.launch d p) →
    (s.lpbOf b.team).det = false →
    (s.issued b).place (s.ctx b (.launch d p)) (lowest b) (((s.group b.team b.group).sPair (2 * p.toNat)).toNat : Int) 128 .read false false true =
      (.ok (.mem q), r) →
    (if q.remote then ∃ va, b.peer = some (true, va) else b.peer = none) →
    let part := partOf (s.team b.team).cluster
    let i := Instr.launch d p
    let depth := (s.launchOf b.team).depth + 1
    (24 < depth → ∃ t, exec i s = .next t ∧ Leaves s t b 1 [] ∧ OnlyWords s t ∧ SameMemory s t ∧ SameFixed s t b.team ∧
      (t.team b.team).bare = (s.team b.team).bare ∧ t.launches = s.launches ∧ PairResult s t b i d.toNat 2 0xFFFFFFFF) ∧
    (depth ≤ 24 → (∀ e, e < 4096 → (poolEntry s part e).live = true) →
      ∃ t, exec i s = .next t ∧ Leaves s t b 1 [] ∧ Counts s t [2, 12] ∧ SameMemory s t ∧ SameFixed s t b.team ∧
        (t.team b.team).bare = (s.team b.team).bare ∧ t.launches = s.launches ∧ PairResult s t b i d.toNat 1 0xFFFFFFFF) ∧
    ∀ e, depth ≤ 24 → e < 4096 → (poolEntry s part e).live = false → (∀ k, k < e → (poolEntry s part k).live = true) → fenced s b 1 →
      ∃ t, exec i s = .next t ∧ Leaves s t b 1 [] ∧ CountsLaunch s t q 128 ∧ SameMemory s t ∧ SameFixed s t b.team ∧
        PairResult s t b i d.toNat 0 (BitVec.ofNat 32 (s.team b.team).accepted) ∧
        (∀ n k, poolEntry t n k = if n = part ∧ k = e then ⟨true, s.memBytes q 128, (s.team b.team).launch, depth,
            (s.team b.team).index, (s.team b.team).accepted, false, false, 0, 0, 0, s.nextId⟩ else poolEntry s n k) ∧
        (t.team b.team).bare = hasLaunched (s.team b.team).bare part e ∧
        ∀ n, t.launch n = if n = (s.team b.team).launch then { s.launch n with children := (s.launch n).children + 1 } else s.launch n

/-- R376: LWAIT on an open handle whose child has completed closes the handle, lets its entry go, clears the cluster's global-line cache and
sends its registers STATUS and TEAMS; while the child runs its threads wait with STATE 3; a handle that is not open traps. R377: LSTAT writes the
status (0 while the child runs) and the free entries of the pool, and changes nothing else. -/
def Sys2Proof.Claims.HandlesReportTheChild : Prop :=
  (∀ (s : State) (b : Bundle) (d : BitVec 9) (r : BitVec 8), Issues s b (.lwait d r) →
    let h := ((s.group b.team b.group).sGet r.toNat).toNat
    (∀ k, openHandle s b h k → (poolEntry s k.partition k.entry).status ≠ 0 → fenced s b 0 →
      let e := poolEntry s k.partition k.entry
      ∃ t, exec (.lwait d r) s = .next t ∧ Leaves s t b 1 [] ∧ Counts s t [2] ∧ SameMemory s t ∧ SameGroups s t b.team ∧ GoOnPast s t b 1 ∧
        (t.team b.team).bare = { (s.team b.team).bare with handles := (s.team b.team).handles.filter (fun q => q.handle != k.handle) } ∧
        (∀ n x, poolEntry t n x = if n = k.partition ∧ x = k.entry then (if e.taken then {} else { e with closed := true })
          else poolEntry s n x) ∧
        t.lines = s.lines.filter (fun x => x.cluster != clusterOf s.cur) ∧
        t.flights = s.flights ++ [popFlight s b
          [⟨d.toNat, BitVec.ofNat 32 e.status, false⟩, ⟨d.toNat + 1, BitVec.ofNat 32 e.teams, false⟩]]) ∧
    (∀ k, openHandle s b h k → (poolEntry s k.partition k.entry).status = 0 →
      ∃ t, exec (.lwait d r) s = .next t ∧ SameMemory s t ∧ SameGroups s t b.team ∧ (t.core s.cur).bundle = none ∧ t.partitions = s.partitions ∧
        (t.team b.team).bare = (s.team b.team).bare ∧
        ∀ g l, t.thread b.team g l = if (g, l) ∈ b.members then
          { s.thread b.team g l with status := .blocked .lwait, pc := b.pc, pos := b.pos } else s.thread b.team g l) ∧
    ((∀ k, ¬openHandle s b h k) → exec (.lwait d r) s = .next (settle s.cur 1 b
      { s := s.issued b, traps := b.members.map (fun m => ⟨m, .illegalOperand, 0, 0⟩) }))) ∧
  ∀ (s : State) (b : Bundle) (d : BitVec 9) (r : BitVec 8) (k : Handle), Issues s b (.lstat d r) →
    openHandle s b ((s.group b.team b.group).sGet r.toNat).toNat k →
    ∃ t, exec (.lstat d r) s = .next t ∧ WordFrame s t b 1 ∧ PairResult s t b (.lstat d r) d.toNat
      (BitVec.ofNat 32 (poolEntry s k.partition k.entry).status)
      (BitVec.ofNat 32 (4096 - ((s.partition (partOf (s.team b.team).cluster)).pool.filter (fun e => e.2.live)).length))

/-- R379, R381, R385, R387, R390, R392, R394: the status words write their pair, the low word into the latch, and change nothing else; in a
DET launch what depends on placement or time reads 0. A counter of time or energy has moved on by an amount that the model leaves free (log
9). STAMP.GET writes each thread its digest so far, 0 outside a DET launch. -/
def Obligations.StatusWordsWriteTheirPair : Prop :=
  (∀ (s : State) (b : Bundle) (i : Instr) (d : BitVec 9) (lo hi : Word), Issues s b i → statusPair s b i = some (d, lo, hi) →
    ∃ t, exec i s = .next t ∧ WordFrame s t b i.len ∧ PairResult s t b i d.toNat lo hi) ∧
  (∀ (s : State) (b : Bundle) (d : BitVec 9) (sel slot : BitVec 4), Issues s b (.islInfo d sel slot) →
    let x := setOf s (s.team b.team).tenant slot.toNat
    x.active = true →
    ∃ t, exec (.islInfo d sel slot) s = .next t ∧ WordFrame s t b 1 ∧ PairResult s t b (.islInfo d sel slot) d.toNat
      (match sel.toNat with
        | 0 => BitVec.ofNat 32 x.snapStep.toNat | 1 => BitVec.ofNat 32 x.desc.nbody
        | 2 => BitVec.ofNat 32 x.snapAwake | _ => BitVec.ofNat 32 x.snapLinks)
      (match sel.toNat with
        | 0 => BitVec.ofNat 32 (x.snapStep.toNat / 2 ^ 32) | 1 => BitVec.ofNat 32 x.snapP
        | 2 => BitVec.ofNat 32 x.snapAsleep | _ => BitVec.ofNat 32 x.snapFrozen)) ∧
  (∀ (s : State) (b : Bundle) (d : BitVec 9) (all : BitVec 1) (n : BitVec 7), Issues s b (.pctr d all n) → (s.lpbOf b.team).det = false →
    n.toNat ∈ [0, 5, 6, 7, 13, 14, 15] →
    let ps := if all = 1 then (List.range 64).filter (fun p => (s.partition p).valid && (s.partition p).tenant == (s.team b.team).tenant)
      else [partOf (clusterOf s.cur)]
    ∃ t, exec (.pctr d all n) s = .next t ∧ Leaves s t b 1 [] ∧ SameMemory s t ∧ SameFixed s t b.team ∧
      (t.team b.team).bare = (s.team b.team).bare ∧
      (∀ p k, (k ≠ n.toNat ∨ p ∉ ps) → (t.partition p).counters.get 0 k =
        (s.partition p).counters.get 0 k + (if p = partOf (clusterOf s.cur) ∧ k = 2 then 1 else 0)) ∧
      let v : Dword := (ps.map (fun p => (t.partition p).counters.get 0 n.toNat)).foldl (· + ·) 0
      PairResult s t b (.pctr d all n) d.toNat (BitVec.ofNat 32 v.toNat) (BitVec.ofNat 32 (v.toNat / 2 ^ 32))) ∧
  ∀ (s : State) (b : Bundle) (v : BitVec 7), Issues s b (.stampGet v) →
    let digest := fun m : Member => if (s.lpbOf b.team).det then (s.thread b.team m.1 m.2).crc ^^^ BitVec.allOnes 64 else 0
    ∃ t, exec (.stampGet v) s = .next t ∧ WordFrame s t b 1 ∧ SameUniform s t b.team ∧ ∀ m ∈ b.members,
      ∃ y, LaneResult (s.thread b.team m.1 m.2) y b.ipos false v.toNat (BitVec.ofNat 32 (digest m).toNat)
          (some (BitVec.ofNat 32 ((digest m).toNat / 2 ^ 32))) 0 ∧
        t.thread b.team m.1 m.2 = y.afterWord b 1 (clockOf s)

/-- R211, R380: SEAM.DONE has no effect outside a seam launch and for groups that are done. From a full bundle, its threads' accesses performed,
it marks its groups done and exposes the team; with the team's last group the point completes: its row counts it, DONECOUNT grows, its
running-list entry is marked. -/
def Obligations.SeamDoneCompletesThePoint : Prop :=
  ∀ (s : State) (b : Bundle), Issues s b .seamDone →
    ((s.lpbOf b.team).seam = false ∨ (isFull s b ∧ ∀ g ∈ groupsOf b, (s.group b.team g).done = true) →
      ∃ t, exec .seamDone s = .next t ∧ WordFrame s t b 1 ∧ SameUniform s t b.team ∧ GoOnPast s t b 1) ∧
    ((s.lpbOf b.team).seam = true → isFull s b → (∃ g ∈ groupsOf b, (s.group b.team g).done = false) → fenced s b 1 →
      let all := ∀ g, g < (s.lpbOf b.team).groups → g ∈ groupsOf b ∨ (s.group b.team g).done = true
      let u := (s.launchOf b.team).seamUnit
      let ix := (s.team b.team).index
      let row := ix / lastExtent u (s.lpbOf b.team)
      let pos := ix % lastExtent u (s.lpbOf b.team)
      ∃ t, exec .seamDone s = .next t ∧ Leaves s t b 1 [] ∧ SameUniform s t b.team ∧ GoOnPast s t b 1 ∧ (t.team b.team).exposed = true ∧
        (∀ g, (t.group b.team g).bare = if g ∈ groupsOf b then { (s.group b.team g).bare with done := true } else (s.group b.team g).bare) ∧
        (¬all → SameMemory s t ∧ t.launches = s.launches ∧ (t.team b.team).pointDone = (s.team b.team).pointDone) ∧
        (all → (s.team b.team).pointDone = false → ¬rowHas (u.rows.get {} row) pos →
          pos < (u.rows.get {} row).prefixLen + 64 →
          (t.team b.team).pointDone = true ∧
          let v := (t.launchOf b.team).seamUnit
          v.doneCount = u.doneCount + 1 ∧ v.seq = u.seq + 1 ∧
          (∀ p, rowHas (v.rows.get {} row) p ↔ rowHas (u.rows.get {} row) p ∨ p = pos) ∧
          (∀ k, k ≠ row → v.rows.get {} k = u.rows.get {} k) ∧
          v.running = u.running.map (fun r => if r.index = ix then { r with done := true } else r)))

/-- R224, R382: ISL.LINK, ISL.UNLINK and ISL.WAKE to an active set send one report of each executing thread's own registers towards the engine;
a thread whose ids R224 refuses traps ILLEGAL_OPERAND alone. They write no register and no latch. -/
def Sys2Proof.Claims.ReportWordsSendReports : Prop :=
  open scoped Classical in
  ∀ (s : State) (b : Bundle) (i : Instr) (slot : Nat) (r : Member → Report), Issues s b i →
    (∀ m ∈ b.members, reportOf (s.thread b.team m.1 m.2) i = some (slot, r m)) →
    let tn := (s.team b.team).tenant
    (setOf s tn slot).active = true →
    let sentBy := fun m => (⟨tn, slot, r m, partOf (clusterOf s.cur), (s.team b.team).island.isSome && (s.team b.team).slot == slot⟩ : Sent)
    ((∀ m ∈ b.members, reportOk (setOf s tn slot) (r m)) →
      ∃ t, exec i s = .next t ∧ Advances s t b 1 [] ∧ SameMemory s t ∧ SameGroups s t b.team ∧ GoOnPast s t b 1 ∧
        t.sent = s.sent ++ b.members.map sentBy ∧ t.tenants = s.tenants) ∧
    exec i s = .next (settle s.cur 1 b
      { s := { s.issued b with sent := s.sent ++ (b.members.filter (fun m => decide (reportOk (setOf s tn slot) (r m)))).map sentBy },
        traps := (b.members.filter (fun m => decide (¬reportOk (setOf s tn slot) (r m)))).map (fun m => ⟨m, .illegalOperand, 0, 0⟩) })

/-- R383: in an island gang, ISL.STEP of a full bundle records the group's arrival and its threads wait with STATE 3 (the answer RETIRE is
there at once where the set is off or poisoned); reissued with its result it writes the result, as a uniform word. R384: ISL.STILL marks
the team still. -/
def Sys2Proof.Claims.StepWordsArriveAndAnswer : Prop :=
  open scoped Classical in
  (∀ (s : State) (b : Bundle) (d : BitVec 9), Issues s b (.islStep d) → isFull s b → (s.team b.team).island ≠ none →
    (∀ r, (s.group b.team b.group).result = some r →
      ∃ t, exec (.islStep d) s = .next t ∧ Advances s t b 1 [] ∧ SameMemory s t ∧ UniformOnly s t b.team b.group [d.toNat] ∧
        (t.group b.team b.group).sGet d.toNat = (if d = 0 then 0 else BitVec.ofNat 32 r) ∧
        (∀ g, (t.group b.team g).fixed = if g = b.group then { (s.group b.team g).fixed with result := none } else (s.group b.team g).fixed) ∧
        LatchEverywhere s t b (.islStep d) (BitVec.ofNat 32 r)) ∧
    ((s.group b.team b.group).result = none →
      ∃ t, exec (.islStep d) s = .next t ∧ SameMemory s t ∧ t.partitions = s.partitions ∧ (t.core s.cur).bundle = none ∧
        (∀ g, (t.group b.team g).bare = if g = b.group then
          { (s.group b.team g).bare with arrived := true, result := if stepRetires s b then some 1 else none } else (s.group b.team g).bare) ∧
        ∀ g l, t.thread b.team g l = if (g, l) ∈ b.members then
          { s.thread b.team g l with status := .blocked .step, pc := b.pc, pos := b.pos } else s.thread b.team g l)) ∧
  ∀ (s : State) (b : Bundle), Issues s b .islStill → (s.team b.team).island ≠ none →
    ∃ t, exec .islStill s = .next t ∧ Leaves s t b 1 [] ∧ OnlyWords s t ∧ SameMemory s t ∧ SameGroups s t b.team ∧ GoOnPast s t b 1 ∧
      (t.team b.team).bare = { (s.team b.team).bare with still := true }

/-- R386: STAMP.MIX completes in every thread: in a DET launch it appends one record, 01, seven 0, 03 and the thread's own value, to its digest and
counts it; outside one it has no effect. It writes no latch. A thread whose a is poisoned traps POISON_READ instead. -/
def Obligations.StampMixAddsARecord : Prop :=
  (∀ (s : State) (b : Bundle) (a : BitVec 8), Issues s b (.stampMix a) →
    ∃ t, exec (.stampMix a) s = .next t ∧ WordFrame s t b 1 ∧ SameUniform s t b.team ∧
      ∀ m ∈ b.members, let x := s.thread b.team m.1 m.2
        let record : List Byte := [1, 0, 0, 0, 0, 0, 0, 0, 3] ++ leBytes 4 (wordIn s b m a).toNat
        t.thread b.team m.1 m.2 = (if (s.lpbOf b.team).det then { x with crc := crcFrom x.crc record, records := (x.records + 1) % 2 ^ 32 }
          else x).afterWord b 1 (clockOf s)) ∧
  ∀ (s : State) (b : Bundle) (a : BitVec 8), (s.core s.cur).bundle = some b → b.members ≠ [] → b.members.Nodup → Unheld s b →
    let i := Instr.stampMix a
    let u := useOf (s.lpbOf b.team).w i
    let bad := fun m : Member => s.ownCause b.team u m = some .poisonRead
    (∀ m ∈ b.members, bad m ∨ s.ownCause b.team u m = none) → (∀ k, ¬FailsFirst s b i k) → s.waits b u = false →
    s.waits { b with members := b.members.filter (fun m => decide (¬bad m)) } u = false →
    (∀ m ∈ b.members, (s.thread b.team m.1 m.2).inTrap = false) → noRendezvous s b.team →
    ∃ t, exec i s = .next t ∧ ∀ m ∈ b.members, bad m → trappedAs s t b m .poisonRead 0 0 b.pc b.pos

/-- R389: EVTPOST completes: it advances the post count; without EN the record is discarded, in a full ring it is dropped and counted. Else its
32 bytes are written, SEQ last, TAIL advances and the message follows, or a fault of the write clears EN, or a poisoned page-table entry has it
left unwritten for the tenant's fault; in a ring of open fabric bytes they are written. Its team is exposed. -/
def Obligations.EventPostsWriteTheirRecord : Prop :=
  ∀ (s : State) (b : Bundle) (p : BitVec 9) (code : BitVec 8), Issues s b (.evtpost p code) → (∀ f ∈ s.flights, f.team ≠ b.team) →
    let tn := (s.team b.team).tenant
    let x := s.tenant tn
    let seq : Word := if x.evSeq + 1 = 0 then 1 else x.evSeq + 1
    let posted : Tenant := { x with evSeq := seq, evTail := (x.evTail + 1) % 2 ^ x.evLog }
    ∃ t, exec (.evtpost p code) s = .next t ∧ Leaves s t b 1 [] ∧ SameGroups s t b.team ∧ GoOnPast s t b 1 ∧
      (t.team b.team).exposed = true ∧ (t.tenant tn).evSeq = seq ∧ (∀ k, k ≠ tn → t.tenant k = s.tenant k) ∧
      (x.evEn = false → Counts s t [2, 10] ∧ SameMemory s t ∧ t.tenant tn = { x with evSeq := seq } ∧ t.notices = s.notices) ∧
      (x.evEn = true → (x.evTail + 1) % 2 ^ x.evLog = x.evHead → Counts s t [2, 10] ∧ SameMemory s t ∧ t.notices = s.notices ∧
        t.tenant tn = { x with evSeq := seq, evOverflow := true, evDrops := min (x.evDrops + 1) 0xFFFF }) ∧
      (x.evEn = true → (x.evTail + 1) % 2 ^ x.evLog ≠ x.evHead →
        ((t.tenant tn = posted ∧ t.notices = s.notices ++ [.msix tn x.evVec]) ∨
          (t.tenant tn = { x with evSeq := seq, evFault := true, evEn := false } ∧ t.notices = s.notices) ∨
          (s.hbmPoison ≠ [] ∧ t.tenant tn = { x with evSeq := seq } ∧ t.notices = s.notices ∧ SameMemory s t ∧
            (⟨0, .event (.tenantFault tn)⟩ : Turn) ∈ t.agenda)) ∧
        ∀ c base, (∀ k, k < 32 → (s.access (clusterOf s.cur) tn ((x.evBase.toNat + 32 * x.evTail + k : Nat) : Int) 1 .write false true).1 =
            .ok (.fabric c (base + k)) ∧ s.guardedRange c (base + k) 1 = false) →
          let pay := (s.group b.team b.group).sPair p.toNat
          let tid := (lowest b).1 * (s.lpbOf b.team).w + (lowest b).2
          let record := leBytes 4 seq.toNat ++ [BitVec.ofNat 8 code.toNat, 0, 0, 0] ++ leBytes 8 pay.toNat ++
            leBytes 8 (s.team b.team).index ++ leBytes 4 tid ++ leBytes 4 0
          t.tenant tn = posted ∧ t.notices = s.notices ++ [.msix tn x.evVec] ∧
          ∀ l, t.memByte l = if (cell l).1 = 0 ∧ c * 2 ^ 23 + base ≤ (cell l).2 ∧ (cell l).2 < c * 2 ^ 23 + base + 32 then
            record.getD ((cell l).2 - (c * 2 ^ 23 + base)) 0 else s.memByte l)

/-- R395: HALT completes in every thread that is not in trap state: it stops for the debugger with cause BREAK at the fall-through header, and is
reported. -/
def Obligations.HaltStopsItsThreads : Prop :=
  ∀ (s : State) (b : Bundle), Issues s b .halt → (∀ m ∈ b.members, (s.thread b.team m.1 m.2).inTrap = false) → noRendezvous s b.team →
    ∃ t, exec .halt s = .next t ∧ SameMemory s t ∧ SameUniform s t b.team ∧ OnlyWords s t ∧ (t.core s.cur).bundle = none ∧
      (∀ g l, (g, l) ∉ b.members → t.thread b.team g l = s.thread b.team g l) ∧
      t.notices = s.notices ++ b.members.map (fun m => .halted (s.team b.team).launch b.team m.1 m.2) ∧
      ∀ m ∈ b.members, Halted (s.thread b.team m.1 m.2) (t.thread b.team m.1 m.2) (s.lpbOf b.team).nv b.pc (nextHeader b)

namespace Sys2Proof.Claims

/-! ### Registers (R7, R17, R18, R34, R35, R187, R188, R388, R399, R404, R423) -/

/-- A tenant with one change, and the rest of the machine as it was. -/
def TenantNow (s t : State) (tn : Nat) (x : Tenant) : Prop :=
  t.tenant tn = x ∧ (∀ k, k ≠ tn → t.tenant k = s.tenant k) ∧ t = { s with tenants := t.tenants }

/-- The virtual function fn shows the registers of tenant tn: its partition is valid and the tenant's lowest (R187). -/
def showsTenant (s : State) (fn tn : Nat) : Prop :=
  1 ≤ fn ∧ fn ≤ 64 ∧ (s.partition (fn - 1)).valid = true ∧ (s.partition (fn - 1)).tenant = tn ∧
    ∀ p, p < fn - 1 → ¬((s.partition p).valid = true ∧ (s.partition p).tenant = tn)

/-- Bits [hi:lo] of a value, in place. -/
def inPlace (v hi lo : Nat) : Nat := v / 2 ^ lo % 2 ^ (hi + 1 - lo) * 2 ^ lo

/-- A queue of a tenant. -/
def queueOfTenant (x : Tenant) (q : Nat) : Queue := x.queues.get {} q

/-- Only the queue q of the tenant changes, to k. -/
def QueueNow (s t : State) (tn q : Nat) (k : Queue) : Prop :=
  t = { s with tenants := t.tenants } ∧ (∀ n, n ≠ tn → t.tenant n = s.tenant n) ∧
    { t.tenant tn with queues := [] } = { s.tenant tn with queues := [] } ∧
    ∀ n, queueOfTenant (t.tenant tn) n = if n = q then k else queueOfTenant (s.tenant tn) n

/-- A team stands on the partition (R18's BUSY). -/
def standsOn (s : State) (p : Nat) : Prop := ∃ e ∈ s.teams, e.2.live = true ∧ partOf (s.team e.1).cluster = p

/-- A partition after a write of PARTOWN that takes effect (R17, R391). -/
def ownedBy (x : Partition) (v : Word) : Partition :=
  { x with tenant := v.toNat % 64, valid := v.getLsbD 6, counters := [], energyFrac := 0, sbPast := [], ownPend := none }

/-- A write of PARTOWN of the partition p waits for the invalidation of tenant tn. -/
def waitsToOwn (s : State) (tn p : Nat) : Prop := p < 64 ∧ (s.partition p).tenant = tn ∧ (s.partition p).ownPend ≠ none

/-- An access or transfer of a tenant that used a translation is not performed (R35). -/
def translationInUse (s : State) (tn : Nat) : Prop :=
  (∃ f ∈ s.flights, (s.team f.team).tenant = tn ∧ f.performed = false ∧ f.kind ≠ .result ∧ (f.kind = .sweep ∨ f.loc.isFabric = false)) ∨
    (∃ q ∈ s.awl, (s.team q.team).tenant = tn ∧ ∃ l ∈ q.lanes, l.loc.isFabric = false) ∨
    ∃ o ∈ s.ops, (s.team o.team).tenant = tn ∧ o.finished = false ∧
      ∃ g ∈ o.kind.segs ++ o.rest, g.src.isFabric = false ∨ (g.sb = none ∧ g.dst.isFabric = false)

/-- The page of a cached translation holds an address. -/
def holdsAddress (e : TlbEntry) (tn va : Nat) : Prop := e.tenant = tn ∧ va / 2 ^ e.log2 = e.va / 2 ^ e.log2

end Sys2Proof.Claims

/-- R7, R18, R30, R187, R388, R399: a write of a register of the physical function, or of the virtual function of a tenant's lowest partition, stores
the register's fields and nothing else: TNPTB, FWBASE, FWPERM, TNINV without START, BOOST, TRAPENT, DBGCTL, EVRBASE and QBASE while disabled.
The registers of a tenant's other functions, and reserved places, ignore writes. -/
def Sys2Proof.Claims.RegisterWritesStoreFields : Prop :=
  (∀ (s : State) (tn : Nat) (v : Dword), tn < 64 →
    let x := s.tenant tn
    let n := v.toNat
    let base := 0x100000 + 0x200 * tn
    (∃ t, exec (.registerWrite 0 base 8 v) s = .next t ∧ TenantNow s t tn { x with tnptb := BitVec.ofNat 64 (n % 2 + inPlace n 51 16) }) ∧
    (∃ t, exec (.registerWrite 0 (base + 8) 8 v) s = .next t ∧
      TenantNow s t tn { x with fwbase := BitVec.ofNat 64 (n % 2 + inPlace n 51 30) }) ∧
    (∀ k, k < 20 → ∃ t, exec (.registerWrite 0 (base + 0x40 + 4 * k) 4 v) s = .next t ∧
      t = { s with tenants := t.tenants } ∧ (∀ m, m ≠ tn → t.tenant m = s.tenant m) ∧
      { t.tenant tn with fwperm := [] } = { x with fwperm := [] } ∧
      ∀ m, (t.tenant tn).fwperm.get 0 m = if m = k then BitVec.ofNat 32 n else x.fwperm.get 0 m) ∧
    (n < 2 ^ 63 → ∃ t, exec (.registerWrite 0 (base + 0x18) 8 v) s = .next t ∧
      TenantNow s t tn { x with tninv := BitVec.ofNat 64 (n % 2 + inPlace n 51 12) })) ∧
  (∀ (s : State) (fn tn : Nat) (v : Dword), showsTenant s fn tn →
    let x := s.tenant tn
    let n := v.toNat
    (∃ t, exec (.registerWrite fn 0x2800 8 v) s = .next t ∧ TenantNow s t tn { x with trapEnt := BitVec.ofNat 64 (n % 2 + inPlace n 51 2) }) ∧
    (∃ t, exec (.registerWrite fn 0x2808 4 v) s = .next t ∧ TenantNow s t tn { x with dbgAll := n.testBit 0, dbgBrk := n.testBit 1 }) ∧
    (∃ t, exec (.registerWrite fn 0x2000 8 v) s = .next t ∧
      TenantNow s t tn (if x.evEn then x else { x with evBase := BitVec.ofNat 64 (inPlace n 51 5) })) ∧
    ∀ q, q < 64 → ∃ t, exec (.registerWrite fn (0x1000 + 0x40 * q) 8 v) s = .next t ∧
      QueueNow s t tn q (if (queueOfTenant x q).en then queueOfTenant x q else { queueOfTenant x q with base := inPlace n 51 7 })) ∧
  (∀ (s : State) (v : Dword), exec (.registerWrite 0 0x218000 4 v) s = .next { s with boost := v.toNat.testBit 0 }) ∧
  ∀ (s : State) (fn off : Nat) (v : Dword), 1 ≤ fn → fn ≤ 64 → (∀ tn, ¬showsTenant s fn tn) → off % 8 = 0 →
    exec (.registerWrite fn off 8 v) s = .next s

/-- R17, R18, R391: a PARTOWN write while BUSY is ignored, and one that changes neither owner nor VALID changes no register. A change sets
owner and VALID, removes every translation cached for the old owner, clears the partition's counters and its part of a millijoule, and forgets
what its Saddlebags held and which cores its teams have left; while something that used those translations is under way it waits, with the old
owner's PEND set, and it completes with the invalidation. A write that names the owner as it stands ends an earlier wait (log 79). -/
def Sys2Proof.Claims.PartownChangesTheOwner : Prop :=
  ∀ (s : State) (p : Nat) (v : Word),
    let x := s.partition p
    let tn := v.toNat % 64
    (standsOn s p → exec (.partownWrite p v) s = .next s) ∧
    (¬standsOn s p → x.tenant = tn → x.valid = v.getLsbD 6 → ∃ t, exec (.partownWrite p v) s = .next t ∧
      t = { s with partitions := t.partitions } ∧ ∀ k, t.partition k = if k = p then { x with ownPend := none } else s.partition k) ∧
    (¬standsOn s p → ¬(x.tenant = tn ∧ x.valid = v.getLsbD 6) → x.valid = true → translationInUse s x.tenant →
      ∃ t, exec (.partownWrite p v) s = .next t ∧ t = { s with partitions := t.partitions, tenants := t.tenants } ∧
        (∀ k, t.partition k = if k = p then { x with ownPend := some v } else s.partition k) ∧
        ∀ k, t.tenant k = if k = x.tenant then { s.tenant k with invPend := true, invScope := 0 } else s.tenant k) ∧
    (¬standsOn s p → ¬(x.tenant = tn ∧ x.valid = v.getLsbD 6) → (x.valid = true → ¬translationInUse s x.tenant) →
      ∃ t, exec (.partownWrite p v) s = .next t ∧ t = { s with partitions := t.partitions, tlb := t.tlb, coresLeft := t.coresLeft } ∧
        (∀ c, NatSet.has t.coresLeft c = (NatSet.has s.coresLeft c && decide (partOf (clusterOf c) ≠ p))) ∧
        (∀ k, t.partition k = if k = p then ownedBy x v else s.partition k) ∧
        ∀ e, e ∈ t.tlb ↔ e ∈ s.tlb ∧ (x.valid = true → e.tenant ≠ x.tenant))

/-- R34, R35: a TNINV write with START stores SCOPE and VA and raises PEND, or, while PEND is 1, only sets DROP. PEND falls when nothing that used
a translation is under way, and the translations in scope are gone: all of the tenant, or those that cover VA. The writes of PARTOWN that waited
for it take effect, whatever the partition holds by then (log 79), and then every translation of the old owner is gone (R17). -/
def Sys2Proof.Claims.InvalidationRemovesTranslations : Prop :=
  (∀ (s : State) (tn : Nat) (v : Dword) (i : Instr), v.getLsbD 63 = true →
    (i = .tninvTenant tn v ∧ v.getLsbD 0 = false ∨ i = .tninvPage tn v ∧ v.getLsbD 0 = true) →
    let x := s.tenant tn
    ∃ t, exec i s = .next t ∧ TenantNow s t tn (if x.invPend then { x with invDrop := true }
      else { x with tninv := BitVec.ofNat 64 (v.toNat % 2 + inPlace v.toNat 51 12 + 2 ^ 63), invScope := BitVec.ofNat 64 (v.toNat % 2 + inPlace v.toNat 51 12 + 2 ^ 63), invPend := true })) ∧
  (∀ (s : State) (tn : Nat), (s.tenant tn).invPend = true → ¬translationInUse s tn → (∀ p, ¬waitsToOwn s tn p) →
    let x := s.tenant tn
    ∃ t, exec (.tninvDone tn) s = .next t ∧ t = { s with tenants := t.tenants, tlb := t.tlb } ∧
      t.tenant tn = { x with invPend := false } ∧ (∀ k, k ≠ tn → t.tenant k = s.tenant k) ∧
      ∀ e, e ∈ t.tlb ↔ e ∈ s.tlb ∧ (if x.invScope.getLsbD 0 then ¬holdsAddress e tn (inPlace x.invScope.toNat 51 12) else e.tenant ≠ tn)) ∧
  ∀ (s : State) (tn : Nat), (∃ p, waitsToOwn s tn p) → ¬translationInUse s tn →
    ∃ t, exec (.tninvDone tn) s = .next t ∧ (t.tenant tn).invPend = false ∧ (∀ e, e ∈ t.tlb ↔ e ∈ s.tlb ∧ e.tenant ≠ tn) ∧
      (∀ p v, p < 64 → (s.partition p).tenant = tn → (s.partition p).ownPend = some v → t.partition p = ownedBy (s.partition p) v) ∧
      ∀ p, ¬waitsToOwn s tn p → t.partition p = s.partition p

/-- R187, R188, R388: raising EN of a queue or of the event ring stores the other fields and, with LOG2N from 1 to 16, sets EN and both indices to
0, else sets BADCFG and leaves EN 0. A TAIL write below 2^LOG2N is stored, any other only sets BADTAIL (a host write that still waits comes first,
R106). -/
def Sys2Proof.Claims.QueuesAndRingsEnable : Prop :=
  (∀ (s : State) (tn q : Nat) (v : Word), (queueOfTenant (s.tenant tn) q).en = false → v.getLsbD 7 = true →
    let n := v.toNat
    let k := { queueOfTenant (s.tenant tn) q with log2n := n % 32, prio := n / 2 ^ 5 % 4, vec := n / 2 ^ 8 % 2 ^ 11 }
    ∃ t, exec (.queueEnable tn q v) s = .next t ∧
      QueueNow s t tn q (if 1 ≤ n % 32 ∧ n % 32 ≤ 16 then { k with en := true, head := 0, tail := 0 } else { k with badcfg := true })) ∧
  (∀ (s : State) (tn q : Nat) (v : Word), (∀ p a d, Inbound.host p a d ∉ s.inbox) →
    let k := queueOfTenant (s.tenant tn) q
    let n := v.toNat % 2 ^ 16
    ∃ t, exec (.qtailWrite tn q v) s = .next t ∧
      QueueNow s t tn q (if n < 2 ^ k.log2n then { k with tail := n } else { k with badtail := true })) ∧
  (∀ (s u : State) (tn q : Nat) (v : Word), (∃ p a d, Inbound.host p a d ∈ s.inbox) → exec .inboundHostWrite s = .next u →
    exec (.qtailWrite tn q v) s = exec (.qtailWrite tn q v) u) ∧
  ∀ (s : State) (tn : Nat) (v : Word), (s.tenant tn).evEn = false → v.getLsbD 5 = true →
    let n := v.toNat
    let x := { s.tenant tn with evLog := n % 32, evVec := n / 2 ^ 6 % 2 ^ 11 }
    ∃ t, exec (.eventRingEnable tn v) s = .next t ∧
      TenantNow s t tn (if 1 ≤ n % 32 ∧ n % 32 ≤ 16 then { x with evEn := true, evHead := 0, evTail := 0 } else { x with evBadcfg := true })

namespace Sys2Proof.Claims

/-! ### The picker (R170, R171, R199, R262, R390) -/

/-- The header and words that the launch of x executes at its clause (R262), and the state after the fetch: its walks may have filled cached translations. -/
def fetchFor (s : State) (core : Nat) (x : Sys2Proof.Machine.Ready) : Except (Bad × Nat) (List Word) × State :=
  s.clauseText (clusterOf core) (s.team x.team).tenant (s.team x.team).launch x.pc.toNat

/-- A thread as its bundle starts. -/
def started (x : Thread) (pos : Nat) : Thread :=
  { x with status := if x.status = .handler then .handler else .ready, prio := false, late := false,
           modeWas := if pos = 0 then none else x.modeWas }

/-- The threads of a bundle about to start: of one team, ready on the core, at one PC, one position and one trap state; those of the candidate
are among them, and where they are of several groups the clause allows that (R171). -/
structure Gathered (s : State) (core : Nat) (c : List Sys2Proof.Machine.Ready) (x : Sys2Proof.Machine.Ready) (ws : List Word) (ms : List Member) : Prop where
  all : ∀ r ∈ c, r.m ∈ ms
  ready : ∀ m ∈ ms, ∃ r ∈ s.readyThreads core, r.team = x.team ∧ r.m = m ∧ r.pc = x.pc ∧ r.pos = x.pos ∧ r.inTrap = x.inTrap
  oneGroup : (∃ m ∈ ms, m.1 ≠ x.m.1) → crossGroup (s.lpbOf x.team).w ws = true

end Sys2Proof.Claims

/-- R199: while bundles are ready, one is taken: one of them, with priority if one of them has it, and among those like it one with the thread
that became ready first. -/
def Sys2Proof.Claims.PickerTakesTheOldest : Prop :=
  ∀ (bs : List (List Sys2Proof.Machine.Ready)), (∀ c ∈ bs, c ≠ []) →
    (bs ≠ [] → firstBundles bs ≠ []) ∧
    ∀ c ∈ firstBundles bs, c ∈ bs ∧ (∀ d ∈ bs, d.any (·.prio) = true → c.any (·.prio) = true) ∧
      ∀ d ∈ bs, d.any (·.prio) = c.any (·.prio) → ∀ r ∈ d, ∃ q ∈ c, q.since ≤ r.since

/-- R170, R199, R262, R390: the one bundle that is first starts: its clause is fetched whole, its threads run, it stands on the issue slice at its
position, its first word is next (the order of events: logs 2 and 43), and CLAUSES counts it. A malformed header traps its threads there. Bundles ready for 1,024 cycles gain
priority. -/
def Sys2Proof.Claims.ClauseStartsOnTheCore : Prop :=
  (∀ (s : State) (core : Nat) (x : Sys2Proof.Machine.Ready) (xs : List Sys2Proof.Machine.Ready) (ws : List Word), (s.core core).bundle = none →
    firstBundles (s.candidates core) = [x :: xs] → (fetchFor s core x).1 = .ok ws →
    (headerOk (ws.headD 0) = true →
      ∃ t ms, exec (.clauseStart core) s = .next t ∧ Gathered s core (x :: xs) x ws ms ∧ t.cur = core ∧
        t.agenda = ⟨0, .issue core⟩ :: s.agenda ∧
        (∀ k, t.core k = if k = core then
          { s.core k with bundle := some { team := x.team, members := ms, pc := x.pc, header := ws.headD 0, words := ws.tail, pos := x.pos, ipos := instrIndex ws.tail x.pos } }
          else s.core k) ∧
        (∀ p, t.partition p = if p = partOf (clusterOf core) then
          { s.partition p with counters := (s.partition p).counters.upd 0 1 (fun v => v + 1) } else s.partition p) ∧
        (∀ k g l, t.thread k g l = if k = x.team ∧ (g, l) ∈ ms then
          started (s.thread k g l) x.pos else s.thread k g l) ∧
        (∀ k, (t.team k).bare = (s.team k).bare ∧ ∀ g, (t.group k g).bare = (s.group k g).bare) ∧
        t = { s with cur := t.cur, agenda := t.agenda, cores := t.cores, partitions := t.partitions, teams := t.teams, tlb := t.tlb, free := t.free }) ∧
    (headerOk (ws.headD 0) = false →
      exec (.clauseStart core) s = .next { (s.gather core (s.readyThreads core) (x :: xs)).foldl (fun s m => s.takeTrap x.team m { cause := .illegalClause, pc := x.pc, rpos := 0 }) (fetchFor s core x).2 with cur := core })) ∧
  ∀ (s : State) (core : Nat),
    let old := fun c : List Sys2Proof.Machine.Ready =>
      c ∈ s.candidates core ∧ (∃ r ∈ c, r.since + 1024 ≤ (s.core core).clk.toNat) ∧ c.any (·.prio) = false
    (∃ c, old c) → ∃ t, exec (.pickerPriority core) s = .next t ∧ t = { s with teams := t.teams } ∧
      (∀ k, (t.team k).bare = (s.team k).bare ∧ ∀ g, (t.group k g).bare = (s.group k g).bare) ∧
      ∀ k g l, ((∃ c, old c ∧ ∃ r ∈ c, r.team = k ∧ r.m = (g, l)) → t.thread k g l = { s.thread k g l with prio := true }) ∧
        ((¬∃ c, old c ∧ ∃ r ∈ c, r.team = k ∧ r.m = (g, l)) → t.thread k g l = s.thread k g l)

namespace Sys2Proof.Claims

/-! ### The distributor (R146, R151, R163, R181, R188 to R197, R308) -/

/-- The distributor works for the tenant: it owns a partition, and its context is neither suspended nor dead (R407, R414). -/
def distributes (s : State) (tn : Nat) : Prop :=
  (s.tenant tn).susp = false ∧ (s.tenant tn).ctxPend = false ∧ (s.tenant tn).dead = false ∧ (s.tenant tn).ckPend = false ∧
    ∃ p, p < 64 ∧ (s.partition p).valid = true ∧ (s.partition p).tenant = tn

/-- R190's BAD_LPB row, for an LPB from a queue or a pool. -/
def badLpb (b : Lpb) : Prop :=
  b.wcode = 3 ∨ b.t = 0 ∨ b.t % b.w ≠ 0 ∨ 2048 < b.t ∨ 16 < b.nt ∨ b.d8 = 0 ∨ 32 < b.d8 ∨ b.nu - 1 < b.argn ∨ 4 < b.stg ∨ b.fabric % 256 ≠ 0 ∨
    b.sbb % 64 ≠ 0 ∨ 524288 < b.sbb ∨ b.reserved = true ∨ (b.seam = true ∧ b.gang = true) ∨ b.isl = true ∨
    (b.seam = false ∧ 2 ^ 40 < b.e0 * b.e1 * b.e2)

/-- A core of the tenant covers FEATURES (R198). -/
def covered (s : State) (tn : Nat) (b : Lpb) : Prop :=
  ∃ c ∈ s.clustersOf tn, ∃ j, j < 6 ∧ (s.core (6 * c + j)).feat &&& b.features = b.features

/-- The state in which the LPB of an offer is checked: its line's turn is over and its source has moved on. -/
def consumed (s : State) (tn : Nat) (l : Line) (o : Offer) : State :=
  (((s.updTenant tn (fun x => { x with rr := (l.num + 1) % 128 })).fresh.2.advanceSource tn s.nextId o.source).keepCopy tn s.nextId o)

/-- Where the next block taken from a queue is kept in the control area (R412; its place there: log 50). -/
def copyAt (s : State) (tn : Nat) : Nat :=
  (s.partition ((s.partsOf tn).headD 0)).ulbase + 42 * 2 ^ 20 + 128 * (s.ckpts.get {} tn).accepted.length

/-- Memory after a block is taken: with checkpoints on its copy is kept, and nothing else changes. -/
def CopyKept (s t : State) (tn : Nat) (bs : List Byte) : Prop :=
  if (s.tenant tn).ckEn = true ∧ copyAt s tn + 128 ≤ hbmTop then HbmBytes s t (copyAt s tn) bs ∧ ∀ l, t.memPoison l = s.memPoison l
  else SameMemory s t

/-- A team has exited, and nothing of its work is under way (R146, R308): no access, transfer or request, no counter or tile bit, no issue slice. -/
def nothingLeft (s : State) (k : Nat) : Prop :=
  (s.team k).live = true ∧ (s.team k).exited = true ∧ (s.team k).retired = false ∧
    (∀ f ∈ s.flights, f.team = k → (s.lpbOf k).groups ≤ f.group) ∧ (∀ o ∈ s.ops, o.team ≠ k) ∧ (∀ q ∈ s.awl, q.team ≠ k) ∧
    (∀ g, g < (s.lpbOf k).groups → (∀ c, c < 4 → (s.group k g).counters.get 0 c = 0) ∧ ∀ a ∈ (s.group k g).tiles, a.2.f = false) ∧
    ∀ c ∈ s.cores, ∀ b, c.2.bundle = some b → b.team ≠ k

/-- The last of a launch's work is done (R191): no child is under way, of a DET launch every team is released, and of any but a plain DET launch
every team has retired (a DET seam launch waits for both: log 77). -/
def workDone (x : Launch) : Prop :=
  x.live = true ∧ x.completed = false ∧ x.children = 0 ∧ (x.lpb.det = true → x.ticket = x.total) ∧
    (x.lpb.det = false ∨ x.lpb.seam = true → x.retired = x.total)

/-- The queue q of the tenant changes to k, and its round-robin pointer moves. -/
def QueueTurn (s t : State) (tn q : Nat) (k : Queue) : Prop :=
  (∀ n, n ≠ tn → t.tenant n = s.tenant n) ∧ { t.tenant tn with queues := [], rr := 0 } = { s.tenant tn with queues := [], rr := 0 } ∧
    ∀ n, queueOfTenant (t.tenant tn) n = if n = q then k else queueOfTenant (s.tenant tn) n

/-- A core can take a whole team (R195). -/
def coreTakes (s : State) (n core : Nat) : Prop :=
  let b := (s.launch n).lpb
  (s.core core).quar = false ∧ (s.core core).feat &&& b.features = b.features ∧ b.t ≤ s.freeSlots core ∧ b.sbb ≤ s.freeSaddlebag core ∧
    s.bases (clusterOf core) n b.region ≠ []

/-- A group at team start (R196). -/
def freshGroup (x : Launch) (core : Nat) (clk : Nat) (g : Group) : Prop :=
  g.live = true ∧ g.core = core ∧ (∀ k, g.sGet k = if 1 ≤ k ∧ k ≤ x.args.length then x.args.getD (k - 1) 0 else 0) ∧
    (∀ l, l < x.lpb.w → g.thread l = { pc := x.lpb.entry, status := .ready, readyAt := clk }) ∧ (∀ l, x.lpb.w ≤ l → g.thread l = {}) ∧
    g.tiles = [] ∧ g.joins = [] ∧ g.counters = [] ∧ g.g = 0 ∧ g.rtick = 0

/-- A plain launch: no gang, seam, island or ticket. -/
def plainLaunch (x : Launch) : Prop :=
  x.lpb.gang = false ∧ x.lpb.seam = false ∧ x.lpb.det = false ∧ x.gangPart = none ∧ (∀ k i, x.source ≠ .lacing k i)

/-- The seam unit and the block with the extents in force, and the state after their reading: of a seam launch those of its descriptor (R204). -/
def seamRead (s : State) (tn : Nat) (b : Lpb) (u : Seam) (b' : Lpb) (s' : State) : Prop :=
  (b.seam = false ∧ u = {} ∧ b' = b ∧ s' = s) ∨ (b.seam = true ∧ s.readSeam tn b = (some (u, b'), s'))

/-- A completed child's entry (R191, R197): its status, or free where its handle is closed and its LPB taken. -/
def endedEntry (e : PoolEntry) (status teams : Nat) : PoolEntry :=
  if e.closed && e.taken then {} else { e with status := status, teams := teams }

end Sys2Proof.Claims

/-- R190: the checks at acceptance are made in the order of its table, and the first that fails gives the status. A core covers
FEATURES whether or not it is in the set (log 61). -/
def Sys2Proof.Claims.AcceptanceChecksInOrder : Prop :=
  ∀ (s : State) (tn : Nat) (b : Lpb),
    let v := (s.checkLpb tn b false).1
    let r2 := b.det = true ∧ (b.gang = true ∨ b.isl = true)
    let r3 := s.footprintBad tn b = true
    (badLpb b → v = .refused 2) ∧
    (¬badLpb b → r2 → v = .refused 3) ∧
    (¬badLpb b → ¬r2 → r3 → v = .refused 4) ∧
    (¬badLpb b → ¬r2 → ¬r3 → ¬covered s tn b → v = .refused 5) ∧
    (¬badLpb b → ¬r2 → ¬r3 → covered s tn b → b.seam = true → (s.readSeam tn b).1 = none → v = .refused 6) ∧
    (∀ u b' s', ¬badLpb b → ¬r2 → ¬r3 → covered s tn b → seamRead s tn b u b' s' →
      (∀ e, (s'.readArgs tn b').1 = .error e → v = .refused 7) ∧
      ∀ args, (s'.readArgs tn b').1 = .ok args →
        let e := ((s'.readArgs tn b').2.target (s'.engineCluster tn) tn 0 b'.entry).1
        (e ≠ .ok () → v = .refused 8) ∧ (e = .ok () → v = .accepted b' args u))

/-- R188, R190, R191, R192: the distributor takes the next LPB of the source first in order, of highest priority, round-robin among equals: its
queue's HEAD moves on (one pointer goes round all lines of a tenant: log 46); an accepted one becomes a launch, without teams completing at once; a
refused one starts nothing and sends the queue's message. An unreadable slot sets RINGFAULT and clears EN; where a poisoned page-table entry is why,
nothing is taken and the tenant faults (R408). -/
def Sys2Proof.Claims.AcceptanceTakesTheNextOffer : Prop :=
  (∀ (s : State) (tn : Nat) (l : Line) (r : List Line), s.sourceLines tn = l :: r →
    ∀ m ∈ r, m.prio < l.prio ∨ (m.prio = l.prio ∧ (l.num + 128 - (s.tenant tn).rr) % 128 ≤ (m.num + 128 - (s.tenant tn).rr) % 128)) ∧
  ∀ (s : State) (tn q : Nat) (l : Line) (r : List Line), distributes s tn → (s.tenant tn).retake = [] → s.sourceLines tn = l :: r →
    l.source = .queue q →
    let k := queueOfTenant (s.tenant tn) q
    let ring := s.readVa (s.engineCluster tn) tn (k.base + 128 * k.head) 128
    (∀ bs, ring.1 = .ok bs → s.headBlocked tn (.queue q) (parseLpb bs) = false →
      let o : Offer := ⟨.queue q, bs, k.prio, 0, none, none, false⟩
      let c := (consumed ring.2 tn l o).checkLpb tn (parseLpb bs) false
      (∀ b args u, c.1 = .accepted b args u → (parseLpb bs).seam = false →
        ∃ t, exec (.lpbAccept tn) s = .next t ∧ CopyKept s t tn bs ∧ t.teams = s.teams ∧
          QueueTurn s t tn q { k with head := (k.head + 1) % 2 ^ k.log2n } ∧
          (∀ n, t.launch n = if n = s.nextId then { live := true, tenant := tn, source := .queue q, lpb := { b with prio := k.prio }, args := args, total := b.e0 * b.e1 * b.e2, queueTicket := b.det, order := s.nextId, bytes := bs } else s.launch n) ∧
          t.agenda = (if b.e0 * b.e1 * b.e2 = 0 then [⟨0, .event (.launchComplete s.nextId)⟩] else []) ++ s.agenda ∧
          (t.ckpts.get {} tn).accepted = (s.ckpts.get {} tn).accepted ++ if (s.tenant tn).ckEn then [⟨.queue q, bs, s.nextId, false⟩] else []) ∧
      (∀ st, c.1 = .refused st → (parseLpb bs).event = 0 → c.2.agenda = s.agenda →
        ∃ t, exec (.lpbAccept tn) s = .next t ∧ CopyKept s t tn bs ∧ t.teams = s.teams ∧ t.launches = s.launches ∧
          QueueTurn s t tn q { k with head := (k.head + 1) % 2 ^ k.log2n } ∧ t.notices = s.notices ++ [.msix tn k.vec])) ∧
    (∀ e, ring.1 = .error e → e.1 ≠ .walkPoison → ∃ t, exec (.lpbAccept tn) s = .next t ∧ SameMemory s t ∧ t.teams = s.teams ∧ t.launches = s.launches ∧
      QueueTurn s t tn q { k with ringfault := true, en := false }) ∧
    (∀ a, ring.1 = .error (.walkPoison, a) →
      exec (.lpbAccept tn) s = .next { s with agenda := ⟨0, .event (.tenantFault tn)⟩ :: s.agenda })

/-- R193 to R196: where nothing goes first, the next team in index order of the launch first in order stands on the core or pair that is found, in a
free range of the slice, and starts in the state of R196; the pointer moves on. A core found alone is the first of the tenant's, from the
pointer on, that passes R195. The launch's view of its code opens with its first
team (log 74). -/
def Obligations.TeamsArePlacedAndStart : Prop :=
  (∀ (s : State) (tn n : Nat) (ok : Nat → Bool) (p : Spot), s.findSpot tn n none ok = some p →
    let cores := (s.coreOrder tn (s.tenant tn).place).filter ok
    ((∃ c ∈ cores, coreTakes s n c) → ∃ xs ys, cores = xs ++ p.first :: ys ∧ coreTakes s n p.first ∧ (∀ c ∈ xs, ¬coreTakes s n c) ∧
      p.rest = p.first ∧ p.count = (s.launch n).lpb.groups)) ∧
  ∀ (s : State) (tn n : Nat) (r : List Nat) (p : Spot), distributes s tn → (s.tenant tn).waiting = [] → s.openGangs tn = [] →
    (∀ k ∈ s.tenantTeams tn, (s.team k).stopping = false ∧ (s.team k).awaiting = false) →
    (∀ k ∈ s.tenantLaunches tn, (s.launch k).stranded = false) →
    s.dispatchOrder tn = n :: r → (s.launch n).tenant = tn → plainLaunch (s.launch n) →
    s.findSpot tn n none (fun c => (s.partsOf tn).contains (partOf (clusterOf c))) = some p →
    let x := s.launch n
    let c := clusterOf p.first
    ∃ t base, exec (.teamPlace tn) s = .next t ∧ t = { s with teams := t.teams, launches := t.launches, tenants := t.tenants, lines := t.lines, codes := t.codes, free := s.free + 1, nextId := s.nextId + 1 } ∧
      (∀ k, k ≠ s.nextId → t.team k = s.team k) ∧
      { t.team s.nextId with groups := [] } = { live := true, tenant := tn, launch := n, index := x.next, cluster := c, base := base, region := x.lpb.region, started := true } ∧
      (∀ g, g < x.lpb.groups → freshGroup x (p.core g) (s.core (p.core g)).clk.toNat (t.group s.nextId g)) ∧
      (∀ g, x.lpb.groups ≤ g → t.group s.nextId g = {}) ∧
      (∀ k, t.launch k = if k = n then { x with next := x.next + 1 } else s.launch k) ∧
      TenantNow s { t with teams := s.teams, launches := s.launches, lines := s.lines, codes := s.codes, free := s.free, nextId := s.nextId } tn { s.tenant tn with place := (s.coreNumber tn p.rest + 1) % (6 * s.nclus tn) } ∧
      t.lines = s.lines.filter (fun y => y.cluster != c) ∧
      t.codes = (if ∃ v ∈ s.codes, v.launch = n then s.codes else s.codes ++ [⟨n, [], [], []⟩]) ∧
      base + x.lpb.region ≤ 8388608 ∧
      ∀ k ∈ s.regionsIn c, base + x.lpb.region ≤ (s.team k).base ∨ (s.team k).base + (s.team k).region ≤ base

/-- R146, R151, R308: an exited team nothing of whose work is under way retires, and its launch counts it; a DET team that is not released keeps
its region until it is; filler on the cores it leaves is charged to the partition from then on (R434). R146, R151: staged entries are performed when their team holds the ticket; an exited or completed holder, every write
performed, is released, and the ticket passes on. A staged entry's page is looked up again at its release (log 18). -/
def Sys2Proof.Claims.TeamsRetireAndAreReleased : Prop :=
  (∀ (s : State) (k : Nat), nothingLeft s k → distributes s (s.team k).tenant →
    (s.launch (s.team k).launch).completed = false → (s.team k).island = none → (s.team k).handles = [] → (s.lpbOf k).seam = false →
    let x := s.team k
    ∃ t, exec (.teamRetire k) s = .next t ∧ t = { s with teams := t.teams, launches := t.launches, coresLeft := t.coresLeft } ∧
      (∀ c, NatSet.has t.coresLeft c = true ↔ NatSet.has s.coresLeft c = true ∨ ∃ g, g < (s.lpbOf k).groups ∧ (s.group k g).core = c) ∧ (∀ j, j ≠ k → t.team j = s.team j) ∧
      t.team k = (if (s.lpbOf k).det = true ∧ x.releasedDet = false then
        { x with retired := true, resv := [], released := [], sb := [], sbWritten := [], sbPoison := [] } else {}) ∧
      ∀ n, t.launch n = if n = x.launch then { s.launch n with retired := (s.launch n).retired + 1 } else s.launch n) ∧
  (∀ (s : State) (n k pa : Nat) (nc : Bool) (e : Stage), (s.launch n).lpb.det = true → s.holder n = some k → (s.team k).staging = [e] → e.red = false →
    e.poison = [] → (s.team k).swapped = none →
    (s.globalNow (s.team k).cluster (s.team k).tenant e.va .write).1 = .ok (.hbm pa nc) →
    ∃ t, exec (.cinchRelease n) s = .next t ∧ (∀ j, j ≠ k → t.team j = s.team j) ∧ t.team k = { s.team k with staging := [] } ∧
      t.launches = s.launches ∧ HbmBytes s t pa e.data) ∧
  ∀ (s : State) (n k : Nat), (s.launch n).lpb.det = true → (s.launch n).completed = false → s.holder n = some k → (s.team k).staging = [] →
    ((s.team k).exited = true ∨ (s.team k).pointDone = true) → s.writesDone k = true →
    (∀ e ∈ s.teams, (s.team e.1).launch = n → (s.team e.1).index ≠ (s.launch n).ticket + 1) →
    let x := s.team k
    ∃ t, exec (.cinchRelease n) s = .next t ∧ t = { s with teams := t.teams, launches := t.launches } ∧ (∀ j, j ≠ k → t.team j = s.team j) ∧
      t.team k = (if x.retired then {} else { x with releasedDet := true, tdigest := s.teamDigest k }) ∧
      ∀ j, t.launch j = if j = n then
        { s.launch j with ticket := (s.launch j).ticket + 1, digests := (s.launch j).digests.put 0 x.index (s.teamDigest k) } else s.launch j

/-- R191: a launch completes with DONE when its children have completed and its teams have all retired, or, of a DET launch, are released (of a DET seam launch both, log 77): its
record goes with the last team that stands, its parent waits for one child less, its pool entry holds STATUS and the teams that have retired, and
with EVENT 0 a queue's launch sends its message. Where a poisoned page-table entry stands before its completion record, the tenant faults first. -/
def Sys2Proof.Claims.LaunchesComplete : Prop :=
  ∀ (s : State) (n : Nat), workDone (s.launch n) →
    let x := s.launch n
    (x.lpb.det = true → x.lpb.refdig = 0 ∨ x.total = 0) →
    ∃ t, exec (.launchComplete n) s = .next t ∧
      (x.lpb.event ≠ 0 ∧ FaultsInstead s t x.tenant ∨
      t.teams = s.teams ∧
      ((∀ e ∈ s.teams, e.2.live = true → (s.team e.1).launch ≠ n) → t.launch n = {}) ∧
      ((∃ e ∈ s.teams, e.2.live = true ∧ (s.team e.1).launch = n) → t.launch n = { x with completed := true }) ∧
      (∀ k, k ≠ n → t.launch k = if x.parent = some k then { s.launch k with children := (s.launch k).children - 1 } else s.launch k) ∧
      (∀ q, x.source = .queue q → x.lpb.event = 0 → SameMemory s t ∧ t.notices = s.notices ++ [.msix x.tenant (queueOfTenant (s.tenant x.tenant) q).vec]) ∧
      (∀ p e, x.source = .pool p e → x.lpb.event = 0 →
        ∀ a b, poolEntry t a b = if a = p ∧ b = e ∧ (poolEntry s p e).launch = n then
          endedEntry (poolEntry s p e) 1 x.retired else poolEntry s a b))

namespace Sys2Proof.Claims

/-! ### The Seam unit (R203, R209, R210) -/

/-- A predecessor is complete: a point of the space by its row; a boundary point by its face, open, or linked and shown by the record last read. -/
def predecessorDone (u : Seam) (b : Lpb) (q : Point) : Prop :=
  match faceOf b q with
  | some f => u.faces.testBit f = false ∨ linkShows u b f q = true
  | none =>
    let n := ((q.1 * b.e1 + q.2.1) * b.e2 + q.2.2).toNat
    rowHas (u.rows.get {} (n / lastExtent u b)) (n % lastExtent u b)

/-- A point of the space that is neither complete nor running, stands in its row's window, and whose predecessors are all complete. -/
def pointReady (u : Seam) (b : Lpb) (n : Nat) : Prop :=
  let r := u.rows.get {} (n / lastExtent u b)
  n < b.e0 * b.e1 * b.e2 ∧ ¬rowHas r (n % lastExtent u b) ∧ (∀ e ∈ u.running, e.index ≠ n) ∧ n % lastExtent u b < r.prefixLen + 64 ∧
    ∀ d ∈ u.vecs, predecessorDone u b ((n / (b.e1 * b.e2) : Nat) - d.1, (n / b.e2 % b.e1 : Nat) - d.2.1, (n % b.e2 : Nat) - d.2.2)

/-- A seam launch that the unit works on. -/
def seamRuns (s : State) (n : Nat) : Prop :=
  (s.launch n).live = true ∧ (s.launch n).lpb.seam = true ∧ (s.launch n).seamUnit.rstate = 1 ∧ distributes s (s.launch n).tenant

/-- Only the Seam unit of launch n changes, to u. -/
def SeamNow (s t : State) (n : Nat) (u : Seam) : Prop :=
  ∀ k, t.launch k = if k = n then { s.launch k with seamUnit := u } else s.launch k

/-! ### The Lacing engine (R218 to R235) -/

/-- Only the slot k of the tenant changes, to x. -/
def SlotNow (s t : State) (tn k : Nat) (x : IslSlot) : Prop :=
  (∀ n, n ≠ tn → t.tenant n = s.tenant n) ∧ { t.tenant tn with slots := [] } = { s.tenant tn with slots := [] } ∧
    ∀ n, setOf t tn n = if n = k then x else setOf s tn n

/-- ISCTL's fields but EN, from a written value. -/
def ctlFields (x : IslSlot) (v : Nat) : IslSlot := { x with init := v.testBit 1, pm1 := v / 2 ^ 2 % 2 ^ 16, vec := v / 2 ^ 18 % 2 ^ 11 }

/-- Every group of the gangs of the set that waits in ISL.STEP has received RETIRE. -/
def RetiresGangs (s t : State) (x : IslSlot) : Prop :=
  ∀ i ∈ x.islands, ∀ n, i.launch = some n → (s.launch n).next ≠ 0 → (s.launch n).stranded = false →
    ∀ k ∈ s.launchTeams n, ∀ g ∈ s.groupsOf k, (s.group k g).arrived = true → (t.group k g).result = some 1

/-- A report of the step names the pair of a key: UNLINK, or LINK of the key itself (R224, R225). -/
def unlinks (x : IslSlot) (l : Link) : Prop := ∃ r ∈ x.reports, r.kind = 2 ∧ min r.a r.b = l.lo ∧ max r.a r.b = l.hi
def links (x : IslSlot) (l : Link) : Prop := ∃ r ∈ x.reports, r.kind < 2 ∧ r.kind = l.kind ∧ min r.a r.b = l.lo ∧ max r.a r.b = l.hi

end Sys2Proof.Claims

/-- R210: while the running list has room, the Seam unit fires the ready point of lowest linear index: it joins the running list. -/
def Sys2Proof.Claims.SeamFiresTheLowestReadyPoint : Prop :=
  ∀ (s : State) (l n : Nat), seamRuns s l →
    let x := s.launch l
    let u := x.seamUnit
    u.running.length < u.runcap → pointReady u x.lpb n → (∀ k, k < n → ¬pointReady u x.lpb k) →
    ∃ t, exec (.seamFire l) s = .next t ∧ t.teams = s.teams ∧
      SeamNow s t l { u with running := u.running ++ [⟨n, false, 0, 0⟩] }

/-- R209: while a candidate waits only on linked points, the record of a LINKED face is read again. One that cannot be read, or whose header does
not fit, shows nothing, and its first event of each kind is posted; one that fits shows its rows as they stand. A poisoned page-table entry on the
way is the tenant's fault instead (R408). -/
def Sys2Proof.Claims.LinkedRecordsAreReread : Prop :=
  ∀ (s : State) (l f : Nat), seamRuns s l →
    let x := s.launch l
    let u := x.seamUnit
    let old := u.links.get {} f
    let c := s.engineCluster x.tenant
    let va := leNat ((u.bytes.drop (0x30 + 8 * f)).take 8)
    let h := s.readVa c x.tenant va 0x100
    u.faces.testBit f = true → (∃ n ∈ u.candidates x.lpb, u.waitsOn x.lpb f n = true) →
    (∀ a, h.1 = .error (.walkPoison, a) →
      exec (.seamLinkReread l f) s = .next { s with agenda := ⟨0, .event (.tenantFault x.tenant)⟩ :: s.agenda }) ∧
    (∀ e a, h.1 = .error (e, a) → e ≠ .walkPoison → ∃ t, exec (.seamLinkReread l f) s = .next t ∧ t.teams = s.teams ∧ SameMemory s t ∧
      SeamNow s t l { u with links := u.links.put {} f { old with fits := false, rows := [], faultPosted := true } } ∧
      t.notices = s.notices ++ if old.faultPosted then [] else [.seamLinkFault l f (BitVec.ofNat 64 a)]) ∧
    ∀ bs, h.1 = .ok bs →
      let w := fun off => leNat ((bs.drop off).take 4)
      let valid := 1 ≤ w 0x80 ∧ w 0x80 ≤ 3
      let fits := valid ∧ w 0 % 4 = u.ndim ∧ ∀ a, a < 3 → a ≠ f / 2 → w (4 + 4 * a) = (if a = 0 then x.lpb.e0 else if a = 1 then x.lpb.e1 else x.lpb.e2)
      (¬fits → ∃ t y, exec (.seamLinkReread l f) s = .next t ∧ t.teams = s.teams ∧ SameMemory s t ∧ y.fits = false ∧ y.rows = [] ∧
        SeamNow s t l { u with links := u.links.put {} f y } ∧ (valid → y.mismatchPosted = true ∧
          t.notices = s.notices ++ if old.mismatchPosted then [] else [.seamLinkMismatch l f]) ∧ (¬valid → t.notices = s.notices)) ∧
      (fits → ∀ rows, (h.2.readVa c x.tenant (va + 0x100) (16 * u.rowCount { x.lpb with e0 := w 4, e1 := w 8, e2 := w 12 })).1 = .ok rows →
        ∃ t y, exec (.seamLinkReread l f) s = .next t ∧ t.teams = s.teams ∧ SameMemory s t ∧ SeamNow s t l { u with links := u.links.put {} f y } ∧
          y.fits = true ∧ y.e0 = w 4 ∧ y.e1 = w 8 ∧ y.e2 = w 12 ∧ t.notices = s.notices ∧
          ∀ r, r < u.rowCount { x.lpb with e0 := w 4, e1 := w 8, e2 := w 12 } →
            (y.rows.get {} r).prefixLen = leNat ((rows.drop (16 * r)).take 4) ∧
            (y.rows.get {} r).window = BitVec.ofNat 64 (leNat ((rows.drop (16 * r + 8)).take 8)))

/-- R218, R220, R235: raising EN stores ISCTL; a set still held waits for ACTIVE to fall; a descriptor that cannot be read or fails R220 sets
BADDESC and leaves EN 0; otherwise the engine holds the set, with INIT at step 0 without links. Lowering EN, or poison, gives RETIRE to every
waiting gang. A write of ISCTL while EN is 1 waits for the boundary, which it brings about (log 47). A poisoned page-table entry that stands in the way
of the enable is the tenant's fault first, and the set stays to be taken up (R408). -/
def Sys2Proof.Claims.IslandSetsOpenAndClose : Prop :=
  (∀ (s : State) (tn k : Nat) (v : Word), (setOf s tn k).en = false → v.getLsbD 0 = true →
    let x := { ctlFields (setOf s tn k) v.toNat with pmPending := false }
    let s1 := s.updSlot tn k (fun _ => x)
    let d := s1.readVa (s1.engineCluster tn) tn x.addr 256
    ((setOf s tn k).active = true → ∃ t, exec (.islSetEnable tn k v) s = .next t ∧ t = { s with tenants := t.tenants } ∧
      SlotNow s t tn k { x with en := true, reenable := true }) ∧
    ((setOf s tn k).active = false →
      ((∃ e, d.1 = .error e) ∨ (∃ bs, d.1 = .ok bs ∧ (d.2.setBad tn x.pm1 bs).1 = true) → ∃ t, exec (.islSetEnable tn k v) s = .next t ∧
        (FaultsInstead (s1.updSlot tn k (fun y => { y with en := true, reenable := true })) t tn ∨
        t.teams = s.teams ∧ SameMemory s t ∧ SlotNow s t tn k { x with en := false, reenable := false, stat := NatSet.set x.stat 1 true })) ∧
      ∀ bs, d.1 = .ok bs → (d.2.setBad tn x.pm1 bs).1 = false → ∃ t, exec (.islSetEnable tn k v) s = .next t ∧
        (FaultsInstead (s1.updSlot tn k (fun y => { y with en := true, reenable := true })) t tn ∨ t.teams = s.teams ∧
        (setOf t tn k).en = true ∧ (setOf t tn k).active = true ∧ (setOf t tn k).desc = parseIslDesc bs ∧ (setOf t tn k).p1 = x.pm1 ∧
        (x.init = true → (setOf t tn k).step = 0 ∧ (setOf t tn k).links = [])))) ∧
  (∀ (s : State) (tn k : Nat) (v : Word), (setOf s tn k).en = true →
    let x := ctlFields (setOf s tn k) v.toNat
    (v.getLsbD 0 = true → ∃ t, exec (.pm1Write tn k v) s = .next t ∧ t = { s with tenants := t.tenants } ∧
      SlotNow s t tn k { x with pmPending := x.pmPending || x.active }) ∧
    (v.getLsbD 0 = false → (setOf s tn k).reenable = false → ∃ t, exec (.islSetDisable tn k v) s = .next t ∧ SameMemory s t ∧
      (setOf t tn k).en = false ∧ (setOf t tn k).pm1 = x.pm1 ∧ (setOf t tn k).vec = x.vec ∧ RetiresGangs s t (setOf s tn k))) ∧
  ∀ (s : State) (tn k : Nat), (setOf s tn k).active = true → ∃ t, exec (.islSetPoison tn k) s = .next t ∧ SameMemory s t ∧
    (setOf t tn k).poisoned = true ∧ (setOf t tn k).reports = [] ∧ NatSet.has (setOf t tn k).stat 4 = true ∧
    t.notices = s.notices ++ [.msix tn (setOf s tn k).vec] ∧ RetiresGangs s t (setOf s tn k)

/-- R224: a report that reaches the engine joins the step in progress; beyond RPTMAX it is dropped, RPTFULL is set and DROPPED counts it; a set that
is not held, or poisoned, discards it. -/
def Sys2Proof.Claims.ReportsReachTheEngine : Prop :=
  ∀ (s : State) (r : Sent) (rest : List Sent), s.sent = r :: rest →
    let x := setOf s r.tenant r.slot
    let e := exec (.islReportReceive r.tenant r.slot r.report.kind r.report.a r.report.b) s
    ((x.active = false ∨ x.poisoned = true) → e = .next { s with sent := rest }) ∧
    (x.active = true → x.poisoned = false → x.reports.length < x.desc.rptmax → ∃ t, e = .next t ∧
      t = { s with sent := rest, tenants := t.tenants } ∧ SlotNow s t r.tenant r.slot { x with reports := x.reports ++ [r.report] }) ∧
    (x.active = true → x.poisoned = false → x.desc.rptmax ≤ x.reports.length → ∃ t, e = .next t ∧
      t = { s with sent := rest, tenants := t.tenants, partitions := t.partitions } ∧
      SlotNow s t r.tenant r.slot { x with stat := NatSet.set x.stat 5 true } ∧
      ∀ p, t.partition p = if p = r.part then { s.partition p with counters := (s.partition p).counters.upd 0 10 (fun v => v + 1) }
        else s.partition p)

/-- R225 to R227: when every gang of the step has reached the boundary and a gang, a report or a part limit is there, the step ends: a link
present stays unless an UNLINK names its pair, an absent key that a LINK names becomes a link while LMAX allows all of them, ISSTEP advances, the log is
empty, and every waiting group of the step receives CONTINUE, RETIRE or SLEEP. A poisoned page-table entry met on the way is the tenant's fault
instead (R408). -/
def Obligations.TheBoundaryEndsTheStep : Prop :=
  ∀ (s : State) (tn k : Nat),
    let x := setOf s tn k
    x.active = true → x.en = true → x.reenable = false → x.poisoned = false → (s.tenant tn).susp = false → s.reportsOnTheWay tn k = false →
    (∀ i ∈ x.islands, s.gangDone i = true) → ((∃ i ∈ x.islands, i.launch.isSome) ∨ x.reports ≠ [] ∨ x.pmPending = true) →
    ∃ t, exec (.stepBoundary tn k) s = .next t ∧ (FaultsInstead s t tn ∨
      (setOf t tn k).step = x.step + 1 ∧ (setOf t tn k).reports = [] ∧
      (∀ l, l ∈ (setOf t tn k).links → (l ∈ x.links ∧ ¬unlinks x l) ∨ (l ∉ x.links ∧ links x l)) ∧
      (∀ l, l ∈ x.links → ¬unlinks x l → l ∈ (setOf t tn k).links) ∧
      (x.links.length + x.reports.length ≤ x.desc.lmax → ∀ l, l ∉ x.links → links x l → l ∈ (setOf t tn k).links) ∧
      ∀ i ∈ x.islands, ∀ n, i.launch = some n → ∀ j ∈ s.launchTeams n, ∀ g ∈ s.groupsOf j, (s.group j g).arrived = true →
        (∃ r, r ≤ 2 ∧ (t.group j g).result = some r) ∧ (t.group j g).arrived = false)

namespace Sys2Proof.Claims

/-! ### Recovery (R57, R58, R60, R81, R406 to R416, R436) -/

/-- Every thread of every team stands. -/
def SameThreads (s t : State) : Prop := ∀ k g l, t.thread k g l = s.thread k g l

/-- The teams that a suspend must stop (R407). -/
def toStop (s : State) (tn k : Nat) : Prop :=
  k ∈ s.tenantTeams tn ∧ (s.team k).live = true ∧ (s.team k).retired = false ∧ (s.team k).exited = false ∧ (s.team k).suspended = false

/-- Every team of a tenant that has not retired has nothing under way and no bundle on a slice: a suspend need not wait (R407). -/
def atRest (s : State) (tn : Nat) : Prop :=
  ∀ k ∈ s.tenantTeams tn, (s.team k).retired = false → s.teamQuiet k = true ∧ s.offSlices k = true

/-- A team of a tenant has an access, an operation or a result under way: a suspend waits. -/
def underWay (s : State) (tn : Nat) : Prop := ∃ k ∈ s.tenantTeams tn, (s.team k).retired = false ∧ s.teamQuiet k = false

/-- Every thread stands, or has left its slice at the next word of its clause (R72). -/
def SameRegisters (s t : State) : Prop :=
  ∀ k g l, { t.thread k g l with pc := 0, pos := 0 } = { s.thread k g l with pc := 0, pos := 0 }

/-- The context is suspended. -/
def suspended (s t : State) (tn : Nat) : Prop :=
  (t.tenant tn).susp = true ∧ (t.tenant tn).ctxPend = false ∧ ∀ k, toStop s tn k → (t.team k).suspended = true

/-- The suspend waits, its teams stopping. -/
def suspending (s t : State) (tn : Nat) : Prop :=
  (t.tenant tn).susp = false ∧ (t.tenant tn).ctxPend = true ∧ ∀ k, toStop s tn k → (t.team k).stopping = true

/-- The checkpoint is taken: a new interval with its number, no rollback and empty undo logs (R411 to R413; the record of a resumed seam launch is
written in the new interval). -/
def checkpointed (s t : State) (tn : Nat) : Prop :=
  (t.tenant tn).ckPend = false ∧ (t.tenant tn).ckEn = true ∧ (t.tenant tn).ckSeq = (s.tenant tn).ckSeq + 1 ∧ (t.tenant tn).rolls = 0 ∧
    (t.ckpts.get {} tn).live = true ∧ (s.seamsAt tn 1 = [] → s.seamsAt tn 2 = [] → ∀ p ∈ s.partsOf tn, (t.partition p).undo = [])

/-- The checkpoint waits, its teams stopping. -/
def checkpointing (s t : State) (tn : Nat) : Prop :=
  (t.tenant tn).ckPend = true ∧ (t.tenant tn).ckEn = (s.tenant tn).ckEn ∧ ∀ k, toStop s tn k → (t.team k).stopping = true

/-- The events that begin a checkpoint of a tenant, and when they do (R411, R412, R415). -/
def begins (s : State) (tn : Nat) : Instr → Prop
  | .checkpointEnable n => n = tn ∧ (s.tenant tn).ckEn = false ∧ (s.tenant tn).ckPend = false
  | .checkpointTake n => n = tn ∧ (s.tenant tn).ckEn = true ∧ (s.tenant tn).dead = false ∧ (s.tenant tn).ckPend = false
  | .undoLogMark p => (s.partition p).valid = true ∧ (s.partition p).tenant = tn ∧ (s.tenant tn).ckEn = true ∧ (s.tenant tn).ckPend = false ∧
      (s.partition p).sizeg * 2 ^ 30 - 48 * 2 ^ 20 - 72 * (s.partition p).undo.length < 64 * 2 ^ 20
  | _ => False

/-- Nothing of a killed context is left (R414). -/
structure Killed (s t : State) (tn : Nat) : Prop where
  dead : (t.tenant tn).dead = true
  teams : ∀ k, (t.team k).live = true → (t.team k).tenant ≠ tn
  others : ∀ k, (s.team k).tenant ≠ tn → t.team k = s.team k
  othersLaunches : ∀ n, (s.launch n).tenant ≠ tn → t.launch n = s.launch n
  othersPools : ∀ p, p ∉ s.partsOf tn → (t.partition p).pool = (s.partition p).pool
  othersAccesses : (∀ f ∈ s.flights, f.team ∉ s.tenantTeams tn → f ∈ t.flights) ∧ (∀ o ∈ s.ops, o.team ∉ s.tenantTeams tn → o ∈ t.ops) ∧
    ∀ q ∈ s.awl, q.team ∉ s.tenantTeams tn → q.op ≠ 0 → q ∈ t.awl
  othersSets : ∀ k, k ≠ tn → t.tenant k = s.tenant k
  launches : ∀ e ∈ t.launches, e.2.tenant ≠ tn
  pools : ∀ p ∈ s.partsOf tn, (t.partition p).pool = []
  flights : ∀ f ∈ t.flights, f.team ∉ s.tenantTeams tn
  sets : ∀ e ∈ (t.tenant tn).slots, e.2.en = false ∧ e.2.active = false

/-- Latches that are those of a but for word n, which is poisoned and reads 0 (R58). -/
def struckLatches (a b : Latches) (n : Nat) : Prop :=
  b.valid = a.valid ∧ (∀ m, NatSet.has b.poison m = (m == n || NatSet.has a.poison m)) ∧ ∀ m, b.val.get 0 m = if m = n then 0 else a.val.get 0 m

/-- Every team and group but for threads and groups stands, and every thread but one. -/
def OnlyThread (s t : State) (k g l : Nat) : Prop :=
  t = { s with teams := t.teams } ∧ (∀ k', (t.team k').bare = (s.team k').bare ∧ ∀ g', (t.group k' g').bare = (s.group k' g').bare) ∧
    ∀ k' g' l', (k', g', l') ≠ (k, g, l) → t.thread k' g' l' = s.thread k' g' l'

/-- Every team but for groups stands, and every group but one. -/
def OnlyGroup (s t : State) (k g : Nat) : Prop :=
  t = { s with teams := t.teams } ∧ (∀ k', (t.team k').bare = (s.team k').bare) ∧
    ∀ k' g', (k', g') ≠ (k, g) → t.group k' g' = s.group k' g'

/-- Bytes of a copy that stand staged among entries (R148). -/
def stagedBytes (o : Nat) (es : List Stage) : Nat := ((es.filter (fun e => e.copy && e.op == o)).map (fun e => e.data.length)).sum

/-- A relaunched team k (R410): one relaunch more, its groups as at team start, no reservation, staged write or handle, and nothing under way. -/
def Relaunched (s t : State) (k : Nat) : Prop :=
  let x := s.team k
  let y := t.team k
  y.relaunches = x.relaunches + 1 ∧ y.exited = false ∧ y.retired = false ∧
    (∀ g, g < (s.lpbOf k).groups → freshGroup (s.launchOf k) (s.group k g).core (s.core (s.group k g).core).clk.toNat (t.group k g)) ∧
    y.resv = [] ∧ y.staging = [] ∧ y.handles = [] ∧ y.accepted = 0 ∧ (∀ j, j ≠ k → t.team j = s.team j) ∧
    (∀ f ∈ t.flights, f.team ≠ k) ∧ (∀ o ∈ t.ops, o.team ≠ k) ∧ t.lines = s.lines.filter (fun z => z.cluster != x.cluster)

/-- An undo entry of the tenant's logs for a line (R412). -/
def undoOf (s : State) (tn line : Nat) (u : Undo) : Prop := ∃ p ∈ s.partsOf tn, u ∈ (s.partition p).undo ∧ u.line = line

end Sys2Proof.Claims

/-- R407: a suspend of a context whose teams have nothing under way suspends every team at once and sets SUSP; a suspend in progress completes when
they have nothing under way. A resume ends it, also while a checkpoint is still to be taken (log 49), and its suspended teams are to be placed
again. No thread's registers change. -/
def Sys2Proof.Claims.ContextsSuspendAndResume : Prop :=
  (∀ (s : State) (tn : Nat), let x := s.tenant tn
    ((x.susp = true ∨ x.ctxPend = true ∨ x.dead = true) → exec (.contextSuspend tn) s = .next s) ∧
    (x.susp = false → x.ctxPend = false → x.dead = false → atRest s tn →
      ∃ t, exec (.contextSuspend tn) s = .next t ∧ SameThreads s t ∧ suspended s t tn)) ∧
  (∀ (s : State) (tn : Nat), (s.tenant tn).ctxPend = true ∨ (s.tenant tn).ckPend = true → atRest s tn →
    ∃ t, exec (.suspendComplete tn) s = .next t ∧ SameThreads s t ∧ (t.tenant tn).ckPend = false ∧ (t.tenant tn).ctxPend = false ∧
      ((s.tenant tn).ctxPend = true → (t.tenant tn).susp = true) ∧ ∀ k, toStop s tn k → (t.team k).suspended = true) ∧
  ∀ (s : State) (tn : Nat), let x := s.tenant tn
    (x.dead = true ∨ (x.susp = false ∧ x.ctxPend = false) → exec (.contextResume tn) s = .next s) ∧
    (x.dead = false → x.ckPend = true → (x.susp = true ∨ x.ctxPend = true) →
      ∃ t, exec (.contextResume tn) s = .next t ∧ TenantNow s t tn { x with susp := false, ctxPend := false }) ∧
    (x.dead = false → x.ckPend = false → (x.susp = true ∨ x.ctxPend = true) → ∃ t, exec (.contextResume tn) s = .next t ∧ SameThreads s t ∧
      (t.tenant tn).susp = false ∧ (t.tenant tn).ctxPend = false ∧
      ∀ k ∈ s.tenantTeams tn, (t.team k).stopping = false ∧ ((s.team k).suspended = true → (s.team k).retired = false → (t.team k).awaiting = true))

/-- R407, R411: while a team has an access, an operation or a result under way, a suspend and a checkpoint wait, and their teams stop. A bundle on a
slice goes on to the end of its clause or leaves it inside: then they wait or are done (R72). Registers stand. -/
def Sys2Proof.Claims.SuspensionsWaitForTheTeams : Prop :=
  (∀ (s : State) (tn : Nat), let x := s.tenant tn
    x.susp = false → x.ctxPend = false → x.dead = false →
      ∃ t, exec (.contextSuspend tn) s = .next t ∧ SameRegisters s t ∧ (suspended s t tn ∨ suspending s t tn) ∧
        (underWay s tn → suspending s t tn)) ∧
  ∀ (s : State) (tn : Nat) (i : Instr), begins s tn i →
    ∃ t, exec i s = .next t ∧ SameRegisters s t ∧ (checkpointed s t tn ∨ checkpointing s t tn) ∧ (underWay s tn → checkpointing s t tn)

/-- R414, R436: KILL, and the function-level reset of a partition's virtual function, end the context: its teams, accesses, launches and pools are
gone, its island sets are closed, and it is dead; other tenants' teams, launches, pools, accesses and sets stand. -/
def Obligations.KillEndsTheContext : Prop :=
  (∀ (s : State) (tn : Nat), ∃ t, exec (.contextKill tn) s = .next t ∧ Killed s t tn) ∧
  ∀ (s : State) (p : Nat), ((s.partition p).valid = false → exec (.vfFlr p) s = .next s) ∧
    ((s.partition p).valid = true → ∃ t, exec (.vfFlr p) s = .next t ∧ Killed s t (s.partition p).tenant)

/-- R411 to R413, R415: EN raised, TAKE, and a log below its mark begin a checkpoint: where the tenant's teams have nothing under way it is taken at
once, and a log's mark sets FORCED. While EN is 0 TAKE does nothing. EN lowered gives the checkpoint and the logs up; EN raised while one is still to
be taken waits for that one. What a checkpoint and a suspend make of each other is log 49. -/
def Obligations.CheckpointsAreTaken : Prop :=
  (∀ (s : State) (tn : Nat) (i : Instr), begins s tn i → atRest s tn →
    ∃ t, exec i s = .next t ∧ SameThreads s t ∧ checkpointed s t tn ∧
      (∀ p, i = .undoLogMark p → (t.tenant tn).forced = true)) ∧
  ∀ (s : State) (tn : Nat), let x := s.tenant tn
    ((x.ckEn = false ∨ x.dead = true ∨ x.ckPend = true) → exec (.checkpointTake tn) s = .next s) ∧
    (x.ckEn = false → x.ckPend = true → ∃ t, exec (.checkpointEnable tn) s = .next t ∧ TenantNow s t tn { x with ckRise := true }) ∧
    (x.ckEn = true → ∃ t, exec (.checkpointDisable tn) s = .next t ∧ t = { s with tenants := t.tenants, ckpts := t.ckpts, partitions := t.partitions } ∧
      TenantNow { s with ckpts := t.ckpts, partitions := t.partitions } t tn { x with ckEn := false } ∧ (t.ckpts.get {} tn).live = false ∧
      ∀ p, t.partition p = if p ∈ s.partsOf tn then { s.partition p with undo := [] } else s.partition p)

/-- R413, R414: a rollback gives every logged line its bytes back, brings the teams of the checkpoint back and counts; the third in one interval
kills the context instead. Without a checkpoint ROLL does nothing. Checkpoints are kept in the machine's own records (log 50). -/
def Obligations.RollbackRestoresTheCheckpoint : Prop :=
  ∀ (s : State) (tn : Nat), let x := s.tenant tn
    let k := s.ckpts.get {} tn
    ((x.ckEn = false ∨ x.dead = true) → exec (.rollback tn) s = .next s) ∧
    (x.ckEn = true → x.dead = false → x.rolls = 2 → ∃ t, exec (.rollback tn) s = .next t ∧ Killed s t tn) ∧
    (x.ckEn = true → x.dead = false → x.rolls ≠ 2 → ∃ t, exec (.rollback tn) s = .next t ∧
      (t.tenant tn).rolls = x.rolls + 1 ∧ (t.tenant tn).rolled = true ∧
      (Sparse.wf {} k.teams = true → ∀ m, (k.teams.get {} m).live = true → (t.team m).groups = (k.teams.get {} m).groups) ∧
      ((∀ e ∈ k.launches, e.2.lpb.seam = false) → (∀ e ∈ s.launches, e.2.tenant ≠ tn → e.2.lpb.seam = false) →
        (∀ i, (k.slots.get {} i).active = false ∧ (setOf s tn i).active = false) →
        (∀ l u v, undoOf s tn l u → undoOf s tn l v → u = v ∧ u.bytes.length = 64) →
        ∀ a, (∀ u, undoOf s tn (a / 64) u → t.hbm.get 0 a = u.bytes.getD (a % 64) 0) ∧
          ((∀ u, ¬undoOf s tn (a / 64) u) → t.hbm.get 0 a = s.hbm.get 0 a)))

/-- R408 to R410, R415: a fault of a team of an IDEM launch that is not exposed, in no gang and below RETRY, starts the team again on its cores;
an island team with its records and boundary table preloaded again; every other fault of a team, and of a tenant, rolls the tenant back, or kills it
while it has no checkpoint. A failed link is a fault of every working tenant: those with checkpoints roll back, the others are killed; when it recurs
they are killed and the link is recorded. -/
def Obligations.FaultsRelaunchRollBackOrKill : Prop :=
  (∀ (s : State) (k : Nat), (s.team k).live = true →
    let x := s.team k
    let b := s.lpbOf k
    let again := b.idem = true ∧ x.exposed = false ∧ x.relaunches < b.retry ∧ x.gangSize = 1
    (again → x.island = none → ∃ t, exec (.teamFault k) s = .next t ∧ Relaunched s t k ∧ (x.moved = none → SameMemory s t) ∧
      (x.retired = false → t.launches = s.launches) ∧
      (x.retired = true → b.seam = false →
        ∀ n, t.launch n = if n = x.launch then { s.launch n with retired := (s.launch n).retired - 1 } else s.launch n) ∧
      (x.exited = true → (t.team k).suspended = true ∧ ((s.tenant x.tenant).susp = false → (s.tenant x.tenant).ctxPend = false →
        (s.tenant x.tenant).ckPend = false → (t.team k).awaiting = true))) ∧
    (again → ∀ id, x.island = some id → x.moved = none →
      let z := setOf s x.tenant x.slot
      let base := x.base + b.declOff
      let table := boundaryTable (boundaryEntries z.links x.islP (s.launchOf k).parts.flatten x.member)
      8 ≤ z.desc.recsz → x.bodies.length ≤ x.islP → ∃ t, exec (.teamFault k) s = .next t ∧ Relaunched s t k ∧
        (∀ i j, i < x.bodies.length → j < z.desc.recsz → t.memByte (.fabric x.cluster (base + i * z.desc.recsz + j)) =
          if j < 8 then (leBytes 4 (x.bodies.getD i 0) ++ leBytes 4 id).getD j 0
          else (((s.readRecords x.tenant z.desc x.bodies).getD i []).getD (j - 8) (0, false)).1) ∧
        ∀ j, j < table.length → t.memByte (.fabric x.cluster (base + (x.islP * z.desc.recsz + 255) / 256 * 256 + j)) = table.getD j 0) ∧
    (¬again → (s.tenant x.tenant).dead = false → ∃ t, exec (.teamFault k) s = .next t ∧ exec (.tenantFault x.tenant) s = .next t)) ∧
  (∀ (s : State) (tn : Nat), (s.tenant tn).dead = false →
    ((s.tenant tn).ckEn = true → ∃ t, exec (.tenantFault tn) s = .next t ∧ exec (.rollback tn) s = .next t) ∧
    ((s.tenant tn).ckEn = false → ∃ t, exec (.tenantFault tn) s = .next t ∧ Killed s t tn)) ∧
  ∀ (s : State),
    (∃ t, exec (.linkFlitFailure false) s = .next t ∧ (∀ m, NatSet.has t.flitFault m = (m == 0 || NatSet.has s.flitFault m)) ∧
      (∀ tn ∈ s.working, (s.tenant tn).ckEn = false → (t.tenant tn).dead = true) ∧
      (s.working.Nodup → ∀ tn ∈ s.working, (s.tenant tn).ckEn = true → if (s.tenant tn).rolls = 2 then (t.tenant tn).dead = true
        else (t.tenant tn).rolls = (s.tenant tn).rolls + 1 ∧ (t.tenant tn).rolled = true)) ∧
    (NatSet.has s.flitFault 0 = true → ∃ t, exec (.linkFlitFailure true) s = .next t ∧
      (∀ m, NatSet.has t.flitFault m = (m != 0 && NatSet.has s.flitFault m)) ∧ (.linkRecorded) ∈ t.notices ∧
      ∀ tn ∈ s.working, (t.tenant tn).dead = true)

/-- R57, R58, R81: an uncorrectable error poisons the unit that it strikes: a line of HBM, a fabric word, a register of a lane or group, a tile word, a
Saddlebag word, a byte of a copy on its way or staged; what it names changes and nothing else. A corrected error only counts. -/
def Obligations.ErrorsPoisonTheirUnit : Prop :=
  (∀ (s : State) (l : Nat), 64 * l < hbmTop → ∃ t, exec (.uncorrectableError (.hbmLine l)) s = .next t ∧
    t = { s with hbmPoison := t.hbmPoison } ∧ ∀ m, NatSet.has t.hbmPoison m = (m == l || NatSet.has s.hbmPoison m)) ∧
  (∀ (s : State) (w : Nat), 8 * w < 320 * 2 ^ 23 → s.regionAt (8 * w / 2 ^ 23) (8 * w % 2 ^ 23) = none →
    ∃ t, exec (.uncorrectableError (.fabricWord w)) s = .next t ∧ t = { s with fabPoison := t.fabPoison } ∧
      ∀ m, NatSet.has t.fabPoison m = (m == w || NatSet.has s.fabPoison m)) ∧
  (∀ (s : State) (k g l n : Nat), (s.group k g).live = true → l < (s.lpbOf k).w → n < (s.lpbOf k).nv →
    ∃ t, exec (.uncorrectableError (.vectorWord k g l n)) s = .next t ∧ OnlyThread s t k g l ∧
      t.thread k g l = (s.thread k g l).vSetP n 0 true) ∧
  (∀ (s : State) (k g n : Nat), (s.group k g).live = true → 0 < n → n < (s.lpbOf k).nu → n < 384 →
    ∃ t, exec (.uncorrectableError (.uniformWord k g n)) s = .next t ∧ OnlyGroup s t k g ∧
      t.group k g = (s.group k g).sSetP n 0 true) ∧
  (∀ (s : State) (k g l n : Nat), (s.group k g).live = true → l < (s.lpbOf k).w → n < 4 →
    ∃ t, exec (.uncorrectableError (.latchWord k g l n)) s = .next t ∧ OnlyThread s t k g l ∧
      let x := s.thread k g l
      let y := t.thread k g l
      { y with y := {}, ySaved := {} } = { x with y := {}, ySaved := {} } ∧
      if x.inTrap = true ∨ x.status = .stopped then y.y = x.y ∧ struckLatches x.ySaved y.ySaved n
      else y.ySaved = x.ySaved ∧ struckLatches x.y y.y n) ∧
  (∀ (s : State) (k g a w : Nat), (s.group k g).live = true → a < (s.lpbOf k).nt → w < 512 →
    ∃ t, exec (.uncorrectableError (.tileWord k g a w)) s = .next t ∧ OnlyGroup s t k g ∧
      let x := (s.group k g).tiles.get {} a
      let y := (t.group k g).tiles.get {} a
      { t.group k g with tiles := [] } = { s.group k g with tiles := [] } ∧
      (∀ a', a' ≠ a → (t.group k g).tiles.get {} a' = (s.group k g).tiles.get {} a') ∧ { y with val := {} } = { x with val := {} } ∧
      (∀ m, NatSet.has y.val.poison m = (m == w || NatSet.has x.val.poison m)) ∧
      ∀ m, y.val.elems.get 0 m = if m = 2 * w ∨ m = 2 * w + 1 then 0 else x.val.elems.get 0 m) ∧
  (∀ (s : State) (k i w : Nat), let r := (s.team k).resv.get {} i
    (s.team k).live = true → r.live = true → 8 * w < 64 * r.size → ∃ t, exec (.uncorrectableError (.saddlebagWord k i w)) s = .next t ∧
      t = { s with teams := t.teams } ∧ (∀ j, j ≠ k → t.team j = s.team j) ∧
      t.team k = { s.team k with sbPoison := NatSet.set (s.team k).sbPoison (8 * r.unit + w) true }) ∧
  (∀ (s : State) (o n : Nat) (x : Op), s.op o = some x → x.finished = false → x.kind.isXred = false →
    let es := (s.team x.team).staging
    (n < stagedBytes o es → ∃ t pre e post, exec (.uncorrectableError (.stagingByte o n)) s = .next t ∧ t = { s with teams := t.teams } ∧
      es = pre ++ e :: post ∧ e.copy = true ∧ e.op = o ∧ stagedBytes o pre ≤ n ∧ n < stagedBytes o pre + e.data.length ∧
      (∀ j, j ≠ x.team → t.team j = s.team j) ∧ t.team x.team = { s.team x.team with
        staging := pre ++ { e with poison := NatSet.set e.poison ((n - stagedBytes o pre) / 8) true } :: post }) ∧
    (stagedBytes o es ≤ n → n < stagedBytes o es + ((x.kind.segs ++ x.rest).map (·.len)).sum →
      ∃ t, exec (.uncorrectableError (.stagingByte o n)) s = .next t ∧ t = { s with ops := t.ops } ∧
        t.ops = s.ops.map (fun y => if y.id = o then { y with spoiled := NatSet.set y.spoiled (n - stagedBytes o es) true } else y))) ∧
  ∀ (s : State) (p : Nat), ∃ t, exec (.correctedError p) s = .next t ∧ t = { s with partitions := t.partitions } ∧
    ∀ q, t.partition q = if q = p then { s.partition q with counters := (s.partition q).counters.upd 0 8 (fun v => v + 1) } else s.partition q

/-- R60, R65: the image of a suspended team is completed; system software moves the image of a suspended team, with its region, to pages it may
write, and the distributor's record names the new address. -/
def Sys2Proof.Claims.ImagesCompleteAndMove : Prop :=
  (∀ (s : State) (k : Nat), (s.team k).suspended = true → (s.team k).complete = false →
    ∃ t, exec (.imageCompletion k) s = .next t ∧ t = { s with teams := t.teams } ∧ t.team k = { s.team k with complete := true } ∧
      ∀ j, j ≠ k → t.team j = s.team j) ∧
  ∀ (s : State) (k : Nat) (a : Dword), let x := s.team k
    x.live = true → x.suspended = true → x.gangSize = 1 → x.swapped = none → (s.pagesWritable x.tenant a.toNat x.region).1 = true →
    (s.launchOf k).lpb.seam = false →
    ∃ t, exec (.imageMove k a) s = .next t ∧ t.team k = { x with complete := true, moved := some a } ∧ (∀ j, j ≠ k → t.team j = s.team j) ∧
      t.launches = s.launches ∧ t.fab = s.fab

namespace Sys2Proof.Claims

/-! ### Margins, clocks and the debug port (R404, R405, R423 to R434) -/

/-- Only the core c changes, to x. -/
def CoreNow (s t : State) (c : Nat) (x : Core) : Prop := t = { s with cores := t.cores } ∧ ∀ k, t.core k = if k = c then x else s.core k

/-- SKVCTL's fields from a written value (R423). -/
def skvFields (c : Core) (v : Nat) : Core :=
  { c with
    skvEn := v.testBit 0
    tstep := min 10 (v / 2 % 16)
    limit := if v / 2 ^ 8 % 256 = 0 then 1 else v / 2 ^ 8 % 256
    winlog := if 10 ≤ v / 2 ^ 16 % 32 ∧ v / 2 ^ 16 % 32 ≤ 24 then v / 2 ^ 16 % 32 else 16 }

/-- The step whose voltage bounds the clock: while a change settles, the lower of the two (R423). -/
def lowStep (x : Core) : Nat := if x.settling then min x.stepWas x.cstep else x.cstep

/-- min(TGT, PCAP, BCAP) of a core that stands as x (R428, R430). -/
def ratioOf (s : State) (x : Core) : Nat :=
  min (min x.tgt x.pcap) (if s.boost = false ∨ s.occause ≠ 0 then 16 else min 20 (16 + lowStep x / 2))

/-- The ratio in force. -/
def ratioInForce (s : State) (c : Nat) : Nat := ratioOf s (s.core c)

/-- The units of a core that are idle: 1 the vector datapath, 2 the matrix slices (R433). -/
def unitsIdle (s : State) (c : Nat) : Nat :=
  (match (s.core c).bundle with
    | none => 1
    | some b => if b.stalled then 1 else 0) + (if s.accumulates c then 0 else 2)

/-- What every replay of a bundle, or of an accumulation, counts (R426). -/
structure ReplayCounted (s t : State) (c : Nat) (b : Option Bundle) : Prop where
  replays : (t.core c).replays = (s.core c).replays + 1
  counter : (t.partition (partOf (clusterOf c))).counters.get 0 4 = (s.partition (partOf (clusterOf c))).counters.get 0 4 + 1
  rtick : ∀ x, b = some x → ∀ g, ((∃ l, (g, l) ∈ x.members) → (t.group x.team g).rtick =
      if (s.group x.team g).rtick = 0xFFFFFFFF then 0xFFFFFFFF else (s.group x.team g).rtick + 1) ∧
    ((∀ l, (g, l) ∉ x.members) → (t.group x.team g).rtick = (s.group x.team g).rtick)

/-- The debug port of a tenant after a command (R404). -/
def DebugDone (s t : State) (tn op : Nat) (force : Bool) (result : Nat) (data : Word) (bad : Bool) : Prop :=
  (∀ n, n ≠ tn → t.tenant n = s.tenant n) ∧
    t.tenant tn = { s.tenant tn with dbgOp := op, dbgForce := force, dbgGo := true, dbgResult := result, dbgData := data, dbgPois := bad, dbgPend := false }

/-- A pending write-back of a vector register of a lane: an access, a result or an atomic under way will write it (R65). -/
def vectorPending (s : State) (k g l n : Nat) : Prop := (false, n) ∈ s.pendingRegs k g l

end Sys2Proof.Claims

/-- R418, R424, R426: a replay counts in SKVREP, WCOUNT, the partition's counter and the rtick of the bundle's groups. WCOUNT above LIMIT, no change
settling, escalates: CSTEP grows, or at 10 a ceiling escalation is held, and the third in 2^30 cycles quarantines the core, whose teams stop. Else
nothing changes. WCOUNT stays at 511 when it has come there (log 86). While a change settles the core keeps to the lower of the two clocks. -/
def Sys2Proof.Claims.ReplaysCountAndEscalate : Prop :=
  ∀ (s : State) (c : Nat) (b : Bundle), (s.core c).bundle = some b → s.accumulates c = false →
    b.nonReplayable (s.lpbOf b.team).w = false →
    let x := s.core c
    let recent := x.ceilAt.filter (fun n => decide (x.clk.toNat < n + 2 ^ 30))
    let n := min (x.wcount + 1) 511
    let third := x.limit < n ∧ x.settling = false ∧ 10 ≤ x.cstep ∧ 2 ≤ recent.length
    ∃ t, exec (.timingReplay c) s = .next t ∧ SameMemory s t ∧ ReplayCounted s t c (some b) ∧ SameRegisters s t ∧
      (∀ k, k ≠ c → { t.core k with bundle := none } = { s.core k with bundle := none }) ∧
      (¬third → (∀ k, k ≠ c → t.core k = s.core k) ∧ (∀ k g l, t.thread k g l = s.thread k g l) ∧ (t.core c).bundle = some b) ∧
      (n ≤ x.limit ∨ x.settling = true → t.core c = { x with replays := x.replays + 1, wcount := n }) ∧
      (x.limit < n → x.settling = false →
        (t.core c).wcount = 0 ∧ (t.core c).esc = min (x.esc + 1) 0xFFFF ∧
        (t.partition (partOf (clusterOf c))).escalations = (s.partition (partOf (clusterOf c))).escalations + 1 ∧
        (x.cstep < 10 → (t.core c).cstep = x.cstep + 1 ∧ (t.core c).settling = true ∧ (t.core c).stepWas = x.cstep ∧
          (t.core c).cur = min x.cur (ratioOf s (t.core c))) ∧
        (10 ≤ x.cstep → recent.length < 2 → (t.core c).ceil = min (x.ceil + 1) 2 ∧ (t.core c).ceilAt = recent ++ [x.clk.toNat])) ∧
      (third → (t.core c).quar = true ∧ (t.core c).escq = true ∧ (t.core c).ceil = 0 ∧ (.coreQuarantine c) ∈ t.notices ∧
        ∀ k ∈ s.teamsOn c, (s.team k).retired = false → (s.team k).exited = false → (t.team k).stopping = true)

/-- R422, R423 to R425: a write of SKVCTL stores its fields; one that changes TSTEP or EN moves CSTEP to the target, or 10, and clears WCOUNT and
CEIL, and holds the clock to the lower step's until it has settled. A change settles; WCOUNT falls to 0 at each window; a detection at a non-replayable word sets NRDET and counts; a write of QUAR 0 takes the core
back, and stranded gangs may be admitted again (R182). -/
def Sys2Proof.Claims.MarginsAreControlled : Prop :=
  (∀ (s : State) (c : Nat) (v : Word), let x := s.core c
    let y := skvFields x v.toNat
    let z := if y.tstep = x.tstep ∧ y.skvEn = x.skvEn then y else
      { y with cstep := if y.skvEn then y.tstep else 10, stepWas := lowStep x, wcount := 0, ceil := 0, ceilAt := [], settling := true }
    ∃ t, exec (.skvctlWrite c v) s = .next t ∧ CoreNow s t c { z with cur := min x.cur (ratioOf s z) }) ∧
  (∀ (s : State) (c : Nat), (s.core c).settling = true → ∃ t, exec (.marginStepSettle c) s = .next t ∧
    CoreNow s t c { s.core c with settling := false }) ∧
  (∀ (s : State) (c : Nat), (s.core c).clk.toNat % 2 ^ (s.core c).winlog = 0 → ∃ t, exec (.skiveWindowExpire c) s = .next t ∧
    CoreNow s t c { s.core c with wcount := 0 }) ∧
  (∀ (s : State) (c : Nat) (b : Bundle), (s.core c).bundle = some b → b.nonReplayable (s.lpbOf b.team).w = true →
    ∃ t, exec (.nrLateTransition c) s = .next t ∧ (t.core c).nrdet = true ∧ (t.core c).replays = (s.core c).replays + 1) ∧
  ∀ (s : State) (c : Nat), (s.core c).quar = true →
    ∃ t, exec (.quarClear c) s = .next t ∧ t = { s with cores := t.cores, launches := t.launches } ∧
      (∀ k, t.core k = if k = c then { s.core c with quar := false } else s.core k) ∧
      ∀ n, t.launch n = if (s.launch n).stranded then { s.launch n with coreBack := true } else s.launch n

/-- R427 to R434: CLKRAT stores TGT, CUR is min(TGT, PCAP, BCAP); the power controller sets PCAP, never below 8, and raises it again; an alarm
latches its bit, stops the filler and lowers PCAP, which rises again once the rail has stayed below its limit; filler runs in idle units of a core
outside quarantine and alarm (log 51), and its energy counts in whole millijoules in the ENERGY of a partition whose owner's team was last there. -/
def Sys2Proof.Claims.ClocksAndAlarms : Prop :=
  (∀ (s : State) (c : Nat) (v : Word), let x := s.core c
    let n := v.toNat % 32
    let y := { x with tgt := if 8 ≤ n ∧ n ≤ 20 then n else 16 }
    ∃ t, exec (.clkratWrite c v) s = .next t ∧
      CoreNow s t c { y with cur := ratioOf s y }) ∧
  (∀ (s : State) (c : Nat), (s.core c).cur ≠ ratioInForce s c → ∃ t, exec (.clockRatioChange c) s = .next t ∧
    CoreNow s t c { s.core c with cur := ratioInForce s c }) ∧
  (∀ (s : State) (c cap : Nat), 8 ≤ cap → cap ≤ 20 →
    (((s.core c).alarm = true → cap ≤ (s.core c).pcap) → ∃ t, exec (.powerCapAdjust c cap) s = .next t ∧
      CoreNow s t c { s.core c with pcap := cap }) ∧
    ((s.core c).pcap < cap → ∃ t, exec (.pcapRecovery c cap) s = .next t ∧ CoreNow s t c { s.core c with pcap := cap, alarm := false })) ∧
  (∀ (s : State) (a : Alarm),
    let bit := match a with
      | .ocDie d => d % 8
      | .supply => 8
      | .hbmRail => 9
      | .ioRail => 10
    ∃ t, exec (.overcurrent a) s = .next t ∧ t.occause = s.occause ||| BitVec.ofNat 11 (2 ^ bit) ∧ t.filler = [] ∧
      t.notices = s.notices ++ [.overcurrent t.occause.toNat] ∧
      t = { s with occause := t.occause, filler := [], cores := t.cores, notices := t.notices } ∧
      ∀ c, c < 1920 →
        let cap := match a with
          | .ocDie d => if c / 240 = d % 8 then 8 else 16
          | .supply => 8
          | _ => 16
        let concerned := match a with
          | .ocDie d => decide (c / 240 = d % 8)
          | _ => true
        t.core c = { s.core c with pcap := min (s.core c).pcap cap, alarm := (s.core c).alarm || concerned }) ∧
  ∀ (s : State) (c uj : Nat) (on : Bool), c < 1920 → (on = true → unitsIdle s c ≠ 0 ∧ (s.core c).quar = false ∧ (s.core c).alarm = false) →
    let q := s.partition (partOf (clusterOf c))
    ∃ t, exec (.girthFiller (c / 240) c on uj) s = .next t ∧ t = { s with filler := t.filler, partitions := t.partitions } ∧
      (∀ k, t.filler.get 0 k = if k = c then (if on then unitsIdle s c else 0) else s.filler.get 0 k) ∧
      ∀ p, t.partition p = if p = partOf (clusterOf c) ∧ NatSet.has s.coresLeft c = true then
        { q with energyFrac := (q.energyFrac + uj) % 1000, counters := q.counters.upd 0 14 (fun n => n + BitVec.ofNat 64 ((q.energyFrac + uj) / 1000)) }
        else s.partition p

/-- R404, R405: a command whose address is in no image of the tenant gives BADADDR, a word of a thread not stopped NOTSTOPPED; a read of a word
with a pending write-back gives BUSY unless forced, and returns the word's value; a write of a vector register cancels its write-back, stores DATA and
clears its poison; a write of a tile word waits for F. A command while PEND is 1 is ignored. -/
def Obligations.TheDebugPortReachesImages : Prop :=
  (∀ (s : State) (tn : Nat) (f : Bool), (s.tenant tn).dbgPend = true →
    exec (.dbgRead tn f) s = .next s ∧ exec (.dbgWrite tn f) s = .next s) ∧
  (∀ (s : State) (tn : Nat) (f : Bool), (s.tenant tn).dbgPend = false →
    let d := (s.tenant tn).dbgData
    (s.dbgTarget tn = none →
      (∃ t, exec (.dbgRead tn f) s = .next t ∧ t.teams = s.teams ∧ DebugDone s t tn 1 f 2 d false) ∧
      ∃ t, exec (.dbgWrite tn f) s = .next t ∧ t.teams = s.teams ∧ DebugDone s t tn 2 f 2 d false) ∧
    ∀ k g l n off, s.dbgTarget tn = some (k, off) → (s.lpbOf k).place off = some (g, .vector l n) → (s.team k).suspended = false → (s.team k).moved = none →
      ((s.thread k g l).status ≠ .stopped →
        (∃ t, exec (.dbgRead tn f) s = .next t ∧ t.teams = s.teams ∧ DebugDone s t tn 1 f 3 d false) ∧
        ∃ t, exec (.dbgWrite tn f) s = .next t ∧ t.teams = s.teams ∧ DebugDone s t tn 2 f 3 d false) ∧
      ((s.thread k g l).status = .stopped →
        (vectorPending s k g l n → f = false → ∃ t, exec (.dbgRead tn f) s = .next t ∧ DebugDone s t tn 1 f 1 d false) ∧
        (¬vectorPending s k g l n ∨ f = true → ∃ t, exec (.dbgRead tn f) s = .next t ∧ (∀ k' g' l', t.thread k' g' l' = s.thread k' g' l') ∧
          let bad := NatSet.has (s.thread k g l).vPoison n
          DebugDone s t tn 1 f 0 (if bad then 0 else (s.thread k g l).vGet n) bad) ∧
        ∃ t, exec (.dbgWrite tn f) s = .next t ∧ DebugDone s t tn 2 f 0 d false ∧ ¬vectorPending t k g l n ∧
          t.thread k g l = (s.thread k g l).vSetP n d false ∧ ∀ k' g' l', (k', g', l') ≠ (k, g, l) → t.thread k' g' l' = s.thread k' g' l')) ∧
  (∀ (s : State) (tn k g a n off : Nat) (f : Bool), (s.tenant tn).dbgPend = false → s.dbgTarget tn = some (k, off) →
    (s.lpbOf k).place off = some (g, .tile a n) → ((s.group k g).tiles.get {} a).f = true →
    (∃ l, l < (s.lpbOf k).w ∧ (s.thread k g l).status = .stopped) →
    ∃ t, exec (.dbgWrite tn f) s = .next t ∧ (t.tenant tn).dbgPend = true ∧ ∀ k' g', t.group k' g' = s.group k' g') ∧
  ∀ (s : State) (tn k g a n off : Nat), (s.tenant tn).dbgPend = true → s.dbgTarget tn = some (k, off) → (s.lpbOf k).place off = some (g, .tile a n) →
    ((s.group k g).tiles.get {} a).f = false → (s.team k).moved = none →
    ∃ t, exec (.dbgTileWriteDone tn) s = .next t ∧ (t.tenant tn).dbgPend = false ∧ (t.tenant tn).dbgResult = 0 ∧
      ((t.group k g).tiles.get {} a).val.elems.get 0 n = (s.tenant tn).dbgData ∧ (∀ k' g' l', t.thread k' g' l' = s.thread k' g' l')

namespace Sys2Proof.Claims

/-! ### Links, host, boot and management (R412, R435 to R445) -/

/-- A window admits an access of n bytes at an HBM physical address (R438). -/
def admits (w : Window) (sender : Nat) (right : Bool) (a n : Nat) : Prop :=
  w.en = true ∧ right = true ∧ (w.src = 0xFFF ∨ w.src = sender) ∧ w.base * 2 ^ 30 ≤ a ∧ a + n ≤ (w.base + w.size) * 2 ^ 30 ∧ a + n ≤ 1280000000000

/-- The right that a kind of access needs (R438). -/
def needs (w : Window) : PeerKind → Bool
  | .load => w.rd
  | .store => w.wr
  | .atomic => w.at_

/-- The window n of the module. -/
def windowOf (s : State) (n : Nat) : Window := s.windows.get {} n

/-- The window n is the first that admits the access. -/
def firstAdmits (s : State) (sender : Nat) (right : Window → Bool) (a len n : Nat) : Prop :=
  n < 16 ∧ admits (windowOf s n) sender (right (windowOf s n)) a len ∧ ∀ k, k < n → ¬admits (windowOf s k) sender (right (windowOf s k)) a len

/-- A byte of n from an HBM physical address lies in a poisoned unit (R58). -/
def poisoned (s : State) (a n : Nat) : Bool := (List.range n).any (fun i => s.memPoison (.hbm (a + i) false))

/-- The bytes from an HBM physical address. -/
def hbmBytes (s : State) (a n : Nat) : List Byte := (List.range n).map (fun i => s.hbm.get 0 (a + i))

/-- The state without the oldest message, and with one more notice. -/
def answered (s : State) (rest : List Inbound) (n : Notice) : State := { s with inbox := rest, notices := s.notices ++ [n] }

/-- An inbound atomic as a lane operation of R130: the first n bytes of its data are the operand, of a compare-and-swap the next n the new value. -/
def inboundLane (a n aop atype : Nat) (d : List Byte) : AwlLane :=
  ⟨0, 0, .hbm a false, a, aop, atype, aop == 8, n, BitVec.ofNat 64 (leNat (d.take n)), BitVec.ofNat 64 (leNat ((d.drop n).take n)), []⟩

/-- Its size and type fit together. -/
def sized (n aop atype : Nat) : Prop := (n = 4 ∨ n = 8) ∧ (aop ≠ 8 → (n = 8 ↔ atype = 2 ∨ atype = 3))

/-- What one operation leaves at n bytes: the new value, or the old bytes where a comparison fails or a unit is poisoned (R58, R130). -/
def afterAtomic (s : State) (a n aop atype : Nat) (d : List Byte) : List Byte :=
  if poisoned s a n then hbmBytes s a n
  else match newValue (inboundLane a n aop atype d) (leNat (hbmBytes s a n)) with
    | some v => leBytes n v
    | none => hbmBytes s a n

/-- The addresses of the bytes of some places, in order. -/
def placeBytes (ps : List (Nat × Nat)) : List Nat := (ps.map (fun p => (List.range p.2).map (p.1 + ·))).flatten

/-- Some window admits a byte. -/
def admitsByte (s : State) (q : Nat) (right : Window → Bool) (a : Nat) : Prop :=
  ∃ w, w < 16 ∧ admits (windowOf s w) q (right (windowOf s w)) a 1

/-- The first window that admits all places of a contribution. -/
def takes (s : State) (q : Nat) (ps : List (Nat × Nat)) (n : Nat) : Prop :=
  let all := fun k => ∀ p ∈ ps, admits (windowOf s k) q (windowOf s k).at_ p.1 p.2
  n < 16 ∧ all n ∧ ∀ k, k < n → ¬all k

/-- No byte of the addresses lies where the undo entries of as many writes go. -/
def clearOfLogs (s : State) (as : List Nat) : Prop := ∀ a ∈ as, ¬inLog s as.length (.hbm a false)

/-- No byte of memory but those at HBM addresses of the list changes, outside new undo entries. -/
def OnlyAt (s t : State) (as : List Nat) : Prop :=
  ∀ l, ¬((cell l).1 = 1 ∧ (cell l).2 ∈ as) → ¬inLog s as.length l → t.memByte l = s.memByte l

/-- Every check of R443, by SHA-384, Ed25519 and ML-DSA-65 as their standards give them (log 10). -/
def imageAccepted (bs : List Byte) : Prop :=
  let v := parseVuone bs
  vuoneHeaderOk bs = true ∧ Config.fusedSvn ≤ v.svn ∧ sha384 v.key1 = Config.fusedEd25519 ∧ sha384 v.key2 = Config.fusedMlDsa65 ∧
    ed25519 v.key1 v.body v.sig1 = true ∧ mlDsa65 v.key2 v.body v.sig2 = true

/-- A core as step 5 sets it up. -/
def coreUp (s t : State) (c : Nat) : Prop :=
  (t.core c).feat = Config.featOf c &&& 0xFF ∧ (t.core c).up = true ∧ (t.core c).quar = (s.core c).quar ∧ 8 ≤ (t.core c).tgt ∧
    (t.core c).tgt ≤ 20 ∧ (t.core c).tstep ≤ 10

/-- Bring-up has gone through with an image, or failed at one of the steps 3 to 6 of R445 (which: log 12), reported it and stopped there; from step 5
on the cores, RNZID and the Renaz ports are up. -/
def BroughtUp (s t : State) (image : List Byte) : Prop :=
  t.boot.image = image ∧
    ((t.boot.stage = 6 ∧ t.boot.failed = s.boot.failed ∧ t.notices = s.notices) ∨
      ∃ n, n ∈ [3, 4, 5, 6] ∧ t.boot.stage = n - 1 ∧ t.boot.failed = true ∧ t.notices = s.notices ++ [.bootReport n false]) ∧
    (t.boot.stage < 5 → t.cores = s.cores ∧ t.portsDown = s.portsDown) ∧
    (5 ≤ t.boot.stage → t.rnzid = Config.moduleNumber.toNat ∧ t.portsDown = [] ∧ ∀ c, c < 1920 → coreUp s t c)

/-- What a PF reset leaves before the boot sequence (R7, R436): no context, every register but the RWS ones at its reset value. -/
structure AfterReset (s u : State) : Prop where
  contexts : u.teams = [] ∧ u.launches = [] ∧ u.tenants = [] ∧ u.flights = [] ∧ u.ops = [] ∧ u.awl = []
  registers : u.partitions = [] ∧ u.windows = [] ∧ u.boost = false ∧ u.occause = s.occause
  cores : ∀ c, c < 1920 → (u.core c).quar = (s.core c).quar ∧ (u.core c).escq = (s.core c).escq ∧ (u.core c).nrdet = (s.core c).nrdet ∧
    (u.core c).wcount = 0 ∧ (u.core c).replays = 0 ∧ (u.core c).bundle = none
  boot : u.boot = s.boot
  told : ∃ ns, u.notices = s.notices ++ ns
  /-- Only the records of killed launches are written. -/
  memory : (∀ e ∈ s.tenants, (s.tenant e.1).dead = true) → SameMemory s u ∧ u.notices = s.notices

/-- An untried offer to try (R443): the first of all, then the first of the other port if there is one, then the first of those left. -/
def triesNext (b : Boot) (i : Nat) : Prop :=
  let left := fun k => k < b.offers.length ∧ k ∉ b.tried
  let port := fun k => (b.offers.getD k (0, [])).1
  left i ∧ ((∃ j, b.tried = [j] ∧ port i ≠ port j ∧ ∀ k, k < i → left k → port k = port j) ∨
    ((∀ j, b.tried = [j] → ∀ k, left k → port k = port j) ∧ ∀ k, k < i → ¬left k))

end Sys2Proof.Claims

/-- R58, R130, R438 to R440: a single access is admitted by the first enabled window that holds it whole and admits sender and kind, else rejected: a
load returns its bytes, a store writes them, an atomic leaves its new value and returns the old. An XCPY is done whole, or rejected at its first
rejected byte with nothing written (the message's form: log 53). A contribution with an index below XRN and in turn is applied to its elements and the
counter moves on; out of turn it waits in the buffer, of which none whose turn it is stays; a full buffer makes it wait. -/
def Obligations.PeersReachTheirWindows : Prop :=
  (∀ (s : State) (q : Nat) (k : PeerKind) (a n aop atype : Nat) (d : List Byte) (rest : List Inbound), s.inbox = .peer q k a n d aop atype :: rest →
    let len := if k = .store then d.length else n
    ((∀ w, w < 16 → ¬admits (windowOf s w) q (needs (windowOf s w) k) a len) →
      exec .renazInboundAccess s = .next (answered s rest (.peerReply q false [] false (some a)))) ∧
    ∀ w, firstAdmits s q (fun x => needs x k) a len w →
      (k = .load → exec .renazInboundAccess s = .next (answered s rest (.peerReply q true (hbmBytes s a n) (poisoned s a n) none))) ∧
      (k = .store → ∃ t, exec .renazInboundAccess s = .next t ∧ HbmBytes s t a d ∧ t.teams = s.teams ∧ t.inbox = rest ∧
        t.notices = s.notices ++ [.peerReply q true [] false none]) ∧
      (k = .atomic → sized n aop atype → ∃ t, exec .renazInboundAccess s = .next t ∧ HbmBytes s t a (afterAtomic s a n aop atype d) ∧
        t.teams = s.teams ∧ t.inbox = rest ∧ t.notices = s.notices ++
          [.peerReply q true (if poisoned s a n then leBytes n 0 else hbmBytes s a n) (poisoned s a n) none])) ∧
  (∀ (s : State) (q : Nat) (wr : Bool) (ps : List (Nat × Nat)) (d : List Byte) (rest : List Inbound), s.inbox = .transfer q wr ps d :: rest →
    let right := fun x : Window => if wr then x.wr else x.rd
    (∀ pre a post, placeBytes ps = pre ++ a :: post → (∀ x ∈ pre, admitsByte s q right x) → ¬admitsByte s q right a →
      exec .renazInboundAccess s = .next (answered s rest (.peerReply q false [] false (some a)))) ∧
    ((∀ x ∈ placeBytes ps, admitsByte s q right x) →
      (wr = false → exec .renazInboundAccess s =
        .next (answered s rest (.peerReply q true ((placeBytes ps).map (fun x => s.hbm.get 0 x))
          ((placeBytes ps).any (fun x => s.memPoison (.hbm x false))) none))) ∧
      (wr = true → (placeBytes ps).Nodup → d.length = (placeBytes ps).length → clearOfLogs s (placeBytes ps) →
        ∃ t, exec .renazInboundAccess s = .next t ∧ t.teams = s.teams ∧ t.inbox = rest ∧
          t.notices = s.notices ++ [.peerReply q true [] false none] ∧ OnlyAt s t (placeBytes ps) ∧
          ∀ k, k < d.length → t.hbm.get 0 ((placeBytes ps).getD k 0) = d.getD k 0))) ∧
  ∀ (s : State) (q i aop atype : Nat) (ps : List (Nat × Nat)) (d : List Byte) (rest : List Inbound), s.inbox = .xred q i aop atype ps d :: rest →
    let c : Contribution := ⟨i, aop, atype, ps, d⟩
    let size := if atype = 2 ∨ atype = 3 then 8 else 4
    let as := placeBytes ps
    ((∀ n, ¬takes s q ps n) → ∃ a, exec .xredContribution s = .next (answered s rest (.peerReply q false [] false (some a))) ∧
      ∀ pre x post, as = pre ++ x :: post → (∀ y ∈ pre, admitsByte s q (·.at_) y) → ¬admitsByte s q (·.at_) x → a = x) ∧
    ∀ n, takes s q ps n →
      let w := windowOf s n
      (w.xrn ≤ i → ∃ a, exec .xredContribution s = .next (answered s rest (.peerReply q false [] false (some a)))) ∧
      (i < w.xrn → i = w.next → w.buffer = [] → as.Nodup → d.length = as.length → (∀ p ∈ ps, size ∣ p.2) → clearOfLogs s as →
        ∃ t, exec .xredContribution s = .next t ∧ t.teams = s.teams ∧ t.inbox = rest ∧
          t.notices = s.notices ++ [.peerReply q true [] false none] ∧
          (∀ k, windowOf t k = if k = n then { w with next := (w.next + 1) % w.xrn } else windowOf s k) ∧ OnlyAt s t as ∧
          ∀ e, (e + 1) * size ≤ d.length →
            hbmBytes t (as.getD (e * size) 0) size = afterAtomic s (as.getD (e * size) 0) size aop atype (d.drop (e * size))) ∧
      (i < w.xrn → i ≠ w.next → w.buffer.length < 64 → (∀ c ∈ w.buffer, c.index ≠ w.next) → ∃ t, exec .xredContribution s = .next t ∧
        SameMemory s t ∧ t.teams = s.teams ∧ t.inbox = rest ∧ t.notices = s.notices ++ [.peerReply q true [] false none] ∧
        ∀ k, windowOf t k = if k = n then { w with buffer := w.buffer ++ [c] } else windowOf s k) ∧
      (i < w.xrn → (i = w.next ∨ w.buffer.length < 64) → w.buffer.length ≤ 64 → ∃ t, exec .xredContribution s = .next t ∧ t.inbox = rest ∧
        t.notices = s.notices ++ [.peerReply q true [] false none] ∧ ∀ c ∈ (windowOf t n).buffer, c.index ≠ (windowOf t n).next) ∧
      (i < w.xrn → i ≠ w.next → 64 ≤ w.buffer.length → rest = [] → exec .xredContribution s = .next { s with idled := true })

/-- R412, R435, R437, R441, R444: an inbound host write below the HBM top stores its bytes; a port that goes down strands no traffic while every peer
has another, and is a module fault for the tenants with traffic to a peer that has none; a Redfish request is answered on its port; an SPDM request is
answered, version 1.2, ECDSA P-384 with SHA-384, the chain of slot 0, and the measurements as R444 states them (codes and layout: log 10). -/
def Obligations.TheHostAndManagementAreServed : Prop :=
  (∀ (s : State) (p a : Nat) (d : List Byte) (rest : List Inbound), s.inbox = .host p a d :: rest →
    (a + d.length ≤ 1280000000000 → ∃ t, exec .inboundHostWrite s = .next t ∧ HbmBytes s t a d ∧ t.teams = s.teams ∧ t.inbox = rest) ∧
    (1280000000000 < a + d.length → exec .inboundHostWrite s = .fault (.noSuchAddress a))) ∧
  (∀ (s : State) (p : Nat), let t := { s with portsDown := NatSet.set s.portsDown p true }
    ((∀ e ∈ s.tenants, ∀ m ∈ s.peersOf e.1, ∃ q ∈ Config.portsTo m, NatSet.has t.portsDown q = false) → exec (.renazPortDown p) s = .next t) ∧
    ∀ e ∈ s.tenants, ∀ m ∈ s.peersOf e.1, Config.portsTo m ≠ [] → (∀ q ∈ Config.portsTo m, NatSet.has t.portsDown q = true) →
      ∃ u, exec (.renazPortDown p) s = .next u ∧ u.portsDown = t.portsDown ∧
        NatSet.has u.flitFault (m + 1) = !NatSet.has s.flitFault (m + 1) ∧
        ((s.tenant e.1).ckEn = false ∨ NatSet.has s.flitFault (m + 1) = true → (u.tenant e.1).dead = true)) ∧
  (∀ (s : State) (p : Nat) (rest : List Inbound), s.inbox = .redfish p :: rest → p < 2 →
    exec .redfishRequest s = .next (answered s rest (.redfish p))) ∧
  ∀ (s : State) (i : Instr) (code p : Nat) (n : List Byte) (rest : List Inbound), s.inbox = .spdm code p n :: rest →
    let v := parseVuone s.boot.image
    let feat := (List.range 1920).foldl (fun (d : Dword) c => d ||| (s.core c).feat) 0
    let chain := Config.rootCert :: Config.deviceCerts
    let sign := fun bs => Config.deviceSign (sha384 bs)
    let ms := [(1, sha384 Config.bootRom), (2, sha384 v.body), (3, leBytes 4 v.svn), (4, leBytes 8 feat.toNat)].filter
      (fun m : Nat × List Byte => p == 0xFF || p == m.1)
    ∀ reply, (i, code, reply) ∈ [(Instr.getVersion, 0x84, SpdmReply.version 1 2), (.getCapabilities, 0xE1, .capabilities),
        (.negotiateAlgorithms, 0xE3, .ecdsaP384Sha384), (.getDigests, 0x81, .digests (sha384 chain.flatten)),
        (.getCertificate, 0x82, .certificate chain),
        (.challenge, 0x83, .challengeAuth (sha384 chain.flatten) n (sign (sha384 chain.flatten ++ n))),
        (.getMeasurements, 0xE0, .measurements ms n (sign ((ms.map (·.2)).flatten ++ n)))] →
      exec i s = .next (answered s rest (.spdm code reply))

/-- R7, R436, R441 to R443, R445: power starts the boot ROM, or its step fails and is reported; DHCP is asked on both ports, offers are taken down,
an image is fetched from the first, then from the other port, then from those left; one that passes every check is brought up, another is discarded,
and with no offer left the complex stays in recovery and reports it. A loss of power leaves nothing of the module. A PF reset ends every context,
gives every register but the RWS ones its reset value, and boots again from the image held if it passes. What a step that is not its turn does is no
effect; how messages come, which step fails, and a held image that no longer passes are logs 12 and 53. -/
def Obligations.BootAndResets : Prop :=
  (∀ s : State, (s.boot.stage = 0 → s.boot.failed = false → ∃ t, exec .powerOn s = .next t ∧
      (t = { s with free := s.free + 1, boot := { stage := 1 } } ∨
        t = { s with free := s.free + 1, boot := { failed := true }, notices := s.notices ++ [.bootReport 1 false] })) ∧
    (s.boot.stage ≠ 0 ∨ s.boot.failed = true → exec .powerOn s = .next { s with idled := true })) ∧
  (∀ s : State, exec .powerLoss s = .next
    { State.reset with agenda := s.agenda, inbox := s.inbox, notices := s.notices, free := s.free, hostMem := s.hostMem, peerMem := s.peerMem,
                       xredNext := s.xredNext }) ∧
  (∀ s : State, s.boot.stage = 1 → s.boot.recovery = false →
    (s.boot.asked = false → ∃ t a b, exec .networkBoot s = .next t ∧ t = { s with
      free := s.free + 2, boot := { s.boot with asked := true }, notices := s.notices ++ [.dhcp 0 a, .dhcp 1 b] }) ∧
    (s.boot.asked = true → ∀ p url rest, p < 2 → s.inbox = .offer p url :: rest →
      exec .networkBoot s = .next { s with inbox := rest, boot := { s.boot with offers := s.boot.offers ++ [(p, url)] } }) ∧
    (s.boot.asked = true → (∀ p url, p < 2 → Inbound.offer p url ∉ s.inbox) →
      (s.boot.waiting = none → (∀ i, i < s.boot.offers.length → i ∈ s.boot.tried) →
        exec .networkBoot s = .next { s with boot := { s.boot with recovery := true }, notices := s.notices ++ [.bootReport 2 false] }) ∧
      (∀ i, s.boot.waiting = none → triesNext s.boot i → let o := s.boot.offers.getD i (0, [])
        exec .networkBoot s = .next { s with
          boot := { s.boot with tried := s.boot.tried ++ [i], waiting := some o.1 }, notices := s.notices ++ [.httpGet o.1 o.2] }) ∧
      ∀ p, s.boot.waiting = some p →
        ((∀ bs, Inbound.image p bs ∉ s.inbox) → exec .networkBoot s = .next { s with boot := { s.boot with waiting := none } }) ∧
        ∀ bs rest, s.inbox = .image p bs :: rest →
          (¬imageAccepted bs → exec .networkBoot s = .next { s with inbox := rest, boot := { s.boot with waiting := none } }) ∧
          (imageAccepted bs → ∃ t, exec .networkBoot s = .next t ∧ BroughtUp s t bs ∧ SameMemory s t ∧ t.teams = s.teams ∧ t.inbox = rest))) ∧
  ∀ s : State, Sparse.wf {} s.cores = true → ∃ u t, exec .pfReset s = .next t ∧ AfterReset s u ∧
    (s.boot.image = [] → t = u) ∧
    (s.boot.image ≠ [] → imageAccepted s.boot.image → BroughtUp u t s.boot.image ∧ SameMemory u t ∧ t.teams = []) ∧
    (s.boot.image ≠ [] → ¬imageAccepted s.boot.image →
      t = { u with boot := { stage := 1 }, notices := u.notices ++ [.bootReport 2 false] })

/-- R27, R32: a walk for a page of which the cluster holds nothing gives the leaf that the tables hold, and the cluster then holds that translation;
besides it, and where there is no leaf, the cluster gains only pointer entries of memory on the page's path. A 64 KiB block is held as the page or as
the block (R29). Without valid tables nothing changes. -/
def Sys2Proof.Claims.WalksFillTheCache : Prop :=
  ∀ (s : State) (c tn page : Nat), (∀ e ∈ s.tlb, e.cluster = c → ¬holdsAddress e tn (page * 4096)) →
    ((s.tenant tn).tnptb.getLsbD 0 = false → exec (.translationWalk c tn page) s = .next s) ∧
    (∀ e f, (s.tenant tn).tnptb.getLsbD 0 = true → s.walk tn (page * 4096) = .block e f →
      ∃ t, exec (.translationWalk c tn page) s = .next t ∧ t = { s with tlb := t.tlb, free := s.free + 1 } ∧ (∀ e ∈ s.tlb, e ∈ t.tlb) ∧
        (⟨c, tn, page * 4096, 12, e⟩ ∈ t.tlb ∨ ⟨c, tn, page / 16 * 65536, 16, f⟩ ∈ t.tlb)) ∧
    ((s.tenant tn).tnptb.getLsbD 0 = true →
      s.walk tn (page * 4096) = .fault ∨ (∃ pte log2, s.walk tn (page * 4096) = .leaf pte log2) →
      let leaf := fun pte log2 => (⟨c, tn, page * 4096 / 2 ^ log2 * 2 ^ log2, log2, pte⟩ : TlbEntry)
      ∃ t, exec (.translationWalk c tn page) s = .next t ∧ t = { s with tlb := t.tlb } ∧ (∀ e ∈ s.tlb, e ∈ t.tlb) ∧
        (∀ pte log2, s.walk tn (page * 4096) = .leaf pte log2 → leaf pte log2 ∈ t.tlb) ∧
        ∀ e ∈ t.tlb, e ∈ s.tlb ∨ (s.walk tn (page * 4096) = .leaf e.pte e.log2 ∧ e = leaf e.pte e.log2) ∨
          (e.cluster = c ∧ holdsAddress e tn (page * 4096) ∧ pointerOk e.pte = true ∧ ∃ a, e.pte = s.hbmDword a))

namespace Sys2Proof.Claims

/-! ### Steps, encodings, reset and invariants -/

/-- n cycles of the reference clock have passed on the cores (R201, R424, R427), and the ages of the ready threads are up to date (R199). -/
def later (s : State) (n : Nat) : State := s.pass n

/-- A thread but for what its age and its priority are kept in (R199). -/
def ageless (x : Thread) : Thread := { x with late := false, readyAt := 0, prio := false }

/-- The state in which a core's word runs: that core is the one at work, and filler in its vector datapath stops (R433). -/
def onCoreNow (s : State) (c : Nat) : State := { s with cur := c, filler := s.filler.upd 0 c (fun n => n / 2 * 2) }

/-- The machine's own invariant: every memory is in its canonical form (log 3). -/
def memoryForm (s : State) : Prop := s.memWf = true

/-- Every bundle on an issue slice holds a thread, and the agenda holds events and issues, no instruction word (R170; log 2). -/
def bundlesAndAgenda (s : State) : Prop :=
  (∀ c b, (s.core c).bundle = some b → b.members ≠ []) ∧ ∀ x ∈ s.agenda, ∀ i, x.act = .event i → i.isWord = false

end Sys2Proof.Claims

/-- R170, R260 to R262, R270, R284: when the next turn of the agenda issues the bundle of a core, the step is exec of the instruction that the word at its
position, with the word after it, decodes to, on that core; a word that decodes to none is the illegal instruction. An event's turn is exec of the event,
but before step 6 of bring-up nothing that comes from the host has an effect (R445, log 52). First the turn's cycles pass: each core counts its own, and
nothing but the ages of the threads changes, of which those no longer ready lose their priority (log 64). A bundle past its last word ends or waits. -/
def Obligations.StepRunsTheDecodedWord : Prop :=
  (∀ (s : State) (n c : Nat) (r : List Turn) (b : Bundle) (i : Instr), s.agenda = ⟨n, .issue c⟩ :: r → (s.core c).bundle = some b →
    b.pos < hdrCount b.header →
    let at_ := Claims.onCoreNow (Claims.later { s with agenda := r } n) c
    (decodeWords (b.words.getD b.pos 0) b.words[b.pos + 1]? = .ok i → step s = exec i at_) ∧
    (∀ e, decodeWords (b.words.getD b.pos 0) b.words[b.pos + 1]? = .error e → step s = exec (.illegalInstruction (b.words.getD b.pos 0)) at_)) ∧
  (∀ (s : State) (n c : Nat) (r : List Turn) (b : Bundle), s.agenda = ⟨n, .issue c⟩ :: r → (s.core c).bundle = some b →
    hdrCount b.header ≤ b.pos → step s = .next ((Claims.later { s with agenda := r } n).endOrWait c b)) ∧
  (∀ (s : State) (n : Nat) (r : List Turn) (i : Instr), s.agenda = ⟨n, .event i⟩ :: r → i.isWord = false →
    let l := Claims.later { s with agenda := r } n
    (fromHost i = false ∨ s.boot.stage = 6 → step s = exec i l) ∧
    (fromHost i = true → s.boot.stage ≠ 6 → step s = .next { l with idled := true })) ∧
  ∀ (s : State) (n : Nat), let l := Claims.later s n
    l = { s with idled := false, teams := l.teams, cores := l.cores } ∧
    (∀ k, { l.team k with groups := [] } = { s.team k with groups := [] } ∧
      ∀ g, { l.group k g with threads := [] } = { s.group k g with threads := [] } ∧ ∀ m, Claims.ageless (l.thread k g m) = Claims.ageless (s.thread k g m) ∧
        ((l.thread k g m).prio = true → (s.thread k g m).prio = true)) ∧
    ∀ c, (∃ e ∈ s.cores, e.1 = c) →
      let x := s.core c
      let past := (x.phase + n * x.cur) / 16
      ∃ w, l.core c = { x with clk := x.clk + BitVec.ofNat 64 past, phase := (x.phase + n * x.cur) % 16, wcount := w } ∧
        (x.clk.toNat / 2 ^ x.winlog = (x.clk.toNat + past) / 2 ^ x.winlog → w = x.wcount) ∧
        (x.clk.toNat / 2 ^ x.winlog ≠ (x.clk.toNat + past) / 2 ^ x.winlog → w = 0)

/-- R269 to R280, R301 to R394: words written out from the encodings of the spec decode to the instructions they stand for. -/
def Obligations.DecodeReadsSpecWords : Prop :=
  decodeWords 0x36040C00 none = .ok (.sget 2 12) ∧
  decodeWords 0x960C05C0 none = .ok (.rebal false 6 2 0xE0 none) ∧
  decodeWords 0x98140205 (some 0x89800000) = .ok (.vtopk false 10 1 2 ⟨0x89, .f32, 0, false, 0⟩) ∧
  decodeWords 0xB20A0B01 (some 0x00010002) = .ok (.atom false 5 5 0x80 ⟨0, 4, 0, 0, 2⟩) ∧
  decodeWords 0xD00A010C none = .ok (.cpy 10 2 (.short 12)) ∧
  decodeWords 0xC0000710 none = .ok (.push 14 (.short 16)) ∧
  decodeWords 0xC4120700 none = .ok (.pop 18 14) ∧
  decodeWords 0xCE282811 (some 0x0000003C) = .ok (.sweep 20 20 8 60) ∧
  decodeWords 0xEC000000 none = .ok (.tzero 0) ∧
  decodeWords 0xEC06280A none = .ok (.msearch 3 20) ∧
  decodeWords 0xEE00181C none = .ok (.resv 12 14) ∧
  decodeWords 0xF0000A01 none = .ok (.launch 10 1) ∧
  decodeWords 0xF4000412 none = .ok (.islLink 4 1 2) ∧
  decodeWords 0xFA021A85 none = .ok (.pctr 26 1 5) ∧
  decodeWords 0xFC000000 none = .ok .halt

/-- R269, R270: every well-formed instruction word, with every operand at every value its encoding admits, is read back from the words that encode
it: one word, whatever follows, or two. -/
def Sys2Proof.Claims.DecodeUndoesEncode : Prop :=
  ∀ i : Instr, i.isWord = true → i.wf = true →
    (∃ w, encode i = [w] ∧ wordsOf w = 1 ∧ ∀ x, decodeWords w x = .ok i) ∨
      ∃ w x, encode i = [w, x] ∧ wordsOf w = 2 ∧ decodeWords w (some x) = .ok i

/-- R269, R270, R284: a word that decodes, with the word after it where it has one, is exactly the encoding of the instruction read, which is
well-formed: no bit of it is dropped and no reserved bit is set. -/
def Sys2Proof.Claims.EncodeUndoesDecode : Prop :=
  ∀ (w x : Word) (i : Instr), decodeWords w (some x) = .ok i →
    i.wf = true ∧ i.isWord = true ∧ encode i = if wordsOf w = 2 then [w, x] else [w]

/-- R18, R187, R218, R388, R404, R411, R423, R427, R430, R432, R438: the registers at reset hold the values that their tables give. -/
def Sys2Proof.Claims.RegistersAtReset : Prop :=
  let s := State.reset
  (∀ c, let x := s.core c
    x.skvEn = false ∧ x.tstep = 10 ∧ x.limit = 16 ∧ x.winlog = 16 ∧ x.cstep = 10 ∧ x.wcount = 0 ∧ x.ceil = 0 ∧ x.replays = 0 ∧ x.esc = 0 ∧
      x.quar = false ∧ x.escq = false ∧ x.nrdet = false ∧ x.tgt = 16 ∧ x.cur = 16 ∧ x.pcap = 20) ∧
  (∀ p, let x := s.partition p
    x.tenant = 0 ∧ x.valid = false ∧ x.sizeg = 1 ∧ x.ulbase = 0) ∧
  (∀ n, let x := s.tenant n
    x.tnptb = 0 ∧ x.fwbase = 0 ∧ x.tninv = 0 ∧ x.invPend = false ∧ x.invDrop = false ∧ x.susp = false ∧ x.ctxPend = false ∧ x.dead = false ∧
      x.ckEn = false ∧ x.forced = false ∧ x.rolled = false ∧ x.rolls = 0 ∧ x.ckSeq = 0 ∧ x.trapEnt = 0 ∧ x.dbgAll = false ∧ x.dbgBrk = true ∧
      x.evBase = 0 ∧ x.evEn = false ∧ x.evHead = 0 ∧ x.evTail = 0 ∧ (∀ k, x.fwperm.get 0 k = 0) ∧
      (∀ q, (x.queues.get {} q).en = false ∧ (x.queues.get {} q).head = 0 ∧ (x.queues.get {} q).tail = 0) ∧
      ∀ k, (x.slots.get {} k).en = false ∧ (x.slots.get {} k).active = false ∧ (x.slots.get {} k).step = 0) ∧
  (∀ n, let w := s.windows.get {} n
    w.en = false ∧ w.rd = false ∧ w.wr = false ∧ w.at_ = false ∧ w.owner = 0 ∧ w.src = 0xFFF ∧ w.base = 0 ∧ w.size = 1 ∧ w.xrn = 1) ∧
  s.boost = false ∧ s.occause = 0 ∧ ∀ d, s.girthRate.get 400 d = 400

/-- Log 3: every step that answers a next state keeps the canonical form of every memory and poison map. -/
def Obligations.StepKeepsMemoryForm : Prop :=
  ∀ s t : State, Claims.memoryForm s → step s = .next t → Claims.memoryForm t

/-- R170, log 2: every step that answers a next state leaves a thread in every bundle on an issue slice, and no instruction word in the agenda. -/
def Obligations.StepKeepsBundlesAndAgenda : Prop :=
  ∀ s t : State, Claims.bundlesAndAgenda s → step s = .next t → Claims.bundlesAndAgenda t

/-- The machine after reset meets both invariants. -/
def Sys2Proof.Claims.ResetMeetsTheInvariants : Prop := Claims.memoryForm State.reset ∧ Claims.bundlesAndAgenda State.reset

namespace Sys2Proof.Claims

/-! ### The ordering tests (R109 to R121) -/

/-- An outcome that some execution of message passing shows: of its values, with the variation m (R110, R115, R116). -/
def passes (m : Ordering.MpCase) (v3 v4 : Nat) : Bool := (Ordering.messagePassing m v3 v4).allowed

/-- R115: the release and the store of y have scope .clus. -/
def narrow : Ordering.MpCase := { relScope := 2, yScope := 2 }

/-- R116: P0 runs on the owner cluster 2 of y, P1 on another die and with REMOTE. -/
def promoted : Ordering.MpCase := { relScope := 2, yScope := 2, remote := true, c0 := 2, c1 := 41 }

/-- Fences of a kind, in either order: 0 ACQ, 2 AR, 3 SC (R111, R113). -/
def buffers (kind v3 v4 : Nat) : Bool :=
  (Ordering.storeBuffering kind true v3 v4).allowed || (Ordering.storeBuffering kind false v3 v4).allowed

def readsApart (kind v3 v4 v5 v6 : Nat) : Bool :=
  (Ordering.independentReads kind true v3 v4 v5 v6).allowed || (Ordering.independentReads kind false v3 v4 v5 v6).allowed

end Sys2Proof.Claims

/-- R110 to R119: the axioms give the outcome tables: every outcome listed as allowed is admitted, every one listed as forbidden is not. Of R120, z is
1 and never 0; of R121, an MMAB whose party has seen x = 1 sees both reservations and both copies. -/
def Obligations.OrderingTestsHaveTheirVerdicts : Prop :=
  let mp := Claims.passes
  let n := Claims.narrow
  let p := Claims.promoted
  let sb := Claims.buffers
  let lb := Ordering.loadBufferingAllowed
  let iriw := Claims.readsApart
  let rr := fun v3 v4 => (Ordering.coherenceRR v3 v4).allowed
  let cpy := fun w v3 v4 => (Ordering.copyMessage w v3 v4).allowed
  let rein := fun c w v4 => (Ordering.reinMessage c w v4).allowed
  let seam := fun v3 v4 => (Ordering.seamMessage v3 v4).allowed
  let bag := fun v3 e b => (Ordering.reservation v3 e b).allowed
  (mp {} 1 1 = true ∧ mp {} 1 0 = false ∧ mp {} 0 0 = true ∧ mp {} 0 1 = true ∧ mp { fences := false } 1 0 = true) ∧
  (sb 3 1 1 = true ∧ sb 3 0 1 = true ∧ sb 3 1 0 = true ∧ sb 3 0 0 = false ∧ sb 2 0 0 = true) ∧
  (lb false 0 0 = true ∧ lb false 0 1 = true ∧ lb false 1 0 = true ∧ lb false 1 1 = true ∧
    lb true 0 0 = true ∧ lb true 0 1 = false ∧ lb true 1 0 = false ∧ lb true 1 1 = false) ∧
  (iriw 3 1 0 1 0 = false ∧ iriw 0 1 0 1 0 = true ∧
    ∀ v ∈ [0, 1], ∀ w ∈ [0, 1], ∀ x ∈ [0, 1], ∀ y ∈ [0, 1], (v, w, x, y) ≠ (1, 0, 1, 0) → iriw 3 v w x y = true) ∧
  (rr 0 0 = true ∧ rr 0 1 = true ∧ rr 0 2 = true ∧ rr 1 1 = true ∧ rr 1 2 = true ∧ rr 2 2 = true ∧ rr 1 0 = false ∧ rr 2 0 = false ∧
    rr 2 1 = false) ∧
  (mp n 1 0 = true ∧ mp n 1 1 = true ∧ mp n 0 0 = true ∧ mp n 0 1 = true ∧ mp { n with c1 := 0 } 1 0 = false ∧ mp { n with det := true } 1 0 = false) ∧
  (mp p 1 1 = true ∧ mp p 1 0 = false ∧ mp p 0 0 = true ∧ mp p 0 1 = true ∧ mp { p with remote := false } 1 0 = true ∧
    mp { p with c0 := 0 } 1 0 = true) ∧
  (cpy (some 0) 1 1 = true ∧ cpy (some 0) 0 0 = true ∧ cpy (some 0) 0 1 = true ∧ cpy (some 0) 1 0 = false ∧ cpy none 1 0 = true ∧
    cpy (some 1) 1 0 = true) ∧
  (rein false false 1 = true ∧ rein false false 0 = false ∧ rein true false 0 = true ∧ rein true true 0 = false) ∧
  (seam 1 0 = true ∧ seam 1 1 = true ∧ seam 0 0 = false ∧ seam 0 1 = false) ∧
  ((Ordering.detCounter 1).allowed = true ∧ (Ordering.detCounter 0).allowed = false) ∧
  bag 1 true true = true ∧ bag 1 false false = false ∧ bag 1 true false = false ∧ bag 0 false false = true ∧ bag 0 true false = true ∧
    bag 0 true true = true

/-! ### Statements that hold together -/

/-- A uniform word writes its result into sd and into the latch of every lane, and changes nothing else. -/
def Obligations.UniformWordsWriteTheirResults : Prop :=
  Claims.UniformWordWritesOneResult ∧ Claims.UniformPairWordWritesBothWords

/-- Special registers, flags and modes are read and written as their tables say. -/
def Obligations.SpecialRegistersAndModes : Prop :=
  Claims.SgetReadsSpecialRegister ∧ Claims.SsetWritesFlags ∧ Claims.ModesetSetsModes ∧ Claims.ModegetReadsModeAndFlags

/-- Branches, calls and returns move the threads to their targets, after the checks of a target in order. -/
def Obligations.BranchesCallsAndReturns : Prop :=
  Claims.BranchMovesThreads ∧ Claims.CallPushesAndMoves ∧ Claims.RetPopsAndMoves ∧ Claims.TargetChecksInOrder

/-- The JOIN words enrol, strike and park threads, and a full mask releases them together. -/
def Obligations.JoinWordsEnrolParkAndRelease : Prop :=
  Claims.JoinEnrolSetsBits ∧ Claims.JoinStrikeClearsAndTests ∧ Claims.JoinParkParksAndTests

/-- NOP changes nothing, YIELD takes a new age, EXIT ends its threads. -/
def Obligations.NopYieldAndExit : Prop :=
  Claims.NopAndYield ∧ Claims.ExitEndsThreads

/-- Every float word computes per thread in its mode; the first NaN operand propagates. -/
def Obligations.FloatWordsComputePerLane : Prop :=
  Claims.FloatWordComputesPerLane ∧ Claims.FirstNanPropagates

/-- Float sums, products, roots, functions and conversions round once, by their rules and special cases. -/
def Obligations.FloatArithmeticRoundsOnce : Prop :=
  Claims.SumsAndProductsRoundOnce ∧ Claims.FloatFunctionsFollowTheirRules ∧ Claims.ConversionsFollowTheirRules

/-- Cross-lane words combine the lanes of a group; RAND draws the hash. -/
def Obligations.CrossLaneWordsAndRand : Prop :=
  Claims.CrossLaneWordCombinesLanes ∧ Claims.RandDrawsTheHash

/-- Loads and stores send out one access of each thread, at its address, and leave memory as it stands. -/
def Obligations.LoadsAndStoresSendTheirAccesses : Prop :=
  Claims.LoadsSendOneReadPerThread ∧ Claims.StoresSendOneWritePerThread ∧ Claims.UniformLoadIsOneAccess

/-- A DET store is staged; a store to an image of the own team writes the register. -/
def Obligations.StagedAndImageStores : Prop :=
  Claims.DetStoresAreStaged ∧ Claims.ImageStoreWritesTheRegister

/-- A performed store writes exactly its bytes, a load reads its bytes, a write-back fills its registers. -/
def Obligations.AccessesPerformAndWriteBack : Prop :=
  Claims.PerformedStoreWritesItsBytes ∧ Claims.PerformedLoadReadsItsBytes ∧ Claims.WriteBackFillsTheRegisters

/-- The checks of a word trap every thread, or the failing threads alone, or hold the word at issue. -/
def Obligations.ChecksTrapTheirThreads : Prop :=
  Claims.FailingCheckTrapsEveryThread ∧ Claims.OwnFailureLeavesTheBundle ∧ Claims.HeldThreadsStandAside ∧ Claims.WordWaitsAtIssue ∧ Claims.UndecodableWordTraps

/-- TRAP saves the resumption point, a nested trap stops the thread, TRET restores and goes on. -/
def Obligations.TrapsNestAndReturn : Prop :=
  Claims.TrapWordTakesItsTrap ∧ Claims.NestedTrapStops ∧ Claims.TretRestoresAndContinues

/-- An atomic asks its owners, which grant in turn and do its lane operations one after another. -/
def Obligations.AtomicsAreOrderedAtTheirOwner : Prop :=
  Claims.AtomicsAskTheOwners ∧ Claims.OwnerGrantsRoundRobin ∧ Claims.RequestPerformsItsLanes

/-- Fences and counter waits hold their word until their accesses are done; PREF only fills the cache. -/
def Obligations.FencesWaitsAndPrefetch : Prop :=
  Claims.FenceOrdersAndGoesOn ∧ Claims.CounterWaitsCompare ∧ Claims.PrefetchOnlyFillsTheCache

/-- PUSH and POP move handles through a rein within its allowance; a rein opens and closes. -/
def Obligations.ReinsCarryHandles : Prop :=
  Claims.PushEntersTheRing ∧ Claims.PopTakesTheHandle ∧ Claims.ReinOpensAndCloses ∧ Claims.RemotePushAsksTheOwner

/-- A copy or transfer that passes its checks issues as one counted operation; an empty one completes. -/
def Obligations.CopiesAndTransfersIssue : Prop :=
  Claims.CopiesIssueOneOperation ∧ Claims.EmptyCopyCompletesAtOnce ∧ Claims.TransfersIssueOneOperation

/-- A copy moves exactly its source bytes to its destination, and operations are recorded when complete. -/
def Obligations.CopiesMoveTheirBytes : Prop :=
  Claims.CopyMovesItsBytes ∧ Claims.OperationsComplete

/-- SWEEP hands its queries over, and the traversal finds the first leaf by the exact box test. -/
def Obligations.SweepFindsTheFirstHit : Prop :=
  Claims.SweepHandsOverTheQueries ∧ Claims.SweepFindsTheFirstLeaf

/-- MMA, MMAB and SMMA send ac plus the product of their operands to ad. -/
def Obligations.MatrixWordsSendTheProduct : Prop :=
  Claims.MatrixOperandsStandWhereNamed ∧ Claims.MatrixWordSendsTheProduct

/-- The tile words write their tile, TSTAT its bits, MSEARCH the 2:4 mask. -/
def Obligations.TileWordsAndMaskSearch : Prop :=
  Claims.TileWordsWriteTheTile ∧ Claims.MsearchWritesTheMask

/-- TLD and TST move the rows of a tile, and results arrive in the tile that waits for them. -/
def Obligations.TileAccessesAndResults : Prop :=
  Claims.TileAccessesMoveRows ∧ Claims.ResultsArriveInTheTile

/-- RESV takes the lowest free id and units; RELS frees them; RQRY reads the table. -/
def Obligations.ReservationsAreKept : Prop :=
  Claims.ResvTakesTheLowestUnits ∧ Claims.RelsAndRqryReadTheTable

/-- GANG sets g; MMAG waits for every listed group and gives each its own product. -/
def Obligations.GangsMeetAtMmag : Prop :=
  Claims.GangRegisterAndArrival ∧ Claims.RendezvousRunsInEveryGroup

/-- LAUNCH enters the pool, LWAIT and LSTAT report the child. -/
def Obligations.LaunchesAndTheirHandles : Prop :=
  Claims.LaunchEntersThePool ∧ Claims.HandlesReportTheChild

/-- Link and wake words send reports; ISL.STEP arrives and answers; ISL.STILL marks the team. -/
def Obligations.IslandWordsReportAndArrive : Prop :=
  Claims.ReportWordsSendReports ∧ Claims.StepWordsArriveAndAnswer

/-- Host writes of registers store their fields; queues and the event ring enable within their limits. -/
def Obligations.RegisterWritesStoreTheirFields : Prop :=
  Claims.RegisterWritesStoreFields ∧ Claims.QueuesAndRingsEnable

/-- A change of owner and an invalidation remove translations; a walk caches what the tables hold. -/
def Obligations.OwnershipAndTranslations : Prop :=
  Claims.PartownChangesTheOwner ∧ Claims.InvalidationRemovesTranslations ∧ Claims.WalksFillTheCache

/-- The picker takes the oldest ready bundle, with priority first, and its clause starts on the core. -/
def Obligations.BundlesArePickedAndStart : Prop :=
  Claims.PickerTakesTheOldest ∧ Claims.ClauseStartsOnTheCore

/-- The first offer of the sources is taken; the checks are made in order, and the first failure is its status. -/
def Obligations.LaunchesAreAccepted : Prop :=
  Claims.AcceptanceChecksInOrder ∧ Claims.AcceptanceTakesTheNextOffer

/-- A team with no work left retires and is released in order; the launch then completes. -/
def Obligations.TeamsRetireAndLaunchesComplete : Prop :=
  Claims.TeamsRetireAndAreReleased ∧ Claims.LaunchesComplete

/-- The Seam unit fires the lowest ready point and rereads linked records. -/
def Obligations.SeamPointsFire : Prop :=
  Claims.SeamFiresTheLowestReadyPoint ∧ Claims.LinkedRecordsAreReread

/-- Island sets open and close under ISCTL; a report that arrives joins the step or is counted as dropped. -/
def Obligations.IslandSetsAndReports : Prop :=
  Claims.IslandSetsOpenAndClose ∧ Claims.ReportsReachTheEngine

/-- A context suspends when quiet and resumes unchanged; images of suspended teams are completed and move. -/
def Obligations.ContextsSuspendAndImagesMove : Prop :=
  Claims.ContextsSuspendAndResume ∧ Claims.SuspensionsWaitForTheTeams ∧ Claims.ImagesCompleteAndMove

/-- Replays are counted and escalate; SKVCTL moves the step; the clock is the least of its target and caps; alarms lower it. -/
def Obligations.MarginsClocksAndAlarms : Prop :=
  Claims.ReplaysCountAndEscalate ∧ Claims.MarginsAreControlled ∧ Claims.ClocksAndAlarms

/-- Decoding undoes encoding for every well-formed instruction, and encoding undoes decoding. -/
def Obligations.DecodeAndEncodeAgree : Prop :=
  Claims.DecodeUndoesEncode ∧ Claims.EncodeUndoesDecode

/-- Registers at reset hold their values, and the reset state meets the invariants. -/
def Obligations.TheMachineAtReset : Prop :=
  Claims.RegistersAtReset ∧ Claims.ResetMeetsTheInvariants
end

