-- ==== Sys2Proof/Laws/Dispatch.lean ====
section
/-! SUPPORT. Each instruction's meaning, by name: what exec answers for each constructor. -/

namespace Sys2Proof.Machine

variable (s : State)

@[simp] theorem exec_registerWrite (fn : Nat) (off : Nat) (width : Nat) (value : Dword) : exec (.registerWrite fn off width value) s = execRegisterWrite fn off width value s := rfl
@[simp] theorem exec_partownWrite (partition : Nat) (value : Word) : exec (.partownWrite partition value) s = execPartownWrite partition value s := rfl
@[simp] theorem exec_tninvTenant (tenant : Nat) (value : Dword) : exec (.tninvTenant tenant value) s = execTninvTenant tenant value s := rfl
@[simp] theorem exec_tninvPage (tenant : Nat) (value : Dword) : exec (.tninvPage tenant value) s = execTninvPage tenant value s := rfl
@[simp] theorem exec_tninvDone (tenant : Nat) : exec (.tninvDone tenant) s = execTninvDone tenant s := rfl
@[simp] theorem exec_queueEnable (tenant : Nat) (queue : Nat) (value : Word) : exec (.queueEnable tenant queue value) s = execQueueEnable tenant queue value s := rfl
@[simp] theorem exec_qtailWrite (tenant : Nat) (queue : Nat) (value : Word) : exec (.qtailWrite tenant queue value) s = execQtailWrite tenant queue value s := rfl
@[simp] theorem exec_lpbAccept (tenant : Nat) : exec (.lpbAccept tenant) s = execLpbAccept tenant s := rfl
@[simp] theorem exec_teamPlace (tenant : Nat) : exec (.teamPlace tenant) s = execTeamPlace tenant s := rfl
@[simp] theorem exec_clauseStart (core : Nat) : exec (.clauseStart core) s = execClauseStart core s := rfl
@[simp] theorem exec_pickerPriority (core : Nat) : exec (.pickerPriority core) s = execPickerPriority core s := rfl
@[simp] theorem exec_pendingWriteback (flight : Nat) : exec (.pendingWriteback flight) s = execPendingWriteback flight s := rfl
@[simp] theorem exec_imageCompletion (team : Nat) : exec (.imageCompletion team) s = execImageCompletion team s := rfl
@[simp] theorem exec_translationWalk (cluster : Nat) (tenant : Nat) (page : Nat) : exec (.translationWalk cluster tenant page) s = execTranslationWalk cluster tenant page s := rfl
@[simp] theorem exec_counterCompletion (op : Nat) : exec (.counterCompletion op) s = execCounterCompletion op s := rfl
@[simp] theorem exec_awlGrant (owner : Nat) : exec (.awlGrant owner) s = execAwlGrant owner s := rfl
@[simp] theorem exec_awlPerform (owner : Nat) (index : Nat) : exec (.awlPerform owner index) s = execAwlPerform owner index s := rfl
@[simp] theorem exec_remoteAck (op : Nat) (ok : Bool) : exec (.remoteAck op ok) s = execRemoteAck op ok s := rfl
@[simp] theorem exec_peerCheckReply (core : Nat) (accept : Bool) (va : Dword) : exec (.peerCheckReply core accept va) s = execPeerCheckReply core accept va s := rfl
@[simp] theorem exec_matrixResult (team : Nat) (group : Nat) (tile : Nat) : exec (.matrixResult team group tile) s = execMatrixResult team group tile s := rfl
@[simp] theorem exec_tileLoadComplete (team : Nat) (group : Nat) (tile : Nat) : exec (.tileLoadComplete team group tile) s = execTileLoadComplete team group tile s := rfl
@[simp] theorem exec_sweepResult (flight : Nat) : exec (.sweepResult flight) s = execSweepResult flight s := rfl
@[simp] theorem exec_reinAllowanceGrant (core : Nat) : exec (.reinAllowanceGrant core) s = execReinAllowanceGrant core s := rfl
@[simp] theorem exec_reinRemoteWrite (op : Nat) : exec (.reinRemoteWrite op) s = execReinRemoteWrite op s := rfl
@[simp] theorem exec_cinchRelease (launch : Nat) : exec (.cinchRelease launch) s = execCinchRelease launch s := rfl
@[simp] theorem exec_teamRetire (team : Nat) : exec (.teamRetire team) s = execTeamRetire team s := rfl
@[simp] theorem exec_launchComplete (launch : Nat) : exec (.launchComplete launch) s = execLaunchComplete launch s := rfl
@[simp] theorem exec_seamFire (launch : Nat) : exec (.seamFire launch) s = execSeamFire launch s := rfl
@[simp] theorem exec_seamLinkReread (launch : Nat) (face : Nat) : exec (.seamLinkReread launch face) s = execSeamLinkReread launch face s := rfl
@[simp] theorem exec_islSetEnable (tenant : Nat) (slot : Nat) (value : Word) : exec (.islSetEnable tenant slot value) s = execIslSetEnable tenant slot value s := rfl
@[simp] theorem exec_islSetDisable (tenant : Nat) (slot : Nat) (value : Word) : exec (.islSetDisable tenant slot value) s = execIslSetDisable tenant slot value s := rfl
@[simp] theorem exec_pm1Write (tenant : Nat) (slot : Nat) (value : Word) : exec (.pm1Write tenant slot value) s = execPm1Write tenant slot value s := rfl
@[simp] theorem exec_islReportReceive (tenant : Nat) (slot : Nat) (kind : Nat) (a : Nat) (b : Nat) : exec (.islReportReceive tenant slot kind a b) s = execIslReportReceive tenant slot kind a b s := rfl
@[simp] theorem exec_stepBoundary (tenant : Nat) (slot : Nat) : exec (.stepBoundary tenant slot) s = execStepBoundary tenant slot s := rfl
@[simp] theorem exec_islSetPoison (tenant : Nat) (slot : Nat) : exec (.islSetPoison tenant slot) s = execIslSetPoison tenant slot s := rfl
@[simp] theorem exec_eventRingEnable (tenant : Nat) (value : Word) : exec (.eventRingEnable tenant value) s = execEventRingEnable tenant value s := rfl
@[simp] theorem exec_dbgRead (tenant : Nat) (force : Bool) : exec (.dbgRead tenant force) s = execDbgRead tenant force s := rfl
@[simp] theorem exec_dbgWrite (tenant : Nat) (force : Bool) : exec (.dbgWrite tenant force) s = execDbgWrite tenant force s := rfl
@[simp] theorem exec_dbgTileWriteDone (tenant : Nat) : exec (.dbgTileWriteDone tenant) s = execDbgTileWriteDone tenant s := rfl
@[simp] theorem exec_contextSuspend (tenant : Nat) : exec (.contextSuspend tenant) s = execContextSuspend tenant s := rfl
@[simp] theorem exec_suspendComplete (tenant : Nat) : exec (.suspendComplete tenant) s = execSuspendComplete tenant s := rfl
@[simp] theorem exec_contextResume (tenant : Nat) : exec (.contextResume tenant) s = execContextResume tenant s := rfl
@[simp] theorem exec_contextKill (tenant : Nat) : exec (.contextKill tenant) s = execContextKill tenant s := rfl
@[simp] theorem exec_checkpointTake (tenant : Nat) : exec (.checkpointTake tenant) s = execCheckpointTake tenant s := rfl
@[simp] theorem exec_rollback (tenant : Nat) : exec (.rollback tenant) s = execRollback tenant s := rfl
@[simp] theorem exec_checkpointEnable (tenant : Nat) : exec (.checkpointEnable tenant) s = execCheckpointEnable tenant s := rfl
@[simp] theorem exec_checkpointDisable (tenant : Nat) : exec (.checkpointDisable tenant) s = execCheckpointDisable tenant s := rfl
@[simp] theorem exec_undoLogMark (partition : Nat) : exec (.undoLogMark partition) s = execUndoLogMark partition s := rfl
@[simp] theorem exec_teamFault (team : Nat) : exec (.teamFault team) s = execTeamFault team s := rfl
@[simp] theorem exec_tenantFault (tenant : Nat) : exec (.tenantFault tenant) s = execTenantFault tenant s := rfl
@[simp] theorem exec_linkFlitFailure (recurring : Bool) : exec (.linkFlitFailure recurring) s = execLinkFlitFailure recurring s := rfl
@[simp] theorem exec_uncorrectableError (unit : PoisonUnit) : exec (.uncorrectableError unit) s = execUncorrectableError unit s := rfl
@[simp] theorem exec_correctedError (partition : Nat) : exec (.correctedError partition) s = execCorrectedError partition s := rfl
@[simp] theorem exec_skvctlWrite (core : Nat) (value : Word) : exec (.skvctlWrite core value) s = execSkvctlWrite core value s := rfl
@[simp] theorem exec_marginStepSettle (core : Nat) : exec (.marginStepSettle core) s = execMarginStepSettle core s := rfl
@[simp] theorem exec_skiveWindowExpire (core : Nat) : exec (.skiveWindowExpire core) s = execSkiveWindowExpire core s := rfl
@[simp] theorem exec_timingReplay (core : Nat) : exec (.timingReplay core) s = execTimingReplay core s := rfl
@[simp] theorem exec_nrLateTransition (core : Nat) : exec (.nrLateTransition core) s = execNrLateTransition core s := rfl
@[simp] theorem exec_quarClear (core : Nat) : exec (.quarClear core) s = execQuarClear core s := rfl
@[simp] theorem exec_clkratWrite (core : Nat) (value : Word) : exec (.clkratWrite core value) s = execClkratWrite core value s := rfl
@[simp] theorem exec_clockRatioChange (core : Nat) : exec (.clockRatioChange core) s = execClockRatioChange core s := rfl
@[simp] theorem exec_powerCapAdjust (core : Nat) (cap : Nat) : exec (.powerCapAdjust core cap) s = execPowerCapAdjust core cap s := rfl
@[simp] theorem exec_overcurrent (alarm : Alarm) : exec (.overcurrent alarm) s = execOvercurrent alarm s := rfl
@[simp] theorem exec_pcapRecovery (core : Nat) (cap : Nat) : exec (.pcapRecovery core cap) s = execPcapRecovery core cap s := rfl
@[simp] theorem exec_girthFiller (die : Nat) (core : Nat) (running : Bool) (microjoules : Nat) : exec (.girthFiller die core running microjoules) s = execGirthFiller die core running microjoules s := rfl
@[simp] theorem exec_vfFlr (partition : Nat) : exec (.vfFlr partition) s = execVfFlr partition s := rfl
@[simp] theorem exec_renazPortDown (port : Nat) : exec (.renazPortDown port) s = execRenazPortDown port s := rfl
@[simp] theorem exec_trap (n : BitVec 8) : exec (.trap n) s = execTrap n s := rfl
@[simp] theorem exec_joinEnrol (n : BitVec 8) : exec (.joinEnrol n) s = execJoinEnrol n s := rfl
@[simp] theorem exec_joinPark (n : BitVec 8) : exec (.joinPark n) s = execJoinPark n s := rfl
@[simp] theorem exec_joinStrike (n : BitVec 8) : exec (.joinStrike n) s = execJoinStrike n s := rfl
@[simp] theorem exec_joinTest (d : BitVec 9) (n : BitVec 8) : exec (.joinTest d n) s = execJoinTest d n s := rfl
@[simp] theorem exec_smovi (d : BitVec 9) (imm : BitVec 16) : exec (.smovi d imm) s = execSmovi d imm s := rfl
@[simp] theorem exec_smovh (d : BitVec 9) (imm : BitVec 16) : exec (.smovh d imm) s = execSmovh d imm s := rfl
@[simp] theorem exec_saddi (d : BitVec 9) (imm : BitVec 16) : exec (.saddi d imm) s = execSaddi d imm s := rfl
@[simp] theorem exec_sldc (d : BitVec 9) (lit : Word) : exec (.sldc d lit) s = execSldc d lit s := rfl
@[simp] theorem exec_smov (d : BitVec 9) (a : BitVec 9) : exec (.smov d a) s = execSmov d a s := rfl
@[simp] theorem exec_sclz (d : BitVec 9) (a : BitVec 9) : exec (.sclz d a) s = execSclz d a s := rfl
@[simp] theorem exec_spopc (d : BitVec 9) (a : BitVec 9) : exec (.spopc d a) s = execSpopc d a s := rfl
@[simp] theorem exec_sadd (d : BitVec 9) (a : BitVec 9) (b : STail) : exec (.sadd d a b) s = execSadd d a b s := rfl
@[simp] theorem exec_ssub (d : BitVec 9) (a : BitVec 9) (b : STail) : exec (.ssub d a b) s = execSsub d a b s := rfl
@[simp] theorem exec_smul (d : BitVec 9) (a : BitVec 9) (b : STail) : exec (.smul d a b) s = execSmul d a b s := rfl
@[simp] theorem exec_smulh (d : BitVec 9) (a : BitVec 9) (b : STail) : exec (.smulh d a b) s = execSmulh d a b s := rfl
@[simp] theorem exec_smulhS32 (d : BitVec 9) (a : BitVec 9) (b : STail) : exec (.smulhS32 d a b) s = execSmulhS32 d a b s := rfl
@[simp] theorem exec_sand (d : BitVec 9) (a : BitVec 9) (b : STail) : exec (.sand d a b) s = execSand d a b s := rfl
@[simp] theorem exec_sor (d : BitVec 9) (a : BitVec 9) (b : STail) : exec (.sor d a b) s = execSor d a b s := rfl
@[simp] theorem exec_sxor (d : BitVec 9) (a : BitVec 9) (b : STail) : exec (.sxor d a b) s = execSxor d a b s := rfl
@[simp] theorem exec_sandn (d : BitVec 9) (a : BitVec 9) (b : STail) : exec (.sandn d a b) s = execSandn d a b s := rfl
@[simp] theorem exec_sshl (d : BitVec 9) (a : BitVec 9) (b : STail) : exec (.sshl d a b) s = execSshl d a b s := rfl
@[simp] theorem exec_sshr (d : BitVec 9) (a : BitVec 9) (b : STail) : exec (.sshr d a b) s = execSshr d a b s := rfl
@[simp] theorem exec_ssar (d : BitVec 9) (a : BitVec 9) (b : STail) : exec (.ssar d a b) s = execSsar d a b s := rfl
@[simp] theorem exec_smin (d : BitVec 9) (a : BitVec 9) (b : STail) : exec (.smin d a b) s = execSmin d a b s := rfl
@[simp] theorem exec_smax (d : BitVec 9) (a : BitVec 9) (b : STail) : exec (.smax d a b) s = execSmax d a b s := rfl
@[simp] theorem exec_sminz (d : BitVec 9) (a : BitVec 9) (b : STail) : exec (.sminz d a b) s = execSminz d a b s := rfl
@[simp] theorem exec_smaxz (d : BitVec 9) (a : BitVec 9) (b : STail) : exec (.smaxz d a b) s = execSmaxz d a b s := rfl
@[simp] theorem exec_scmp (d : BitVec 9) (a : BitVec 9) (e : SExt) : exec (.scmp d a e) s = execScmp d a e s := rfl
@[simp] theorem exec_ssel (d : BitVec 9) (a : BitVec 9) (e : SExt) : exec (.ssel d a e) s = execSsel d a e s := rfl
@[simp] theorem exec_sadd64 (d : BitVec 9) (a : BitVec 9) (b : STail) : exec (.sadd64 d a b) s = execSadd64 d a b s := rfl
@[simp] theorem exec_ssub64 (d : BitVec 9) (a : BitVec 9) (b : STail) : exec (.ssub64 d a b) s = execSsub64 d a b s := rfl
@[simp] theorem exec_bra (off : BitVec 14) : exec (.bra off) s = execBra off s := rfl
@[simp] theorem exec_braLong (lit : Word) : exec (.braLong lit) s = execBraLong lit s := rfl
@[simp] theorem exec_bru (src : BitVec 8) (cond : BitVec 3) (off : BitVec 14) : exec (.bru src cond off) s = execBru src cond off s := rfl
@[simp] theorem exec_bruLong (src : BitVec 8) (cond : BitVec 3) (lit : Word) : exec (.bruLong src cond lit) s = execBruLong src cond lit s := rfl
@[simp] theorem exec_sget (func : BitVec 8) (d : BitVec 9) : exec (.sget func d) s = execSget func d s := rfl
@[simp] theorem exec_sset (func : BitVec 8) (a : BitVec 9) : exec (.sset func a) s = execSset func a s := rfl
@[simp] theorem exec_brt (src : BitVec 8) (cond : BitVec 3) (off : BitVec 14) : exec (.brt src cond off) s = execBrt src cond off s := rfl
@[simp] theorem exec_brtLong (src : BitVec 8) (cond : BitVec 3) (lit : Word) : exec (.brtLong src cond lit) s = execBrtLong src cond lit s := rfl
@[simp] theorem exec_modeset (src : BitVec 8) : exec (.modeset src) s = execModeset src s := rfl
@[simp] theorem exec_modeget (d : BitVec 7) : exec (.modeget d) s = execModeget d s := rfl
@[simp] theorem exec_modegetFlags (d : BitVec 7) : exec (.modegetFlags d) s = execModegetFlags d s := rfl
@[simp] theorem exec_clk (d : BitVec 9) : exec (.clk d) s = execClk d s := rfl
@[simp] theorem exec_call (off : BitVec 14) : exec (.call off) s = execCall off s := rfl
@[simp] theorem exec_callLong (lit : Word) : exec (.callLong lit) s = execCallLong lit s := rfl
@[simp] theorem exec_brx (src : BitVec 8) : exec (.brx src) s = execBrx src s := rfl
@[simp] theorem exec_callx (src : BitVec 8) : exec (.callx src) s = execCallx src s := rfl
@[simp] theorem exec_vadd (nw : Bool) (d : BitVec 7) (a : BitVec 8) (b : BitVec 8) (e : Option VExt) : exec (.vadd nw d a b e) s = execVadd nw d a b e s := rfl
@[simp] theorem exec_vaddsat (nw : Bool) (d : BitVec 7) (a : BitVec 8) (b : BitVec 8) (e : VExt) : exec (.vaddsat nw d a b e) s = execVaddsat nw d a b e s := rfl
@[simp] theorem exec_vsub (nw : Bool) (d : BitVec 7) (a : BitVec 8) (b : BitVec 8) (e : Option VExt) : exec (.vsub nw d a b e) s = execVsub nw d a b e s := rfl
@[simp] theorem exec_vsubsat (nw : Bool) (d : BitVec 7) (a : BitVec 8) (b : BitVec 8) (e : VExt) : exec (.vsubsat nw d a b e) s = execVsubsat nw d a b e s := rfl
@[simp] theorem exec_vmul (nw : Bool) (d : BitVec 7) (a : BitVec 8) (b : BitVec 8) (e : Option VExt) : exec (.vmul nw d a b e) s = execVmul nw d a b e s := rfl
@[simp] theorem exec_vmulh (nw : Bool) (d : BitVec 7) (a : BitVec 8) (b : BitVec 8) (e : Option VExt) : exec (.vmulh nw d a b e) s = execVmulh nw d a b e s := rfl
@[simp] theorem exec_vmad (nw : Bool) (d : BitVec 7) (a : BitVec 8) (b : BitVec 8) (e : VExt) : exec (.vmad nw d a b e) s = execVmad nw d a b e s := rfl
@[simp] theorem exec_vand (nw : Bool) (d : BitVec 7) (a : BitVec 8) (b : BitVec 8) (e : Option VExt) : exec (.vand nw d a b e) s = execVand nw d a b e s := rfl
@[simp] theorem exec_vor (nw : Bool) (d : BitVec 7) (a : BitVec 8) (b : BitVec 8) (e : Option VExt) : exec (.vor nw d a b e) s = execVor nw d a b e s := rfl
@[simp] theorem exec_vxor (nw : Bool) (d : BitVec 7) (a : BitVec 8) (b : BitVec 8) (e : Option VExt) : exec (.vxor nw d a b e) s = execVxor nw d a b e s := rfl
@[simp] theorem exec_vshl (nw : Bool) (d : BitVec 7) (a : BitVec 8) (b : BitVec 8) (e : Option VExt) : exec (.vshl nw d a b e) s = execVshl nw d a b e s := rfl
@[simp] theorem exec_vshr (nw : Bool) (d : BitVec 7) (a : BitVec 8) (b : BitVec 8) (e : Option VExt) : exec (.vshr nw d a b e) s = execVshr nw d a b e s := rfl
@[simp] theorem exec_vsar (nw : Bool) (d : BitVec 7) (a : BitVec 8) (b : BitVec 8) (e : Option VExt) : exec (.vsar nw d a b e) s = execVsar nw d a b e s := rfl
@[simp] theorem exec_vmin (nw : Bool) (d : BitVec 7) (a : BitVec 8) (b : BitVec 8) (e : Option VExt) : exec (.vmin nw d a b e) s = execVmin nw d a b e s := rfl
@[simp] theorem exec_vmax (nw : Bool) (d : BitVec 7) (a : BitVec 8) (b : BitVec 8) (e : Option VExt) : exec (.vmax nw d a b e) s = execVmax nw d a b e s := rfl
@[simp] theorem exec_vnot (nw : Bool) (d : BitVec 7) (a : BitVec 8) (e : Option VExt) : exec (.vnot nw d a e) s = execVnot nw d a e s := rfl
@[simp] theorem exec_vabs (nw : Bool) (d : BitVec 7) (a : BitVec 8) (e : Option VExt) : exec (.vabs nw d a e) s = execVabs nw d a e s := rfl
@[simp] theorem exec_vneg (nw : Bool) (d : BitVec 7) (a : BitVec 8) (e : Option VExt) : exec (.vneg nw d a e) s = execVneg nw d a e s := rfl
@[simp] theorem exec_vclz (nw : Bool) (d : BitVec 7) (a : BitVec 8) (e : Option VExt) : exec (.vclz nw d a e) s = execVclz nw d a e s := rfl
@[simp] theorem exec_vpopc (nw : Bool) (d : BitVec 7) (a : BitVec 8) (e : Option VExt) : exec (.vpopc nw d a e) s = execVpopc nw d a e s := rfl
@[simp] theorem exec_vbrev (nw : Bool) (d : BitVec 7) (a : BitVec 8) (e : Option VExt) : exec (.vbrev nw d a e) s = execVbrev nw d a e s := rfl
@[simp] theorem exec_vcmp (nw : Bool) (d : BitVec 7) (a : BitVec 8) (b : BitVec 8) (e : VExt) : exec (.vcmp nw d a b e) s = execVcmp nw d a b e s := rfl
@[simp] theorem exec_vsel (nw : Bool) (d : BitVec 7) (a : BitVec 8) (b : BitVec 8) (e : VExt) : exec (.vsel nw d a b e) s = execVsel nw d a b e s := rfl
@[simp] theorem exec_vbfe (nw : Bool) (d : BitVec 7) (a : BitVec 8) (b : BitVec 8) (e : VExt) : exec (.vbfe nw d a b e) s = execVbfe nw d a b e s := rfl
@[simp] theorem exec_vbfi (nw : Bool) (d : BitVec 7) (a : BitVec 8) (b : BitVec 8) (e : VExt) : exec (.vbfi nw d a b e) s = execVbfi nw d a b e s := rfl
@[simp] theorem exec_vdiv (nw : Bool) (d : BitVec 7) (a : BitVec 8) (b : BitVec 8) (e : Option VExt) : exec (.vdiv nw d a b e) s = execVdiv nw d a b e s := rfl
@[simp] theorem exec_vrem (nw : Bool) (d : BitVec 7) (a : BitVec 8) (b : BitVec 8) (e : Option VExt) : exec (.vrem nw d a b e) s = execVrem nw d a b e s := rfl
@[simp] theorem exec_fadd (nw : Bool) (d : BitVec 7) (a : BitVec 8) (b : BitVec 8) (e : Option VExt) : exec (.fadd nw d a b e) s = execFadd nw d a b e s := rfl
@[simp] theorem exec_fsub (nw : Bool) (d : BitVec 7) (a : BitVec 8) (b : BitVec 8) (e : Option VExt) : exec (.fsub nw d a b e) s = execFsub nw d a b e s := rfl
@[simp] theorem exec_fmul (nw : Bool) (d : BitVec 7) (a : BitVec 8) (b : BitVec 8) (e : Option VExt) : exec (.fmul nw d a b e) s = execFmul nw d a b e s := rfl
@[simp] theorem exec_ffma (nw : Bool) (d : BitVec 7) (a : BitVec 8) (b : BitVec 8) (e : VExt) : exec (.ffma nw d a b e) s = execFfma nw d a b e s := rfl
@[simp] theorem exec_fmin (nw : Bool) (d : BitVec 7) (a : BitVec 8) (b : BitVec 8) (e : Option VExt) : exec (.fmin nw d a b e) s = execFmin nw d a b e s := rfl
@[simp] theorem exec_fmax (nw : Bool) (d : BitVec 7) (a : BitVec 8) (b : BitVec 8) (e : Option VExt) : exec (.fmax nw d a b e) s = execFmax nw d a b e s := rfl
@[simp] theorem exec_fabs (nw : Bool) (d : BitVec 7) (a : BitVec 8) (e : Option VExt) : exec (.fabs nw d a e) s = execFabs nw d a e s := rfl
@[simp] theorem exec_fneg (nw : Bool) (d : BitVec 7) (a : BitVec 8) (e : Option VExt) : exec (.fneg nw d a e) s = execFneg nw d a e s := rfl
@[simp] theorem exec_fclass (nw : Bool) (d : BitVec 7) (a : BitVec 8) (e : Option VExt) : exec (.fclass nw d a e) s = execFclass nw d a e s := rfl
@[simp] theorem exec_frnd (nw : Bool) (d : BitVec 7) (a : BitVec 8) (e : Option VExt) : exec (.frnd nw d a e) s = execFrnd nw d a e s := rfl
@[simp] theorem exec_frcp (nw : Bool) (d : BitVec 7) (a : BitVec 8) (e : Option VExt) : exec (.frcp nw d a e) s = execFrcp nw d a e s := rfl
@[simp] theorem exec_frsq (nw : Bool) (d : BitVec 7) (a : BitVec 8) (e : Option VExt) : exec (.frsq nw d a e) s = execFrsq nw d a e s := rfl
@[simp] theorem exec_fsqrt (nw : Bool) (d : BitVec 7) (a : BitVec 8) (e : Option VExt) : exec (.fsqrt nw d a e) s = execFsqrt nw d a e s := rfl
@[simp] theorem exec_flog2 (nw : Bool) (d : BitVec 7) (a : BitVec 8) (e : Option VExt) : exec (.flog2 nw d a e) s = execFlog2 nw d a e s := rfl
@[simp] theorem exec_fsin (nw : Bool) (d : BitVec 7) (a : BitVec 8) (e : Option VExt) : exec (.fsin nw d a e) s = execFsin nw d a e s := rfl
@[simp] theorem exec_fcos (nw : Bool) (d : BitVec 7) (a : BitVec 8) (e : Option VExt) : exec (.fcos nw d a e) s = execFcos nw d a e s := rfl
@[simp] theorem exec_fcmp (nw : Bool) (d : BitVec 7) (a : BitVec 8) (b : BitVec 8) (e : VExt) : exec (.fcmp nw d a b e) s = execFcmp nw d a b e s := rfl
@[simp] theorem exec_fscale (nw : Bool) (d : BitVec 7) (a : BitVec 8) (b : BitVec 8) (e : Option VExt) : exec (.fscale nw d a b e) s = execFscale nw d a b e s := rfl
@[simp] theorem exec_fexp2s (nw : Bool) (d : BitVec 7) (a : BitVec 8) (b : BitVec 8) (e : VExt) : exec (.fexp2s nw d a b e) s = execFexp2s nw d a b e s := rfl
@[simp] theorem exec_cvt (nw : Bool) (d : BitVec 7) (a : BitVec 8) (stype : ElemTy) (e : VExt) : exec (.cvt nw d a stype e) s = execCvt nw d a stype e s := rfl
@[simp] theorem exec_vpack (nw : Bool) (d : BitVec 7) (a : BitVec 8) (b : BitVec 8) (e : VExt) : exec (.vpack nw d a b e) s = execVpack nw d a b e s := rfl
@[simp] theorem exec_vunpk (nw : Bool) (d : BitVec 7) (a : BitVec 8) (b : BitVec 8) (e : VExt) : exec (.vunpk nw d a b e) s = execVunpk nw d a b e s := rfl
@[simp] theorem exec_vshfl (nw : Bool) (d : BitVec 7) (a : BitVec 8) (b : BitVec 8) (e : Option VExt) : exec (.vshfl nw d a b e) s = execVshfl nw d a b e s := rfl
@[simp] theorem exec_vshfx (nw : Bool) (d : BitVec 7) (a : BitVec 8) (b : BitVec 8) (e : Option VExt) : exec (.vshfx nw d a b e) s = execVshfx nw d a b e s := rfl
@[simp] theorem exec_vshfup (nw : Bool) (d : BitVec 7) (a : BitVec 8) (b : BitVec 8) (e : Option VExt) : exec (.vshfup nw d a b e) s = execVshfup nw d a b e s := rfl
@[simp] theorem exec_vshfdn (nw : Bool) (d : BitVec 7) (a : BitVec 8) (b : BitVec 8) (e : Option VExt) : exec (.vshfdn nw d a b e) s = execVshfdn nw d a b e s := rfl
@[simp] theorem exec_vbcst (nw : Bool) (d : BitVec 7) (a : BitVec 8) (b : BitVec 8) (e : Option VExt) : exec (.vbcst nw d a b e) s = execVbcst nw d a b e s := rfl
@[simp] theorem exec_vred (nw : Bool) (d : BitVec 7) (a : BitVec 8) (op : BitVec 8) (e : Option VExt) : exec (.vred nw d a op e) s = execVred nw d a op e s := rfl
@[simp] theorem exec_vscan (nw : Bool) (d : BitVec 7) (a : BitVec 8) (op : BitVec 8) (e : Option VExt) : exec (.vscan nw d a op e) s = execVscan nw d a op e s := rfl
@[simp] theorem exec_vballot (nw : Bool) (d : BitVec 7) (a : BitVec 8) : exec (.vballot nw d a) s = execVballot nw d a s := rfl
@[simp] theorem exec_vvote (nw : Bool) (d : BitVec 7) (a : BitVec 8) (mode : BitVec 8) : exec (.vvote nw d a mode) s = execVvote nw d a mode s := rfl
@[simp] theorem exec_rand (nw : Bool) (d : BitVec 7) (a : BitVec 8) (e : Option VExt) : exec (.rand nw d a e) s = execRand nw d a e s := rfl
@[simp] theorem exec_rebal (nw : Bool) (d : BitVec 7) (a : BitVec 8) (b : BitVec 8) (e : Option VExt) : exec (.rebal nw d a b e) s = execRebal nw d a b e s := rfl
@[simp] theorem exec_vtopk (nw : Bool) (d : BitVec 7) (a : BitVec 8) (b : BitVec 8) (e : VExt) : exec (.vtopk nw d a b e) s = execVtopk nw d a b e s := rfl
@[simp] theorem exec_ld32 (d : BitVec 7) (p : BitVec 8) (ix : BitVec 8) (e : Option MExt) : exec (.ld32 d p ix e) s = execLd32 d p ix e s := rfl
@[simp] theorem exec_ld64 (d : BitVec 7) (p : BitVec 8) (ix : BitVec 8) (e : Option MExt) : exec (.ld64 d p ix e) s = execLd64 d p ix e s := rfl
@[simp] theorem exec_st32 (d : BitVec 7) (p : BitVec 8) (ix : BitVec 8) (e : Option MExt) : exec (.st32 d p ix e) s = execSt32 d p ix e s := rfl
@[simp] theorem exec_st64 (d : BitVec 7) (p : BitVec 8) (ix : BitVec 8) (e : Option MExt) : exec (.st64 d p ix e) s = execSt64 d p ix e s := rfl
@[simp] theorem exec_ldf32 (d : BitVec 7) (p : BitVec 8) (ix : BitVec 8) (e : Option MExt) : exec (.ldf32 d p ix e) s = execLdf32 d p ix e s := rfl
@[simp] theorem exec_ldf64 (d : BitVec 7) (p : BitVec 8) (ix : BitVec 8) (e : Option MExt) : exec (.ldf64 d p ix e) s = execLdf64 d p ix e s := rfl
@[simp] theorem exec_stf32 (d : BitVec 7) (p : BitVec 8) (ix : BitVec 8) (e : Option MExt) : exec (.stf32 d p ix e) s = execStf32 d p ix e s := rfl
@[simp] theorem exec_stf64 (d : BitVec 7) (p : BitVec 8) (ix : BitVec 8) (e : Option MExt) : exec (.stf64 d p ix e) s = execStf64 d p ix e s := rfl
@[simp] theorem exec_ldu (d : BitVec 9) (a : BitVec 9) (b : STail) : exec (.ldu d a b) s = execLdu d a b s := rfl
@[simp] theorem exec_atom (nw : Bool) (d : BitVec 7) (p : BitVec 8) (ix : BitVec 8) (e : AExt) : exec (.atom nw d p ix e) s = execAtom nw d p ix e s := rfl
@[simp] theorem exec_red (p : BitVec 8) (ix : BitVec 8) (e : AExt) : exec (.red p ix e) s = execRed p ix e s := rfl
@[simp] theorem exec_atomCas (nw : Bool) (d : BitVec 7) (p : BitVec 8) (ix : BitVec 8) (e : AExt) : exec (.atomCas nw d p ix e) s = execAtomCas nw d p ix e s := rfl
@[simp] theorem exec_atomCas64 (nw : Bool) (d : BitVec 7) (p : BitVec 8) (ix : BitVec 8) (e : AExt) : exec (.atomCas64 nw d p ix e) s = execAtomCas64 nw d p ix e s := rfl
@[simp] theorem exec_fence (remote : Bool) (storage : BitVec 2) (scope : BitVec 3) (kind : BitVec 2) : exec (.fence remote storage scope kind) s = execFence remote storage scope kind s := rfl
@[simp] theorem exec_waitc (ctr : BitVec 2) (n : BitVec 8) : exec (.waitc ctr n) s = execWaitc ctr n s := rfl
@[simp] theorem exec_push (a : BitVec 9) (b : STail) : exec (.push a b) s = execPush a b s := rfl
@[simp] theorem exec_pusht (d : BitVec 9) (a : BitVec 9) (b : STail) : exec (.pusht d a b) s = execPusht d a b s := rfl
@[simp] theorem exec_pop (d : BitVec 9) (a : BitVec 9) : exec (.pop d a) s = execPop d a s := rfl
@[simp] theorem exec_popt (d : BitVec 9) (a : BitVec 9) : exec (.popt d a) s = execPopt d a s := rfl
@[simp] theorem exec_reinOpen (a : BitVec 9) (b : STail) : exec (.reinOpen a b) s = execReinOpen a b s := rfl
@[simp] theorem exec_reinClose (a : BitVec 9) : exec (.reinClose a) s = execReinClose a s := rfl
@[simp] theorem exec_pref (p : BitVec 8) (ix : BitVec 8) (e : Option MExt) : exec (.pref p ix e) s = execPref p ix e s := rfl
@[simp] theorem exec_sweep (d : BitVec 7) (p : BitVec 8) (ix : BitVec 8) (budget : BitVec 9) : exec (.sweep d p ix budget) s = execSweep d p ix budget s := rfl
@[simp] theorem exec_cpy (d : BitVec 9) (a : BitVec 9) (b : STail) : exec (.cpy d a b) s = execCpy d a b s := rfl
@[simp] theorem exec_cpySb (d : BitVec 9) (a : BitVec 9) (b : STail) : exec (.cpySb d a b) s = execCpySb d a b s := rfl
@[simp] theorem exec_cpy2d (d : BitVec 9) (a : BitVec 9) (b : STail) : exec (.cpy2d d a b) s = execCpy2d d a b s := rfl
@[simp] theorem exec_cpy2dSb (d : BitVec 9) (a : BitVec 9) (b : STail) : exec (.cpy2dSb d a b) s = execCpy2dSb d a b s := rfl
@[simp] theorem exec_gath (d : BitVec 7) (p : BitVec 8) (ix : BitVec 8) (e : Option MExt) : exec (.gath d p ix e) s = execGath d p ix e s := rfl
@[simp] theorem exec_scat (d : BitVec 7) (p : BitVec 8) (ix : BitVec 8) (e : Option MExt) : exec (.scat d p ix e) s = execScat d p ix e s := rfl
@[simp] theorem exec_xcpy (d : BitVec 9) (a : BitVec 9) (b : STail) : exec (.xcpy d a b) s = execXcpy d a b s := rfl
@[simp] theorem exec_xred (d : BitVec 9) (a : BitVec 9) (e : SExt) : exec (.xred d a e) s = execXred d a e s := rfl
@[simp] theorem exec_mma (d : BitVec 4) (c : BitVec 4) (a : BitVec 8) (b : BitVec 8) (e : XExt) : exec (.mma d c a b e) s = execMma d c a b e s := rfl
@[simp] theorem exec_mmab (d : BitVec 4) (c : BitVec 4) (a : BitVec 8) (b : BitVec 8) (e : XExt) : exec (.mmab d c a b e) s = execMmab d c a b e s := rfl
@[simp] theorem exec_mmag (d : BitVec 4) (c : BitVec 4) (a : BitVec 8) (b : BitVec 8) (e : XExt) : exec (.mmag d c a b e) s = execMmag d c a b e s := rfl
@[simp] theorem exec_smma (d : BitVec 4) (c : BitVec 4) (a : BitVec 8) (b : BitVec 8) (e : XExt) : exec (.smma d c a b e) s = execSmma d c a b e s := rfl
@[simp] theorem exec_tld (d : BitVec 4) (p : BitVec 8) (b : BitVec 8) (e : Option XExt) : exec (.tld d p b e) s = execTld d p b e s := rfl
@[simp] theorem exec_tst (d : BitVec 4) (p : BitVec 8) (b : BitVec 8) (e : Option XExt) : exec (.tst d p b e) s = execTst d p b e s := rfl
@[simp] theorem exec_tzero (d : BitVec 4) : exec (.tzero d) s = execTzero d s := rfl
@[simp] theorem exec_tmov (d : BitVec 4) (c : BitVec 4) : exec (.tmov d c) s = execTmov d c s := rfl
@[simp] theorem exec_twait (d : BitVec 4) : exec (.twait d) s = execTwait d s := rfl
@[simp] theorem exec_tstat (a : BitVec 8) : exec (.tstat a) s = execTstat a s := rfl
@[simp] theorem exec_tcvt (d : BitVec 4) (c : BitVec 4) (e : XExt) : exec (.tcvt d c e) s = execTcvt d c e s := rfl
@[simp] theorem exec_msearch (c : BitVec 4) (m : BitVec 8) : exec (.msearch c m) s = execMsearch c m s := rfl
@[simp] theorem exec_resv (p : BitVec 8) (q : BitVec 8) : exec (.resv p q) s = execResv p q s := rfl
@[simp] theorem exec_rels (p : BitVec 8) : exec (.rels p) s = execRels p s := rfl
@[simp] theorem exec_rqry (p : BitVec 8) (q : BitVec 8) : exec (.rqry p q) s = execRqry p q s := rfl
@[simp] theorem exec_gang (p : BitVec 8) : exec (.gang p) s = execGang p s := rfl
@[simp] theorem exec_launch (d : BitVec 9) (p : BitVec 8) : exec (.launch d p) s = execLaunch d p s := rfl
@[simp] theorem exec_lwait (d : BitVec 9) (h : BitVec 8) : exec (.lwait d h) s = execLwait d h s := rfl
@[simp] theorem exec_lstat (d : BitVec 9) (h : BitVec 8) : exec (.lstat d h) s = execLstat d h s := rfl
@[simp] theorem exec_seamPos (d : BitVec 9) : exec (.seamPos d) s = execSeamPos d s := rfl
@[simp] theorem exec_seamQry (d : BitVec 9) (sel : BitVec 8) : exec (.seamQry d sel) s = execSeamQry d sel s := rfl
@[simp] theorem exec_islLink (v : BitVec 7) (kind : BitVec 1) (slot : BitVec 4) : exec (.islLink v kind slot) s = execIslLink v kind slot s := rfl
@[simp] theorem exec_islUnlink (v : BitVec 7) (slot : BitVec 4) : exec (.islUnlink v slot) s = execIslUnlink v slot s := rfl
@[simp] theorem exec_islStep (d : BitVec 9) : exec (.islStep d) s = execIslStep d s := rfl
@[simp] theorem exec_islInfo (d : BitVec 9) (sel : BitVec 4) (slot : BitVec 4) : exec (.islInfo d sel slot) s = execIslInfo d sel slot s := rfl
@[simp] theorem exec_islWake (v : BitVec 7) (slot : BitVec 4) : exec (.islWake v slot) s = execIslWake v slot s := rfl
@[simp] theorem exec_stampMix (a : BitVec 8) : exec (.stampMix a) s = execStampMix a s := rfl
@[simp] theorem exec_stampGet (v : BitVec 7) : exec (.stampGet v) s = execStampGet v s := rfl
@[simp] theorem exec_evtpost (p : BitVec 9) (code : BitVec 8) : exec (.evtpost p code) s = execEvtpost p code s := rfl
@[simp] theorem exec_skvGet (d : BitVec 9) (sel : BitVec 8) : exec (.skvGet d sel) s = execSkvGet d sel s := rfl
@[simp] theorem exec_pctr (d : BitVec 9) (all : BitVec 1) (n : BitVec 7) : exec (.pctr d all n) s = execPctr d all n s := rfl
@[simp] theorem exec_feat (d : BitVec 9) : exec (.feat d) s = execFeat d s := rfl
@[simp] theorem exec_illegalInstruction (word : Word) : exec (.illegalInstruction word) s = execIllegalInstruction word s := rfl
@[simp] theorem exec_accessPerformed (flight : Nat) : exec (.accessPerformed flight) s = execAccessPerformed flight s := rfl
@[simp] theorem exec_imageMove (team : Nat) (addr : Dword) : exec (.imageMove team addr) s = execImageMove team addr s := rfl
@[simp] theorem exec_nop : exec .nop s = execNop s := rfl
@[simp] theorem exec_exit : exec .exit s = execExit s := rfl
@[simp] theorem exec_yield : exec .yield s = execYield s := rfl
@[simp] theorem exec_tret : exec .tret s = execTret s := rfl
@[simp] theorem exec_ret : exec .ret s = execRet s := rfl
@[simp] theorem exec_drain : exec .drain s = execDrain s := rfl
@[simp] theorem exec_seamDone : exec .seamDone s = execSeamDone s := rfl
@[simp] theorem exec_islStill : exec .islStill s = execIslStill s := rfl
@[simp] theorem exec_halt : exec .halt s = execHalt s := rfl
@[simp] theorem exec_pfReset : exec .pfReset s = execPfReset s := rfl
@[simp] theorem exec_powerOn : exec .powerOn s = execPowerOn s := rfl
@[simp] theorem exec_powerLoss : exec .powerLoss s = execPowerLoss s := rfl
@[simp] theorem exec_networkBoot : exec .networkBoot s = execNetworkBoot s := rfl
@[simp] theorem exec_redfishRequest : exec .redfishRequest s = execRedfishRequest s := rfl
@[simp] theorem exec_getVersion : exec .getVersion s = execGetVersion s := rfl
@[simp] theorem exec_getCapabilities : exec .getCapabilities s = execGetCapabilities s := rfl
@[simp] theorem exec_negotiateAlgorithms : exec .negotiateAlgorithms s = execNegotiateAlgorithms s := rfl
@[simp] theorem exec_getDigests : exec .getDigests s = execGetDigests s := rfl
@[simp] theorem exec_getCertificate : exec .getCertificate s = execGetCertificate s := rfl
@[simp] theorem exec_challenge : exec .challenge s = execChallenge s := rfl
@[simp] theorem exec_getMeasurements : exec .getMeasurements s = execGetMeasurements s := rfl
@[simp] theorem exec_renazInboundAccess : exec .renazInboundAccess s = execRenazInboundAccess s := rfl
@[simp] theorem exec_xredContribution : exec .xredContribution s = execXredContribution s := rfl
@[simp] theorem exec_inboundHostWrite : exec .inboundHostWrite s = execInboundHostWrite s := rfl

end Sys2Proof.Machine
end

