-- ==== Sys2Proof/Laws/Sparse.lean ====
section
/-! SUPPORT. Sparse tables: a read after a write, and the canonical form that every operation keeps. -/

namespace Sys2Proof.Machine

variable {α : Type}

theorem Sparse.get_nil (d : α) (n : Nat) : Sparse.get d [] n = d := rfl

theorem Sparse.get_cons (d : α) (k : Nat) (v : α) (r : Sparse α) (n : Nat) :
    Sparse.get d ((k, v) :: r) n = if k = n then v else Sparse.get d r n := rfl

/-- A key that is not listed reads as the default. -/
theorem Sparse.get_of_not_mem (d : α) (m : Sparse α) (n : Nat) (h : ∀ e ∈ m, e.1 ≠ n) : m.get d n = d := by
  induction m with
  | nil => rfl
  | cons e r ih =>
    obtain ⟨k, v⟩ := e
    rw [Sparse.get_cons, if_neg (h (k, v) (by simp)), ih (fun e he => h e (by simp [he]))]

theorem Sparse.get_del (d : α) (m : Sparse α) (n k : Nat) : (m.del n).get d k = if n = k then d else m.get d k := by
  induction m with
  | nil => simp [Sparse.del, Sparse.get_nil]
  | cons e r ih =>
    obtain ⟨a, v⟩ := e
    simp only [Sparse.del, List.filter_cons] at ih ⊢
    by_cases h : a = n
    · subst h
      simp only [bne_self_eq_false, Bool.false_eq_true, if_false, ih, Sparse.get_cons]
      split <;> rfl
    · simp only [bne_iff_ne, ne_eq, h, not_false_eq_true, if_true, Sparse.get_cons, ih]
      by_cases hk : a = k
      · subst hk; simp [Ne.symm h]
      · simp [hk]

theorem Sparse.get_ins (d : α) (m : Sparse α) (n k : Nat) (x : α) (h : ∀ e ∈ m, e.1 ≠ n) :
    (m.ins n x).get d k = if n = k then x else m.get d k := by
  induction m with
  | nil => simp [Sparse.ins, Sparse.get]
  | cons e r ih =>
    obtain ⟨a, v⟩ := e
    have ha : a ≠ n := h (a, v) (by simp)
    have ih := ih (fun e he => h e (by simp [he]))
    simp only [Sparse.ins]
    split
    · simp only [Sparse.get_cons]
    · simp only [Sparse.get_cons, ih]
      by_cases hk : a = k
      · subst hk; simp [Ne.symm ha]
      · simp [hk]

theorem Sparse.mem_del {m : Sparse α} {n : Nat} {e : Nat × α} : e ∈ m.del n ↔ e ∈ m ∧ e.1 ≠ n := by
  simp [Sparse.del]

/-- A read after a write. -/
theorem Sparse.get_put [DecidableEq α] (d : α) (m : Sparse α) (n k : Nat) (x : α) :
    (m.put d n x).get d k = if n = k then x else m.get d k := by
  unfold Sparse.put
  split
  · rename_i h; rw [Sparse.get_del, h]
  · rw [Sparse.get_ins _ _ _ _ _ (fun e he => (Sparse.mem_del.mp he).2), Sparse.get_del]
    split <;> rfl

@[simp] theorem Sparse.get_put_same [DecidableEq α] (d : α) (m : Sparse α) (n : Nat) (x : α) :
    (m.put d n x).get d n = x := by rw [Sparse.get_put, if_pos rfl]

theorem Sparse.get_put_ne [DecidableEq α] (d : α) (m : Sparse α) {n k : Nat} (x : α) (h : n ≠ k) :
    (m.put d n x).get d k = m.get d k := by rw [Sparse.get_put, if_neg h]

theorem Sparse.get_upd [DecidableEq α] (d : α) (m : Sparse α) (n k : Nat) (f : α → α) :
    (m.upd d n f).get d k = if n = k then f (m.get d k) else m.get d k := by
  rw [Sparse.upd, Sparse.get_put]; split
  · rename_i h; rw [h]
  · rfl

@[simp] theorem NatSet.has_set (m : NatSet) (n k : Nat) (b : Bool) :
    NatSet.has (NatSet.set m n b) k = if n = k then b else NatSet.has m k := Sparse.get_put _ _ _ _ _

/-- What a run of stored values reads as. -/
theorem Sparse.get_putList [DecidableEq α] (d : α) (m : Sparse α) (n k : Nat) (xs : List α) :
    (m.putList d n xs).get d k = if n ≤ k ∧ k < n + xs.length then xs.getD (k - n) d else m.get d k := by
  induction xs generalizing m n with
  | nil => simp only [Sparse.putList, List.length_nil]; rw [if_neg (by omega)]
  | cons x xs ih =>
    rw [Sparse.putList, ih, Sparse.get_put]
    simp only [List.length_cons]
    by_cases h1 : n = k
    · subst h1; rw [if_neg (by omega), if_pos rfl, if_pos (by omega)]; simp
    · by_cases h2 : n + 1 ≤ k ∧ k < n + 1 + xs.length
      · rw [if_pos h2, if_pos (by omega)]
        have : k - n = (k - (n + 1)) + 1 := by omega
        rw [this]; simp
      · rw [if_neg h2, if_neg h1, if_neg (by omega)]

/-! ### The canonical form -/

theorem Sparse.wf_iff [DecidableEq α] (d : α) (m : Sparse α) :
    Sparse.wf d m = true ↔ m.Pairwise (fun a b => a.1 < b.1) ∧ ∀ e ∈ m, e.2 ≠ d := by
  induction m with
  | nil => simp [Sparse.wf]
  | cons e r ih =>
    obtain ⟨k, v⟩ := e
    cases r with
    | nil => simp [Sparse.wf]
    | cons e' r =>
      obtain ⟨k', v'⟩ := e'
      rw [Sparse.wf, Bool.and_eq_true, ih]
      constructor
      · rintro ⟨h, hp, hv⟩
        simp only [Bool.and_eq_true, decide_eq_true_eq] at h
        refine ⟨List.pairwise_cons.mpr ⟨?_, hp⟩, ?_⟩
        · intro a ha
          rcases List.mem_cons.mp ha with rfl | ha
          · exact h.2
          · exact Nat.lt_trans h.2 ((List.pairwise_cons.mp hp).1 a ha)
        · intro a ha
          rcases List.mem_cons.mp ha with rfl | ha
          · exact h.1
          · exact hv a ha
      · rintro ⟨hp, hv⟩
        obtain ⟨h1, hp⟩ := List.pairwise_cons.mp hp
        exact ⟨by simp [hv (k, v) (by simp), h1 (k', v') (by simp)], hp, fun a ha => hv a (List.mem_cons_of_mem _ ha)⟩

theorem Sparse.wf_nil [DecidableEq α] (d : α) : Sparse.wf d ([] : Sparse α) = true := rfl

theorem Sparse.wf_filter [DecidableEq α] (d : α) (m : Sparse α) (p : Nat × α → Bool) (h : Sparse.wf d m = true) :
    Sparse.wf d (m.filter p) = true := by
  rw [Sparse.wf_iff] at h ⊢
  exact ⟨h.1.filter p, fun e he => h.2 e (List.mem_of_mem_filter he)⟩

theorem Sparse.wf_del [DecidableEq α] (d : α) (m : Sparse α) (n : Nat) (h : Sparse.wf d m = true) :
    Sparse.wf d (m.del n) = true := Sparse.wf_filter d m _ h

theorem Sparse.mem_ins {m : Sparse α} {n : Nat} {x : α} {e : Nat × α} : e ∈ m.ins n x ↔ e = (n, x) ∨ e ∈ m := by
  induction m with
  | nil => simp [Sparse.ins]
  | cons a r ih =>
    obtain ⟨k, v⟩ := a
    simp only [Sparse.ins]
    split <;> simp [ih]
    tauto

theorem Sparse.wf_ins [DecidableEq α] (d : α) (m : Sparse α) (n : Nat) (x : α) (hx : x ≠ d) (hn : ∀ e ∈ m, e.1 ≠ n)
    (h : Sparse.wf d m = true) : Sparse.wf d (m.ins n x) = true := by
  rw [Sparse.wf_iff] at h ⊢
  obtain ⟨hp, hv⟩ := h
  refine ⟨?_, fun e he => ?_⟩
  · induction m with
    | nil => simp [Sparse.ins]
    | cons a r ih =>
      obtain ⟨k, v⟩ := a
      obtain ⟨h1, hp⟩ := List.pairwise_cons.mp hp
      have hk : k ≠ n := hn (k, v) (by simp)
      simp only [Sparse.ins]
      split
      · rename_i hlt
        refine List.pairwise_cons.mpr ⟨fun b hb => ?_, List.pairwise_cons.mpr ⟨h1, hp⟩⟩
        rcases List.mem_cons.mp hb with rfl | hb
        · exact hlt
        · exact Nat.lt_trans hlt (h1 b hb)
      · refine List.pairwise_cons.mpr ⟨fun b hb => ?_, ih (fun e he => hn e (by simp [he])) hp (fun e he => hv e (by simp [he]))⟩
        rcases Sparse.mem_ins.mp hb with rfl | hb
        · show k < n; omega
        · exact h1 b hb
  · rcases Sparse.mem_ins.mp he with rfl | he
    · exact hx
    · exact hv e he

/-- A write keeps the canonical form. -/
theorem Sparse.wf_put [DecidableEq α] (d : α) (m : Sparse α) (n : Nat) (x : α) (h : Sparse.wf d m = true) :
    Sparse.wf d (m.put d n x) = true := by
  unfold Sparse.put
  split
  · exact Sparse.wf_del d m n h
  · rename_i hx
    exact Sparse.wf_ins d _ n x hx (fun e he => (Sparse.mem_del.mp he).2) (Sparse.wf_del d m n h)

theorem Sparse.wf_upd [DecidableEq α] (d : α) (m : Sparse α) (n : Nat) (f : α → α) (h : Sparse.wf d m = true) :
    Sparse.wf d (m.upd d n f) = true := Sparse.wf_put d m n _ h

theorem Sparse.wf_putList [DecidableEq α] (d : α) (m : Sparse α) (n : Nat) (xs : List α) (h : Sparse.wf d m = true) :
    Sparse.wf d (m.putList d n xs) = true := by
  induction xs generalizing m n with
  | nil => exact h
  | cons x xs ih => exact ih _ _ (Sparse.wf_put d m n x h)

theorem Sparse.wf_slice [DecidableEq α] (d : α) (m : Sparse α) (lo hi : Nat) (h : Sparse.wf d m = true) :
    Sparse.wf d (m.slice lo hi) = true := Sparse.wf_filter d m _ h

theorem Sparse.wf_cut [DecidableEq α] (d : α) (m : Sparse α) (lo hi : Nat) (h : Sparse.wf d m = true) :
    Sparse.wf d (m.cut lo hi) = true := Sparse.wf_filter d m _ h

/-- Two tables in canonical form that read alike are the same table. -/
theorem Sparse.ext_of_wf [DecidableEq α] (d : α) (m m' : Sparse α) (h : Sparse.wf d m = true) (h' : Sparse.wf d m' = true)
    (hg : ∀ n, m.get d n = m'.get d n) : m = m' := by
  rw [Sparse.wf_iff] at h h'
  induction m generalizing m' with
  | nil =>
    cases m' with
    | nil => rfl
    | cons e r =>
      obtain ⟨k, v⟩ := e
      have := hg k
      rw [Sparse.get_nil, Sparse.get_cons, if_pos rfl] at this
      exact absurd this.symm (h'.2 (k, v) (by simp))
  | cons e r ih =>
    obtain ⟨k, v⟩ := e
    obtain ⟨h1, hp⟩ := List.pairwise_cons.mp h.1
    cases m' with
    | nil =>
      have := hg k
      rw [Sparse.get_nil, Sparse.get_cons, if_pos rfl] at this
      exact absurd this (h.2 (k, v) (by simp))
    | cons e' r' =>
      obtain ⟨k', v'⟩ := e'
      obtain ⟨h1', hp'⟩ := List.pairwise_cons.mp h'.1
      have low : ∀ (a : Nat) (s : Sparse α), (∀ b ∈ s, a < b.1) → ∀ n, n ≤ a → s.get d n = d := fun a s hs n hn =>
        Sparse.get_of_not_mem d s n (fun b hb => by have := hs b hb; omega)
      have hk : k = k' := by
        rcases Nat.lt_trichotomy k k' with hlt | heq | hgt
        · have := hg k
          rw [Sparse.get_cons, if_pos rfl, Sparse.get_cons, if_neg (by omega), low k' r' h1' k (by omega)] at this
          exact absurd this (h.2 (k, v) (by simp))
        · exact heq
        · have := hg k'
          rw [Sparse.get_cons d k' v', if_pos rfl, Sparse.get_cons, if_neg (by omega), low k r h1 k' (by omega)] at this
          exact absurd this.symm (h'.2 (k', v') (by simp))
      subst hk
      have hv : v = v' := by have := hg k; simpa [Sparse.get_cons] using this
      subst hv
      congr 1
      refine ih r' ⟨hp, fun e he => h.2 e (by simp [he])⟩ ⟨hp', fun e he => h'.2 e (by simp [he])⟩ (fun n => ?_)
      by_cases hn : n = k
      · subst hn; rw [low n r h1 n (by omega), low n r' h1' n (by omega)]
      · have := hg n
        rwa [Sparse.get_cons, if_neg (Ne.symm hn), Sparse.get_cons, if_neg (Ne.symm hn)] at this

end Sys2Proof.Machine
end

