-- ==== Sys2Proof/Laws/Memory.lean ====
section
/-! SUPPORT. Every operation that changes a memory or a poison map keeps the canonical form (State.memWf), and the state after reset
has it. Reading after writing, for the locations of R58. -/

namespace Sys2Proof.Machine

theorem State.memWf_iff (s : State) : s.memWf = true ↔
    Memory.wf s.hbm = true ∧ Memory.wf s.fab = true ∧ Memory.wf s.hostMem = true ∧ Memory.wf s.peerMem = true ∧
      Sparse.wf false s.hbmPoison = true ∧ Sparse.wf false s.fabPoison = true := by
  simp [State.memWf, and_assoc]

theorem State.reset_memWf : State.reset.memWf = true := by decide

/-- A change of state that leaves the six maps alone keeps their form. -/
theorem State.memWf_congr (s t : State) (hs : s.memWf = true) (h1 : t.hbm = s.hbm) (h2 : t.fab = s.fab) (h3 : t.hostMem = s.hostMem)
    (h4 : t.peerMem = s.peerMem) (h5 : t.hbmPoison = s.hbmPoison) (h6 : t.fabPoison = s.fabPoison) : t.memWf = true := by
  simpa [State.memWf, h1, h2, h3, h4, h5, h6] using hs

theorem Sparse.wf_foldl_put {α : Type} [DecidableEq α] (d : α) (f : Nat → Nat) (r : Sparse α) (m : Sparse α) (h : Sparse.wf d m = true) :
    Sparse.wf d (r.foldl (fun m e => m.put d (f e.1) e.2) m) = true := by
  induction r generalizing m with
  | nil => exact h
  | cons e r ih => exact ih _ (Sparse.wf_put d m _ _ h)

theorem clearCovered_wf (m : NatSet) (u lo n : Nat) (h : Sparse.wf false m = true) : Sparse.wf false (clearCovered m u lo n) = true :=
  Sparse.wf_filter false m _ h

theorem markTouched_wf (m : NatSet) (u lo n : Nat) (h : Sparse.wf false m = true) : Sparse.wf false (markTouched m u lo n) = true := by
  unfold markTouched
  generalize List.range _ = ks
  induction ks generalizing m with
  | nil => exact h
  | cons k ks ih => exact ih _ (Sparse.wf_put false m _ true h)

/-! ### The operations -/

theorem State.writeLog_frame (s : State) (pa : Nat) (bs : List Byte) :
    ∃ m, s.writeLog pa bs = { s with hbm := m } ∧ (Memory.wf s.hbm = true → Memory.wf m = true) := by
  unfold State.writeLog
  split
  · exact ⟨_, rfl, Sparse.wf_putList 0 _ _ _⟩
  · exact ⟨s.hbm, rfl, id⟩

/-- Logging a line writes the undo log of one partition, and bytes of HBM, and nothing else. -/
theorem State.logLine_frame (s : State) (part line : Nat) :
    ∃ p m, s.logLine part line = { s with partitions := p, hbm := m } ∧ (Memory.wf s.hbm = true → Memory.wf m = true) := by
  simp only [State.logLine]
  split
  · obtain ⟨m, hm, hw⟩ := State.writeLog_frame (s.updPartition part (fun x => { x with undo := x.undo ++
      [⟨line, s.hbm.getList 0 (64 * line) 64, NatSet.has s.hbmPoison line⟩] })) (s.partition part).undoAt
      (leBytes 8 (64 * line) ++ s.hbm.getList 0 (64 * line) 64)
    exact ⟨_, m, hm, hw⟩
  · exact ⟨s.partitions, s.hbm, rfl, id⟩

theorem State.logLines_frame (s : State) (part lo : Nat) (ks : List Nat) :
    ∃ p m, ks.foldl (fun s i => s.logLine part (lo + i)) s = { s with partitions := p, hbm := m } ∧
      (Memory.wf s.hbm = true → Memory.wf m = true) := by
  induction ks generalizing s with
  | nil => exact ⟨s.partitions, s.hbm, rfl, id⟩
  | cons k ks ih =>
    obtain ⟨p, m, hp, hw⟩ := s.logLine_frame part (lo + k)
    obtain ⟨q, m', hq, hw'⟩ := ih { s with partitions := p, hbm := m }
    exact ⟨q, m', by rw [List.foldl_cons, hp, hq], fun h => hw' (hw h)⟩

/-- A write to HBM changes the bytes, the marks of the lines it covers whole, what the code views keep, and undo logs, whose bytes are
written before. -/
theorem State.putHbm_frame (s : State) (part pa : Nat) (bs : List Byte) : ∃ p m c, s.putHbm part pa bs =
    { s with partitions := p, codes := c, hbm := Sparse.putList 0 m pa bs, hbmPoison := clearCovered s.hbmPoison 64 pa bs.length } ∧
      (Memory.wf s.hbm = true → Memory.wf m = true) := by
  obtain ⟨p, m, hp, hw⟩ := s.logLines_frame part (pa / 64) (List.range (if bs.isEmpty then 0 else (pa + bs.length - 1) / 64 + 1 - pa / 64))
  exact ⟨p, m, _, by simp only [State.putHbm]; rw [hp]; rfl, hw⟩

theorem State.putHbm_memWf (s : State) (part pa : Nat) (bs : List Byte) (h : s.memWf = true) : (s.putHbm part pa bs).memWf = true := by
  obtain ⟨p, m, c, hp, hw⟩ := s.putHbm_frame part pa bs
  rw [State.memWf_iff] at h ⊢
  rw [hp]
  exact ⟨Sparse.wf_putList 0 _ _ _ (hw h.1), h.2.1, h.2.2.1, h.2.2.2.1, clearCovered_wf _ _ _ _ h.2.2.2.2.1, h.2.2.2.2.2⟩

theorem State.putFab_memWf (s : State) (c b : Nat) (bs : List Byte) (h : s.memWf = true) : (s.putFab c b bs).memWf = true := by
  rw [State.memWf_iff] at h ⊢
  refine ⟨h.1, ?_, h.2.2.1, h.2.2.2.1, h.2.2.2.2.1, ?_⟩
  · simp only [State.putFab]; exact Sparse.wf_putList 0 _ _ _ h.2.1
  · simp only [State.putFab]; exact clearCovered_wf _ _ _ _ h.2.2.2.2.2

/-- A write at a location of any kind keeps the form. -/
theorem State.putLoc_memWf (s : State) (part : Nat) (l : Loc) (bs : List Byte) (h : s.memWf = true) : (s.putLoc part l bs).memWf = true := by
  cases l with
  | fabric c b => exact s.putFab_memWf c b bs h
  | hbm pa _ => exact s.putHbm_memWf part pa bs h
  | host a =>
    rw [State.memWf_iff] at h ⊢
    exact ⟨h.1, h.2.1, Sparse.wf_putList 0 _ _ _ h.2.2.1, h.2.2.2.1, h.2.2.2.2⟩
  | peer m a =>
    rw [State.memWf_iff] at h ⊢
    simp only [State.putLoc]
    generalize m * 2 ^ 52 + a = k
    exact ⟨h.1, h.2.1, h.2.2.1, Sparse.wf_putList 0 _ _ _ h.2.2.2.1, h.2.2.2.2⟩

theorem State.poisonLoc_memWf (s : State) (l : Loc) (n : Nat) (h : s.memWf = true) : (s.poisonLoc l n).memWf = true := by
  have hh := (State.memWf_iff s).1 h
  cases l with
  | fabric c b =>
    simp only [State.poisonLoc, State.memWf_iff]
    exact ⟨hh.1, hh.2.1, hh.2.2.1, hh.2.2.2.1, hh.2.2.2.2.1, markTouched_wf _ _ _ _ hh.2.2.2.2.2⟩
  | hbm pa _ =>
    simp only [State.poisonLoc, State.memWf_iff]
    exact ⟨hh.1, hh.2.1, hh.2.2.1, hh.2.2.2.1, markTouched_wf _ _ _ _ hh.2.2.2.2.1, hh.2.2.2.2.2⟩
  | host _ => exact h
  | peer _ _ => exact h

theorem State.putRegion_memWf (s : State) (c base size : Nat) (r : Sparse Byte × NatSet) (h : s.memWf = true) :
    (s.putRegion c base size r).memWf = true := by
  rw [State.memWf_iff] at h ⊢
  exact ⟨h.1, Sparse.wf_foldl_put 0 (c * 2 ^ 23 + base + ·) r.1 _ (Sparse.wf_cut 0 _ _ _ h.2.1), h.2.2.1, h.2.2.2.1, h.2.2.2.2.1,
    Sparse.wf_foldl_put false ((c * 2 ^ 23 + base) / 8 + ·) r.2 _ (Sparse.wf_cut false _ _ _ h.2.2.2.2.2)⟩

theorem State.undoLine_memWf (s : State) (u : Undo) (h : s.memWf = true) : (s.undoLine u).memWf = true := by
  rw [State.memWf_iff] at h ⊢
  exact ⟨Sparse.wf_putList 0 _ _ _ h.1, h.2.1, h.2.2.1, h.2.2.2.1, Sparse.wf_put false _ _ _ h.2.2.2.2.1, h.2.2.2.2.2⟩

theorem State.undoAll_memWf (s : State) (tn : Nat) (h : s.memWf = true) : (s.undoAll tn).memWf = true := by
  have lines : ∀ (us : List Undo) (s : State), s.memWf = true → (us.foldl (fun s u => s.undoLine u) s).memWf = true := by
    intro us
    induction us with
    | nil => exact fun _ h => h
    | cons u us ih => exact fun s h => ih _ (s.undoLine_memWf u h)
  unfold State.undoAll
  generalize s.partsOf tn = ps
  induction ps generalizing s with
  | nil => exact h
  | cons p ps ih => exact ih _ (lines _ s h)

/-- A reset of registers leaves every memory as it is. -/
theorem State.resetRegs_memWf (s : State) (h : s.memWf = true) : s.resetRegs.memWf = true :=
  State.memWf_congr s _ h rfl rfl rfl rfl rfl rfl

/-! ### Reading after writing -/

theorem State.memByte_putFab (s : State) (c b : Nat) (bs : List Byte) (l : Loc) : (s.putFab c b bs).memByte l =
    match l with
    | .fabric c' b' =>
      if c * 2 ^ 23 + b ≤ c' * 2 ^ 23 + b' ∧ c' * 2 ^ 23 + b' < c * 2 ^ 23 + b + bs.length then
        bs.getD (c' * 2 ^ 23 + b' - (c * 2 ^ 23 + b)) 0
      else s.memByte l
    | _ => s.memByte l := by
  cases l <;> simp [State.memByte, State.putFab, Sparse.get_putList]

/-- While a partition's tenant has no checkpoints on, its writes are not logged. -/
theorem State.logLine_off (s : State) (part line : Nat) (h : (s.tenant (s.partition part).tenant).ckEn = false) :
    s.logLine part line = s := by
  simp [State.logLine, h]

/-- A write of an unlogged partition changes its bytes, the marks of the lines it covers whole, and what the code views keep. -/
theorem State.putHbm_off (s : State) (part pa : Nat) (bs : List Byte) (h : (s.tenant (s.partition part).tenant).ckEn = false) :
    s.putHbm part pa bs = { s.keepCode s.hbm pa (2 ^ 60 + pa) bs.length with
      hbm := s.hbm.putList 0 pa bs, hbmPoison := clearCovered s.hbmPoison 64 pa bs.length } := by
  have lines : ∀ ks : List Nat, ks.foldl (fun s i => s.logLine part (pa / 64 + i)) s = s := by
    intro ks
    induction ks with
    | nil => rfl
    | cons k ks ih => rw [List.foldl_cons, s.logLine_off part _ h, ih]
  simp only [State.putHbm]
  rw [lines]
  rfl

/-- A byte read after a write to HBM that covers it, and, while its partition is not logged, after any. -/
theorem State.memByte_putHbm_in (s : State) (part pa a : Nat) (nc : Bool) (bs : List Byte) (h : pa ≤ a ∧ a < pa + bs.length) :
    (s.putHbm part pa bs).memByte (.hbm a nc) = bs.getD (a - pa) 0 := by
  obtain ⟨p, m, c, hp, -⟩ := s.putHbm_frame part pa bs
  rw [hp]
  simp [State.memByte, Sparse.get_putList, h]

theorem State.memByte_putHbm (s : State) (part pa : Nat) (bs : List Byte) (l : Loc)
    (h : (s.tenant (s.partition part).tenant).ckEn = false) : (s.putHbm part pa bs).memByte l =
    match l with
    | .hbm pa' _ => if pa ≤ pa' ∧ pa' < pa + bs.length then bs.getD (pa' - pa) 0 else s.memByte l
    | _ => s.memByte l := by
  rw [s.putHbm_off part pa bs h]
  cases l <;> simp [State.memByte, State.keepCode, Sparse.get_putList]

end Sys2Proof.Machine
end

