-- ==== Sys2Proof/Laws/State.lean ====
section
/-! SUPPORT. What each update of the state leaves alone, field by field, and what the accessors read after each update. -/

namespace Sys2Proof.Machine

variable (s : State)

/-! ### setTeam -/

@[simp] theorem State.setTeam_agenda (t : Nat) (x : Team) : (s.setTeam t x).agenda = s.agenda := rfl
@[simp] theorem State.setTeam_inbox (t : Nat) (x : Team) : (s.setTeam t x).inbox = s.inbox := rfl
@[simp] theorem State.setTeam_notices (t : Nat) (x : Team) : (s.setTeam t x).notices = s.notices := rfl
@[simp] theorem State.setTeam_cur (t : Nat) (x : Team) : (s.setTeam t x).cur = s.cur := rfl
@[simp] theorem State.setTeam_nextId (t : Nat) (x : Team) : (s.setTeam t x).nextId = s.nextId := rfl
@[simp] theorem State.setTeam_free (t : Nat) (x : Team) : (s.setTeam t x).free = s.free := rfl
@[simp] theorem State.setTeam_hbm (t : Nat) (x : Team) : (s.setTeam t x).hbm = s.hbm := rfl
@[simp] theorem State.setTeam_hbmPoison (t : Nat) (x : Team) : (s.setTeam t x).hbmPoison = s.hbmPoison := rfl
@[simp] theorem State.setTeam_fab (t : Nat) (x : Team) : (s.setTeam t x).fab = s.fab := rfl
@[simp] theorem State.setTeam_fabPoison (t : Nat) (x : Team) : (s.setTeam t x).fabPoison = s.fabPoison := rfl
@[simp] theorem State.setTeam_hostMem (t : Nat) (x : Team) : (s.setTeam t x).hostMem = s.hostMem := rfl
@[simp] theorem State.setTeam_peerMem (t : Nat) (x : Team) : (s.setTeam t x).peerMem = s.peerMem := rfl
@[simp] theorem State.setTeam_lines (t : Nat) (x : Team) : (s.setTeam t x).lines = s.lines := rfl
@[simp] theorem State.setTeam_tlb (t : Nat) (x : Team) : (s.setTeam t x).tlb = s.tlb := rfl
@[simp] theorem State.setTeam_codes (t : Nat) (x : Team) : (s.setTeam t x).codes = s.codes := rfl
@[simp] theorem State.setTeam_flights (t : Nat) (x : Team) : (s.setTeam t x).flights = s.flights := rfl
@[simp] theorem State.setTeam_ops (t : Nat) (x : Team) : (s.setTeam t x).ops = s.ops := rfl
@[simp] theorem State.setTeam_awl (t : Nat) (x : Team) : (s.setTeam t x).awl = s.awl := rfl
@[simp] theorem State.setTeam_awlTurn (t : Nat) (x : Team) : (s.setTeam t x).awlTurn = s.awlTurn := rfl
@[simp] theorem State.setTeam_sent (t : Nat) (x : Team) : (s.setTeam t x).sent = s.sent := rfl
@[simp] theorem State.setTeam_launches (t : Nat) (x : Team) : (s.setTeam t x).launches = s.launches := rfl
@[simp] theorem State.setTeam_spaces (t : Nat) (x : Team) : (s.setTeam t x).spaces = s.spaces := rfl
@[simp] theorem State.setTeam_tenants (t : Nat) (x : Team) : (s.setTeam t x).tenants = s.tenants := rfl
@[simp] theorem State.setTeam_partitions (t : Nat) (x : Team) : (s.setTeam t x).partitions = s.partitions := rfl
@[simp] theorem State.setTeam_cores (t : Nat) (x : Team) : (s.setTeam t x).cores = s.cores := rfl
@[simp] theorem State.setTeam_ckpts (t : Nat) (x : Team) : (s.setTeam t x).ckpts = s.ckpts := rfl
@[simp] theorem State.setTeam_windows (t : Nat) (x : Team) : (s.setTeam t x).windows = s.windows := rfl
@[simp] theorem State.setTeam_xredNext (t : Nat) (x : Team) : (s.setTeam t x).xredNext = s.xredNext := rfl
@[simp] theorem State.setTeam_rnzid (t : Nat) (x : Team) : (s.setTeam t x).rnzid = s.rnzid := rfl
@[simp] theorem State.setTeam_portsDown (t : Nat) (x : Team) : (s.setTeam t x).portsDown = s.portsDown := rfl
@[simp] theorem State.setTeam_boost (t : Nat) (x : Team) : (s.setTeam t x).boost = s.boost := rfl
@[simp] theorem State.setTeam_occause (t : Nat) (x : Team) : (s.setTeam t x).occause = s.occause := rfl
@[simp] theorem State.setTeam_girthRate (t : Nat) (x : Team) : (s.setTeam t x).girthRate = s.girthRate := rfl
@[simp] theorem State.setTeam_filler (t : Nat) (x : Team) : (s.setTeam t x).filler = s.filler := rfl
@[simp] theorem State.setTeam_coresLeft (t : Nat) (x : Team) : (s.setTeam t x).coresLeft = s.coresLeft := rfl
@[simp] theorem State.setTeam_boot (t : Nat) (x : Team) : (s.setTeam t x).boot = s.boot := rfl
@[simp] theorem State.setTeam_flitFault (t : Nat) (x : Team) : (s.setTeam t x).flitFault = s.flitFault := rfl
@[simp] theorem State.setTeam_idled (t : Nat) (x : Team) : (s.setTeam t x).idled = s.idled := rfl

/-! ### updTeam -/

@[simp] theorem State.updTeam_agenda (t : Nat) (f : Team → Team) : (s.updTeam t f).agenda = s.agenda := rfl
@[simp] theorem State.updTeam_inbox (t : Nat) (f : Team → Team) : (s.updTeam t f).inbox = s.inbox := rfl
@[simp] theorem State.updTeam_notices (t : Nat) (f : Team → Team) : (s.updTeam t f).notices = s.notices := rfl
@[simp] theorem State.updTeam_cur (t : Nat) (f : Team → Team) : (s.updTeam t f).cur = s.cur := rfl
@[simp] theorem State.updTeam_nextId (t : Nat) (f : Team → Team) : (s.updTeam t f).nextId = s.nextId := rfl
@[simp] theorem State.updTeam_free (t : Nat) (f : Team → Team) : (s.updTeam t f).free = s.free := rfl
@[simp] theorem State.updTeam_hbm (t : Nat) (f : Team → Team) : (s.updTeam t f).hbm = s.hbm := rfl
@[simp] theorem State.updTeam_hbmPoison (t : Nat) (f : Team → Team) : (s.updTeam t f).hbmPoison = s.hbmPoison := rfl
@[simp] theorem State.updTeam_fab (t : Nat) (f : Team → Team) : (s.updTeam t f).fab = s.fab := rfl
@[simp] theorem State.updTeam_fabPoison (t : Nat) (f : Team → Team) : (s.updTeam t f).fabPoison = s.fabPoison := rfl
@[simp] theorem State.updTeam_hostMem (t : Nat) (f : Team → Team) : (s.updTeam t f).hostMem = s.hostMem := rfl
@[simp] theorem State.updTeam_peerMem (t : Nat) (f : Team → Team) : (s.updTeam t f).peerMem = s.peerMem := rfl
@[simp] theorem State.updTeam_lines (t : Nat) (f : Team → Team) : (s.updTeam t f).lines = s.lines := rfl
@[simp] theorem State.updTeam_tlb (t : Nat) (f : Team → Team) : (s.updTeam t f).tlb = s.tlb := rfl
@[simp] theorem State.updTeam_codes (t : Nat) (f : Team → Team) : (s.updTeam t f).codes = s.codes := rfl
@[simp] theorem State.updTeam_flights (t : Nat) (f : Team → Team) : (s.updTeam t f).flights = s.flights := rfl
@[simp] theorem State.updTeam_ops (t : Nat) (f : Team → Team) : (s.updTeam t f).ops = s.ops := rfl
@[simp] theorem State.updTeam_awl (t : Nat) (f : Team → Team) : (s.updTeam t f).awl = s.awl := rfl
@[simp] theorem State.updTeam_awlTurn (t : Nat) (f : Team → Team) : (s.updTeam t f).awlTurn = s.awlTurn := rfl
@[simp] theorem State.updTeam_sent (t : Nat) (f : Team → Team) : (s.updTeam t f).sent = s.sent := rfl
@[simp] theorem State.updTeam_launches (t : Nat) (f : Team → Team) : (s.updTeam t f).launches = s.launches := rfl
@[simp] theorem State.updTeam_spaces (t : Nat) (f : Team → Team) : (s.updTeam t f).spaces = s.spaces := rfl
@[simp] theorem State.updTeam_tenants (t : Nat) (f : Team → Team) : (s.updTeam t f).tenants = s.tenants := rfl
@[simp] theorem State.updTeam_partitions (t : Nat) (f : Team → Team) : (s.updTeam t f).partitions = s.partitions := rfl
@[simp] theorem State.updTeam_cores (t : Nat) (f : Team → Team) : (s.updTeam t f).cores = s.cores := rfl
@[simp] theorem State.updTeam_ckpts (t : Nat) (f : Team → Team) : (s.updTeam t f).ckpts = s.ckpts := rfl
@[simp] theorem State.updTeam_windows (t : Nat) (f : Team → Team) : (s.updTeam t f).windows = s.windows := rfl
@[simp] theorem State.updTeam_xredNext (t : Nat) (f : Team → Team) : (s.updTeam t f).xredNext = s.xredNext := rfl
@[simp] theorem State.updTeam_rnzid (t : Nat) (f : Team → Team) : (s.updTeam t f).rnzid = s.rnzid := rfl
@[simp] theorem State.updTeam_portsDown (t : Nat) (f : Team → Team) : (s.updTeam t f).portsDown = s.portsDown := rfl
@[simp] theorem State.updTeam_boost (t : Nat) (f : Team → Team) : (s.updTeam t f).boost = s.boost := rfl
@[simp] theorem State.updTeam_occause (t : Nat) (f : Team → Team) : (s.updTeam t f).occause = s.occause := rfl
@[simp] theorem State.updTeam_girthRate (t : Nat) (f : Team → Team) : (s.updTeam t f).girthRate = s.girthRate := rfl
@[simp] theorem State.updTeam_filler (t : Nat) (f : Team → Team) : (s.updTeam t f).filler = s.filler := rfl
@[simp] theorem State.updTeam_coresLeft (t : Nat) (f : Team → Team) : (s.updTeam t f).coresLeft = s.coresLeft := rfl
@[simp] theorem State.updTeam_boot (t : Nat) (f : Team → Team) : (s.updTeam t f).boot = s.boot := rfl
@[simp] theorem State.updTeam_flitFault (t : Nat) (f : Team → Team) : (s.updTeam t f).flitFault = s.flitFault := rfl
@[simp] theorem State.updTeam_idled (t : Nat) (f : Team → Team) : (s.updTeam t f).idled = s.idled := rfl

/-! ### updGroup -/

@[simp] theorem State.updGroup_agenda (t g : Nat) (f : Group → Group) : (s.updGroup t g f).agenda = s.agenda := rfl
@[simp] theorem State.updGroup_inbox (t g : Nat) (f : Group → Group) : (s.updGroup t g f).inbox = s.inbox := rfl
@[simp] theorem State.updGroup_notices (t g : Nat) (f : Group → Group) : (s.updGroup t g f).notices = s.notices := rfl
@[simp] theorem State.updGroup_cur (t g : Nat) (f : Group → Group) : (s.updGroup t g f).cur = s.cur := rfl
@[simp] theorem State.updGroup_nextId (t g : Nat) (f : Group → Group) : (s.updGroup t g f).nextId = s.nextId := rfl
@[simp] theorem State.updGroup_free (t g : Nat) (f : Group → Group) : (s.updGroup t g f).free = s.free := rfl
@[simp] theorem State.updGroup_hbm (t g : Nat) (f : Group → Group) : (s.updGroup t g f).hbm = s.hbm := rfl
@[simp] theorem State.updGroup_hbmPoison (t g : Nat) (f : Group → Group) : (s.updGroup t g f).hbmPoison = s.hbmPoison := rfl
@[simp] theorem State.updGroup_fab (t g : Nat) (f : Group → Group) : (s.updGroup t g f).fab = s.fab := rfl
@[simp] theorem State.updGroup_fabPoison (t g : Nat) (f : Group → Group) : (s.updGroup t g f).fabPoison = s.fabPoison := rfl
@[simp] theorem State.updGroup_hostMem (t g : Nat) (f : Group → Group) : (s.updGroup t g f).hostMem = s.hostMem := rfl
@[simp] theorem State.updGroup_peerMem (t g : Nat) (f : Group → Group) : (s.updGroup t g f).peerMem = s.peerMem := rfl
@[simp] theorem State.updGroup_lines (t g : Nat) (f : Group → Group) : (s.updGroup t g f).lines = s.lines := rfl
@[simp] theorem State.updGroup_tlb (t g : Nat) (f : Group → Group) : (s.updGroup t g f).tlb = s.tlb := rfl
@[simp] theorem State.updGroup_codes (t g : Nat) (f : Group → Group) : (s.updGroup t g f).codes = s.codes := rfl
@[simp] theorem State.updGroup_flights (t g : Nat) (f : Group → Group) : (s.updGroup t g f).flights = s.flights := rfl
@[simp] theorem State.updGroup_ops (t g : Nat) (f : Group → Group) : (s.updGroup t g f).ops = s.ops := rfl
@[simp] theorem State.updGroup_awl (t g : Nat) (f : Group → Group) : (s.updGroup t g f).awl = s.awl := rfl
@[simp] theorem State.updGroup_awlTurn (t g : Nat) (f : Group → Group) : (s.updGroup t g f).awlTurn = s.awlTurn := rfl
@[simp] theorem State.updGroup_sent (t g : Nat) (f : Group → Group) : (s.updGroup t g f).sent = s.sent := rfl
@[simp] theorem State.updGroup_launches (t g : Nat) (f : Group → Group) : (s.updGroup t g f).launches = s.launches := rfl
@[simp] theorem State.updGroup_spaces (t g : Nat) (f : Group → Group) : (s.updGroup t g f).spaces = s.spaces := rfl
@[simp] theorem State.updGroup_tenants (t g : Nat) (f : Group → Group) : (s.updGroup t g f).tenants = s.tenants := rfl
@[simp] theorem State.updGroup_partitions (t g : Nat) (f : Group → Group) : (s.updGroup t g f).partitions = s.partitions := rfl
@[simp] theorem State.updGroup_cores (t g : Nat) (f : Group → Group) : (s.updGroup t g f).cores = s.cores := rfl
@[simp] theorem State.updGroup_ckpts (t g : Nat) (f : Group → Group) : (s.updGroup t g f).ckpts = s.ckpts := rfl
@[simp] theorem State.updGroup_windows (t g : Nat) (f : Group → Group) : (s.updGroup t g f).windows = s.windows := rfl
@[simp] theorem State.updGroup_xredNext (t g : Nat) (f : Group → Group) : (s.updGroup t g f).xredNext = s.xredNext := rfl
@[simp] theorem State.updGroup_rnzid (t g : Nat) (f : Group → Group) : (s.updGroup t g f).rnzid = s.rnzid := rfl
@[simp] theorem State.updGroup_portsDown (t g : Nat) (f : Group → Group) : (s.updGroup t g f).portsDown = s.portsDown := rfl
@[simp] theorem State.updGroup_boost (t g : Nat) (f : Group → Group) : (s.updGroup t g f).boost = s.boost := rfl
@[simp] theorem State.updGroup_occause (t g : Nat) (f : Group → Group) : (s.updGroup t g f).occause = s.occause := rfl
@[simp] theorem State.updGroup_girthRate (t g : Nat) (f : Group → Group) : (s.updGroup t g f).girthRate = s.girthRate := rfl
@[simp] theorem State.updGroup_filler (t g : Nat) (f : Group → Group) : (s.updGroup t g f).filler = s.filler := rfl
@[simp] theorem State.updGroup_coresLeft (t g : Nat) (f : Group → Group) : (s.updGroup t g f).coresLeft = s.coresLeft := rfl
@[simp] theorem State.updGroup_boot (t g : Nat) (f : Group → Group) : (s.updGroup t g f).boot = s.boot := rfl
@[simp] theorem State.updGroup_flitFault (t g : Nat) (f : Group → Group) : (s.updGroup t g f).flitFault = s.flitFault := rfl
@[simp] theorem State.updGroup_idled (t g : Nat) (f : Group → Group) : (s.updGroup t g f).idled = s.idled := rfl

/-! ### updThread -/

@[simp] theorem State.updThread_agenda (t g l : Nat) (f : Thread → Thread) : (s.updThread t g l f).agenda = s.agenda := rfl
@[simp] theorem State.updThread_inbox (t g l : Nat) (f : Thread → Thread) : (s.updThread t g l f).inbox = s.inbox := rfl
@[simp] theorem State.updThread_notices (t g l : Nat) (f : Thread → Thread) : (s.updThread t g l f).notices = s.notices := rfl
@[simp] theorem State.updThread_cur (t g l : Nat) (f : Thread → Thread) : (s.updThread t g l f).cur = s.cur := rfl
@[simp] theorem State.updThread_nextId (t g l : Nat) (f : Thread → Thread) : (s.updThread t g l f).nextId = s.nextId := rfl
@[simp] theorem State.updThread_free (t g l : Nat) (f : Thread → Thread) : (s.updThread t g l f).free = s.free := rfl
@[simp] theorem State.updThread_hbm (t g l : Nat) (f : Thread → Thread) : (s.updThread t g l f).hbm = s.hbm := rfl
@[simp] theorem State.updThread_hbmPoison (t g l : Nat) (f : Thread → Thread) : (s.updThread t g l f).hbmPoison = s.hbmPoison := rfl
@[simp] theorem State.updThread_fab (t g l : Nat) (f : Thread → Thread) : (s.updThread t g l f).fab = s.fab := rfl
@[simp] theorem State.updThread_fabPoison (t g l : Nat) (f : Thread → Thread) : (s.updThread t g l f).fabPoison = s.fabPoison := rfl
@[simp] theorem State.updThread_hostMem (t g l : Nat) (f : Thread → Thread) : (s.updThread t g l f).hostMem = s.hostMem := rfl
@[simp] theorem State.updThread_peerMem (t g l : Nat) (f : Thread → Thread) : (s.updThread t g l f).peerMem = s.peerMem := rfl
@[simp] theorem State.updThread_lines (t g l : Nat) (f : Thread → Thread) : (s.updThread t g l f).lines = s.lines := rfl
@[simp] theorem State.updThread_tlb (t g l : Nat) (f : Thread → Thread) : (s.updThread t g l f).tlb = s.tlb := rfl
@[simp] theorem State.updThread_codes (t g l : Nat) (f : Thread → Thread) : (s.updThread t g l f).codes = s.codes := rfl
@[simp] theorem State.updThread_flights (t g l : Nat) (f : Thread → Thread) : (s.updThread t g l f).flights = s.flights := rfl
@[simp] theorem State.updThread_ops (t g l : Nat) (f : Thread → Thread) : (s.updThread t g l f).ops = s.ops := rfl
@[simp] theorem State.updThread_awl (t g l : Nat) (f : Thread → Thread) : (s.updThread t g l f).awl = s.awl := rfl
@[simp] theorem State.updThread_awlTurn (t g l : Nat) (f : Thread → Thread) : (s.updThread t g l f).awlTurn = s.awlTurn := rfl
@[simp] theorem State.updThread_sent (t g l : Nat) (f : Thread → Thread) : (s.updThread t g l f).sent = s.sent := rfl
@[simp] theorem State.updThread_launches (t g l : Nat) (f : Thread → Thread) : (s.updThread t g l f).launches = s.launches := rfl
@[simp] theorem State.updThread_spaces (t g l : Nat) (f : Thread → Thread) : (s.updThread t g l f).spaces = s.spaces := rfl
@[simp] theorem State.updThread_tenants (t g l : Nat) (f : Thread → Thread) : (s.updThread t g l f).tenants = s.tenants := rfl
@[simp] theorem State.updThread_partitions (t g l : Nat) (f : Thread → Thread) : (s.updThread t g l f).partitions = s.partitions := rfl
@[simp] theorem State.updThread_cores (t g l : Nat) (f : Thread → Thread) : (s.updThread t g l f).cores = s.cores := rfl
@[simp] theorem State.updThread_ckpts (t g l : Nat) (f : Thread → Thread) : (s.updThread t g l f).ckpts = s.ckpts := rfl
@[simp] theorem State.updThread_windows (t g l : Nat) (f : Thread → Thread) : (s.updThread t g l f).windows = s.windows := rfl
@[simp] theorem State.updThread_xredNext (t g l : Nat) (f : Thread → Thread) : (s.updThread t g l f).xredNext = s.xredNext := rfl
@[simp] theorem State.updThread_rnzid (t g l : Nat) (f : Thread → Thread) : (s.updThread t g l f).rnzid = s.rnzid := rfl
@[simp] theorem State.updThread_portsDown (t g l : Nat) (f : Thread → Thread) : (s.updThread t g l f).portsDown = s.portsDown := rfl
@[simp] theorem State.updThread_boost (t g l : Nat) (f : Thread → Thread) : (s.updThread t g l f).boost = s.boost := rfl
@[simp] theorem State.updThread_occause (t g l : Nat) (f : Thread → Thread) : (s.updThread t g l f).occause = s.occause := rfl
@[simp] theorem State.updThread_girthRate (t g l : Nat) (f : Thread → Thread) : (s.updThread t g l f).girthRate = s.girthRate := rfl
@[simp] theorem State.updThread_filler (t g l : Nat) (f : Thread → Thread) : (s.updThread t g l f).filler = s.filler := rfl
@[simp] theorem State.updThread_coresLeft (t g l : Nat) (f : Thread → Thread) : (s.updThread t g l f).coresLeft = s.coresLeft := rfl
@[simp] theorem State.updThread_boot (t g l : Nat) (f : Thread → Thread) : (s.updThread t g l f).boot = s.boot := rfl
@[simp] theorem State.updThread_flitFault (t g l : Nat) (f : Thread → Thread) : (s.updThread t g l f).flitFault = s.flitFault := rfl
@[simp] theorem State.updThread_idled (t g l : Nat) (f : Thread → Thread) : (s.updThread t g l f).idled = s.idled := rfl

/-! ### setLaunch -/

@[simp] theorem State.setLaunch_agenda (n : Nat) (x : Launch) : (s.setLaunch n x).agenda = s.agenda := rfl
@[simp] theorem State.setLaunch_inbox (n : Nat) (x : Launch) : (s.setLaunch n x).inbox = s.inbox := rfl
@[simp] theorem State.setLaunch_notices (n : Nat) (x : Launch) : (s.setLaunch n x).notices = s.notices := rfl
@[simp] theorem State.setLaunch_cur (n : Nat) (x : Launch) : (s.setLaunch n x).cur = s.cur := rfl
@[simp] theorem State.setLaunch_nextId (n : Nat) (x : Launch) : (s.setLaunch n x).nextId = s.nextId := rfl
@[simp] theorem State.setLaunch_free (n : Nat) (x : Launch) : (s.setLaunch n x).free = s.free := rfl
@[simp] theorem State.setLaunch_hbm (n : Nat) (x : Launch) : (s.setLaunch n x).hbm = s.hbm := rfl
@[simp] theorem State.setLaunch_hbmPoison (n : Nat) (x : Launch) : (s.setLaunch n x).hbmPoison = s.hbmPoison := rfl
@[simp] theorem State.setLaunch_fab (n : Nat) (x : Launch) : (s.setLaunch n x).fab = s.fab := rfl
@[simp] theorem State.setLaunch_fabPoison (n : Nat) (x : Launch) : (s.setLaunch n x).fabPoison = s.fabPoison := rfl
@[simp] theorem State.setLaunch_hostMem (n : Nat) (x : Launch) : (s.setLaunch n x).hostMem = s.hostMem := rfl
@[simp] theorem State.setLaunch_peerMem (n : Nat) (x : Launch) : (s.setLaunch n x).peerMem = s.peerMem := rfl
@[simp] theorem State.setLaunch_lines (n : Nat) (x : Launch) : (s.setLaunch n x).lines = s.lines := rfl
@[simp] theorem State.setLaunch_tlb (n : Nat) (x : Launch) : (s.setLaunch n x).tlb = s.tlb := rfl
@[simp] theorem State.setLaunch_codes (n : Nat) (x : Launch) : (s.setLaunch n x).codes = s.codes := rfl
@[simp] theorem State.setLaunch_flights (n : Nat) (x : Launch) : (s.setLaunch n x).flights = s.flights := rfl
@[simp] theorem State.setLaunch_ops (n : Nat) (x : Launch) : (s.setLaunch n x).ops = s.ops := rfl
@[simp] theorem State.setLaunch_awl (n : Nat) (x : Launch) : (s.setLaunch n x).awl = s.awl := rfl
@[simp] theorem State.setLaunch_awlTurn (n : Nat) (x : Launch) : (s.setLaunch n x).awlTurn = s.awlTurn := rfl
@[simp] theorem State.setLaunch_sent (n : Nat) (x : Launch) : (s.setLaunch n x).sent = s.sent := rfl
@[simp] theorem State.setLaunch_teams (n : Nat) (x : Launch) : (s.setLaunch n x).teams = s.teams := rfl
@[simp] theorem State.setLaunch_spaces (n : Nat) (x : Launch) : (s.setLaunch n x).spaces = s.spaces := rfl
@[simp] theorem State.setLaunch_tenants (n : Nat) (x : Launch) : (s.setLaunch n x).tenants = s.tenants := rfl
@[simp] theorem State.setLaunch_partitions (n : Nat) (x : Launch) : (s.setLaunch n x).partitions = s.partitions := rfl
@[simp] theorem State.setLaunch_cores (n : Nat) (x : Launch) : (s.setLaunch n x).cores = s.cores := rfl
@[simp] theorem State.setLaunch_ckpts (n : Nat) (x : Launch) : (s.setLaunch n x).ckpts = s.ckpts := rfl
@[simp] theorem State.setLaunch_windows (n : Nat) (x : Launch) : (s.setLaunch n x).windows = s.windows := rfl
@[simp] theorem State.setLaunch_xredNext (n : Nat) (x : Launch) : (s.setLaunch n x).xredNext = s.xredNext := rfl
@[simp] theorem State.setLaunch_rnzid (n : Nat) (x : Launch) : (s.setLaunch n x).rnzid = s.rnzid := rfl
@[simp] theorem State.setLaunch_portsDown (n : Nat) (x : Launch) : (s.setLaunch n x).portsDown = s.portsDown := rfl
@[simp] theorem State.setLaunch_boost (n : Nat) (x : Launch) : (s.setLaunch n x).boost = s.boost := rfl
@[simp] theorem State.setLaunch_occause (n : Nat) (x : Launch) : (s.setLaunch n x).occause = s.occause := rfl
@[simp] theorem State.setLaunch_girthRate (n : Nat) (x : Launch) : (s.setLaunch n x).girthRate = s.girthRate := rfl
@[simp] theorem State.setLaunch_filler (n : Nat) (x : Launch) : (s.setLaunch n x).filler = s.filler := rfl
@[simp] theorem State.setLaunch_coresLeft (n : Nat) (x : Launch) : (s.setLaunch n x).coresLeft = s.coresLeft := rfl
@[simp] theorem State.setLaunch_boot (n : Nat) (x : Launch) : (s.setLaunch n x).boot = s.boot := rfl
@[simp] theorem State.setLaunch_flitFault (n : Nat) (x : Launch) : (s.setLaunch n x).flitFault = s.flitFault := rfl
@[simp] theorem State.setLaunch_idled (n : Nat) (x : Launch) : (s.setLaunch n x).idled = s.idled := rfl

/-! ### updLaunch -/

@[simp] theorem State.updLaunch_agenda (n : Nat) (f : Launch → Launch) : (s.updLaunch n f).agenda = s.agenda := rfl
@[simp] theorem State.updLaunch_inbox (n : Nat) (f : Launch → Launch) : (s.updLaunch n f).inbox = s.inbox := rfl
@[simp] theorem State.updLaunch_notices (n : Nat) (f : Launch → Launch) : (s.updLaunch n f).notices = s.notices := rfl
@[simp] theorem State.updLaunch_cur (n : Nat) (f : Launch → Launch) : (s.updLaunch n f).cur = s.cur := rfl
@[simp] theorem State.updLaunch_nextId (n : Nat) (f : Launch → Launch) : (s.updLaunch n f).nextId = s.nextId := rfl
@[simp] theorem State.updLaunch_free (n : Nat) (f : Launch → Launch) : (s.updLaunch n f).free = s.free := rfl
@[simp] theorem State.updLaunch_hbm (n : Nat) (f : Launch → Launch) : (s.updLaunch n f).hbm = s.hbm := rfl
@[simp] theorem State.updLaunch_hbmPoison (n : Nat) (f : Launch → Launch) : (s.updLaunch n f).hbmPoison = s.hbmPoison := rfl
@[simp] theorem State.updLaunch_fab (n : Nat) (f : Launch → Launch) : (s.updLaunch n f).fab = s.fab := rfl
@[simp] theorem State.updLaunch_fabPoison (n : Nat) (f : Launch → Launch) : (s.updLaunch n f).fabPoison = s.fabPoison := rfl
@[simp] theorem State.updLaunch_hostMem (n : Nat) (f : Launch → Launch) : (s.updLaunch n f).hostMem = s.hostMem := rfl
@[simp] theorem State.updLaunch_peerMem (n : Nat) (f : Launch → Launch) : (s.updLaunch n f).peerMem = s.peerMem := rfl
@[simp] theorem State.updLaunch_lines (n : Nat) (f : Launch → Launch) : (s.updLaunch n f).lines = s.lines := rfl
@[simp] theorem State.updLaunch_tlb (n : Nat) (f : Launch → Launch) : (s.updLaunch n f).tlb = s.tlb := rfl
@[simp] theorem State.updLaunch_codes (n : Nat) (f : Launch → Launch) : (s.updLaunch n f).codes = s.codes := rfl
@[simp] theorem State.updLaunch_flights (n : Nat) (f : Launch → Launch) : (s.updLaunch n f).flights = s.flights := rfl
@[simp] theorem State.updLaunch_ops (n : Nat) (f : Launch → Launch) : (s.updLaunch n f).ops = s.ops := rfl
@[simp] theorem State.updLaunch_awl (n : Nat) (f : Launch → Launch) : (s.updLaunch n f).awl = s.awl := rfl
@[simp] theorem State.updLaunch_awlTurn (n : Nat) (f : Launch → Launch) : (s.updLaunch n f).awlTurn = s.awlTurn := rfl
@[simp] theorem State.updLaunch_sent (n : Nat) (f : Launch → Launch) : (s.updLaunch n f).sent = s.sent := rfl
@[simp] theorem State.updLaunch_teams (n : Nat) (f : Launch → Launch) : (s.updLaunch n f).teams = s.teams := rfl
@[simp] theorem State.updLaunch_spaces (n : Nat) (f : Launch → Launch) : (s.updLaunch n f).spaces = s.spaces := rfl
@[simp] theorem State.updLaunch_tenants (n : Nat) (f : Launch → Launch) : (s.updLaunch n f).tenants = s.tenants := rfl
@[simp] theorem State.updLaunch_partitions (n : Nat) (f : Launch → Launch) : (s.updLaunch n f).partitions = s.partitions := rfl
@[simp] theorem State.updLaunch_cores (n : Nat) (f : Launch → Launch) : (s.updLaunch n f).cores = s.cores := rfl
@[simp] theorem State.updLaunch_ckpts (n : Nat) (f : Launch → Launch) : (s.updLaunch n f).ckpts = s.ckpts := rfl
@[simp] theorem State.updLaunch_windows (n : Nat) (f : Launch → Launch) : (s.updLaunch n f).windows = s.windows := rfl
@[simp] theorem State.updLaunch_xredNext (n : Nat) (f : Launch → Launch) : (s.updLaunch n f).xredNext = s.xredNext := rfl
@[simp] theorem State.updLaunch_rnzid (n : Nat) (f : Launch → Launch) : (s.updLaunch n f).rnzid = s.rnzid := rfl
@[simp] theorem State.updLaunch_portsDown (n : Nat) (f : Launch → Launch) : (s.updLaunch n f).portsDown = s.portsDown := rfl
@[simp] theorem State.updLaunch_boost (n : Nat) (f : Launch → Launch) : (s.updLaunch n f).boost = s.boost := rfl
@[simp] theorem State.updLaunch_occause (n : Nat) (f : Launch → Launch) : (s.updLaunch n f).occause = s.occause := rfl
@[simp] theorem State.updLaunch_girthRate (n : Nat) (f : Launch → Launch) : (s.updLaunch n f).girthRate = s.girthRate := rfl
@[simp] theorem State.updLaunch_filler (n : Nat) (f : Launch → Launch) : (s.updLaunch n f).filler = s.filler := rfl
@[simp] theorem State.updLaunch_coresLeft (n : Nat) (f : Launch → Launch) : (s.updLaunch n f).coresLeft = s.coresLeft := rfl
@[simp] theorem State.updLaunch_boot (n : Nat) (f : Launch → Launch) : (s.updLaunch n f).boot = s.boot := rfl
@[simp] theorem State.updLaunch_flitFault (n : Nat) (f : Launch → Launch) : (s.updLaunch n f).flitFault = s.flitFault := rfl
@[simp] theorem State.updLaunch_idled (n : Nat) (f : Launch → Launch) : (s.updLaunch n f).idled = s.idled := rfl

/-! ### setTenant -/

@[simp] theorem State.setTenant_agenda (n : Nat) (x : Tenant) : (s.setTenant n x).agenda = s.agenda := rfl
@[simp] theorem State.setTenant_inbox (n : Nat) (x : Tenant) : (s.setTenant n x).inbox = s.inbox := rfl
@[simp] theorem State.setTenant_notices (n : Nat) (x : Tenant) : (s.setTenant n x).notices = s.notices := rfl
@[simp] theorem State.setTenant_cur (n : Nat) (x : Tenant) : (s.setTenant n x).cur = s.cur := rfl
@[simp] theorem State.setTenant_nextId (n : Nat) (x : Tenant) : (s.setTenant n x).nextId = s.nextId := rfl
@[simp] theorem State.setTenant_free (n : Nat) (x : Tenant) : (s.setTenant n x).free = s.free := rfl
@[simp] theorem State.setTenant_hbm (n : Nat) (x : Tenant) : (s.setTenant n x).hbm = s.hbm := rfl
@[simp] theorem State.setTenant_hbmPoison (n : Nat) (x : Tenant) : (s.setTenant n x).hbmPoison = s.hbmPoison := rfl
@[simp] theorem State.setTenant_fab (n : Nat) (x : Tenant) : (s.setTenant n x).fab = s.fab := rfl
@[simp] theorem State.setTenant_fabPoison (n : Nat) (x : Tenant) : (s.setTenant n x).fabPoison = s.fabPoison := rfl
@[simp] theorem State.setTenant_hostMem (n : Nat) (x : Tenant) : (s.setTenant n x).hostMem = s.hostMem := rfl
@[simp] theorem State.setTenant_peerMem (n : Nat) (x : Tenant) : (s.setTenant n x).peerMem = s.peerMem := rfl
@[simp] theorem State.setTenant_lines (n : Nat) (x : Tenant) : (s.setTenant n x).lines = s.lines := rfl
@[simp] theorem State.setTenant_tlb (n : Nat) (x : Tenant) : (s.setTenant n x).tlb = s.tlb := rfl
@[simp] theorem State.setTenant_codes (n : Nat) (x : Tenant) : (s.setTenant n x).codes = s.codes := rfl
@[simp] theorem State.setTenant_flights (n : Nat) (x : Tenant) : (s.setTenant n x).flights = s.flights := rfl
@[simp] theorem State.setTenant_ops (n : Nat) (x : Tenant) : (s.setTenant n x).ops = s.ops := rfl
@[simp] theorem State.setTenant_awl (n : Nat) (x : Tenant) : (s.setTenant n x).awl = s.awl := rfl
@[simp] theorem State.setTenant_awlTurn (n : Nat) (x : Tenant) : (s.setTenant n x).awlTurn = s.awlTurn := rfl
@[simp] theorem State.setTenant_sent (n : Nat) (x : Tenant) : (s.setTenant n x).sent = s.sent := rfl
@[simp] theorem State.setTenant_teams (n : Nat) (x : Tenant) : (s.setTenant n x).teams = s.teams := rfl
@[simp] theorem State.setTenant_launches (n : Nat) (x : Tenant) : (s.setTenant n x).launches = s.launches := rfl
@[simp] theorem State.setTenant_spaces (n : Nat) (x : Tenant) : (s.setTenant n x).spaces = s.spaces := rfl
@[simp] theorem State.setTenant_partitions (n : Nat) (x : Tenant) : (s.setTenant n x).partitions = s.partitions := rfl
@[simp] theorem State.setTenant_cores (n : Nat) (x : Tenant) : (s.setTenant n x).cores = s.cores := rfl
@[simp] theorem State.setTenant_ckpts (n : Nat) (x : Tenant) : (s.setTenant n x).ckpts = s.ckpts := rfl
@[simp] theorem State.setTenant_windows (n : Nat) (x : Tenant) : (s.setTenant n x).windows = s.windows := rfl
@[simp] theorem State.setTenant_xredNext (n : Nat) (x : Tenant) : (s.setTenant n x).xredNext = s.xredNext := rfl
@[simp] theorem State.setTenant_rnzid (n : Nat) (x : Tenant) : (s.setTenant n x).rnzid = s.rnzid := rfl
@[simp] theorem State.setTenant_portsDown (n : Nat) (x : Tenant) : (s.setTenant n x).portsDown = s.portsDown := rfl
@[simp] theorem State.setTenant_boost (n : Nat) (x : Tenant) : (s.setTenant n x).boost = s.boost := rfl
@[simp] theorem State.setTenant_occause (n : Nat) (x : Tenant) : (s.setTenant n x).occause = s.occause := rfl
@[simp] theorem State.setTenant_girthRate (n : Nat) (x : Tenant) : (s.setTenant n x).girthRate = s.girthRate := rfl
@[simp] theorem State.setTenant_filler (n : Nat) (x : Tenant) : (s.setTenant n x).filler = s.filler := rfl
@[simp] theorem State.setTenant_coresLeft (n : Nat) (x : Tenant) : (s.setTenant n x).coresLeft = s.coresLeft := rfl
@[simp] theorem State.setTenant_boot (n : Nat) (x : Tenant) : (s.setTenant n x).boot = s.boot := rfl
@[simp] theorem State.setTenant_flitFault (n : Nat) (x : Tenant) : (s.setTenant n x).flitFault = s.flitFault := rfl
@[simp] theorem State.setTenant_idled (n : Nat) (x : Tenant) : (s.setTenant n x).idled = s.idled := rfl

/-! ### updTenant -/

@[simp] theorem State.updTenant_agenda (n : Nat) (f : Tenant → Tenant) : (s.updTenant n f).agenda = s.agenda := rfl
@[simp] theorem State.updTenant_inbox (n : Nat) (f : Tenant → Tenant) : (s.updTenant n f).inbox = s.inbox := rfl
@[simp] theorem State.updTenant_notices (n : Nat) (f : Tenant → Tenant) : (s.updTenant n f).notices = s.notices := rfl
@[simp] theorem State.updTenant_cur (n : Nat) (f : Tenant → Tenant) : (s.updTenant n f).cur = s.cur := rfl
@[simp] theorem State.updTenant_nextId (n : Nat) (f : Tenant → Tenant) : (s.updTenant n f).nextId = s.nextId := rfl
@[simp] theorem State.updTenant_free (n : Nat) (f : Tenant → Tenant) : (s.updTenant n f).free = s.free := rfl
@[simp] theorem State.updTenant_hbm (n : Nat) (f : Tenant → Tenant) : (s.updTenant n f).hbm = s.hbm := rfl
@[simp] theorem State.updTenant_hbmPoison (n : Nat) (f : Tenant → Tenant) : (s.updTenant n f).hbmPoison = s.hbmPoison := rfl
@[simp] theorem State.updTenant_fab (n : Nat) (f : Tenant → Tenant) : (s.updTenant n f).fab = s.fab := rfl
@[simp] theorem State.updTenant_fabPoison (n : Nat) (f : Tenant → Tenant) : (s.updTenant n f).fabPoison = s.fabPoison := rfl
@[simp] theorem State.updTenant_hostMem (n : Nat) (f : Tenant → Tenant) : (s.updTenant n f).hostMem = s.hostMem := rfl
@[simp] theorem State.updTenant_peerMem (n : Nat) (f : Tenant → Tenant) : (s.updTenant n f).peerMem = s.peerMem := rfl
@[simp] theorem State.updTenant_lines (n : Nat) (f : Tenant → Tenant) : (s.updTenant n f).lines = s.lines := rfl
@[simp] theorem State.updTenant_tlb (n : Nat) (f : Tenant → Tenant) : (s.updTenant n f).tlb = s.tlb := rfl
@[simp] theorem State.updTenant_codes (n : Nat) (f : Tenant → Tenant) : (s.updTenant n f).codes = s.codes := rfl
@[simp] theorem State.updTenant_flights (n : Nat) (f : Tenant → Tenant) : (s.updTenant n f).flights = s.flights := rfl
@[simp] theorem State.updTenant_ops (n : Nat) (f : Tenant → Tenant) : (s.updTenant n f).ops = s.ops := rfl
@[simp] theorem State.updTenant_awl (n : Nat) (f : Tenant → Tenant) : (s.updTenant n f).awl = s.awl := rfl
@[simp] theorem State.updTenant_awlTurn (n : Nat) (f : Tenant → Tenant) : (s.updTenant n f).awlTurn = s.awlTurn := rfl
@[simp] theorem State.updTenant_sent (n : Nat) (f : Tenant → Tenant) : (s.updTenant n f).sent = s.sent := rfl
@[simp] theorem State.updTenant_teams (n : Nat) (f : Tenant → Tenant) : (s.updTenant n f).teams = s.teams := rfl
@[simp] theorem State.updTenant_launches (n : Nat) (f : Tenant → Tenant) : (s.updTenant n f).launches = s.launches := rfl
@[simp] theorem State.updTenant_spaces (n : Nat) (f : Tenant → Tenant) : (s.updTenant n f).spaces = s.spaces := rfl
@[simp] theorem State.updTenant_partitions (n : Nat) (f : Tenant → Tenant) : (s.updTenant n f).partitions = s.partitions := rfl
@[simp] theorem State.updTenant_cores (n : Nat) (f : Tenant → Tenant) : (s.updTenant n f).cores = s.cores := rfl
@[simp] theorem State.updTenant_ckpts (n : Nat) (f : Tenant → Tenant) : (s.updTenant n f).ckpts = s.ckpts := rfl
@[simp] theorem State.updTenant_windows (n : Nat) (f : Tenant → Tenant) : (s.updTenant n f).windows = s.windows := rfl
@[simp] theorem State.updTenant_xredNext (n : Nat) (f : Tenant → Tenant) : (s.updTenant n f).xredNext = s.xredNext := rfl
@[simp] theorem State.updTenant_rnzid (n : Nat) (f : Tenant → Tenant) : (s.updTenant n f).rnzid = s.rnzid := rfl
@[simp] theorem State.updTenant_portsDown (n : Nat) (f : Tenant → Tenant) : (s.updTenant n f).portsDown = s.portsDown := rfl
@[simp] theorem State.updTenant_boost (n : Nat) (f : Tenant → Tenant) : (s.updTenant n f).boost = s.boost := rfl
@[simp] theorem State.updTenant_occause (n : Nat) (f : Tenant → Tenant) : (s.updTenant n f).occause = s.occause := rfl
@[simp] theorem State.updTenant_girthRate (n : Nat) (f : Tenant → Tenant) : (s.updTenant n f).girthRate = s.girthRate := rfl
@[simp] theorem State.updTenant_filler (n : Nat) (f : Tenant → Tenant) : (s.updTenant n f).filler = s.filler := rfl
@[simp] theorem State.updTenant_coresLeft (n : Nat) (f : Tenant → Tenant) : (s.updTenant n f).coresLeft = s.coresLeft := rfl
@[simp] theorem State.updTenant_boot (n : Nat) (f : Tenant → Tenant) : (s.updTenant n f).boot = s.boot := rfl
@[simp] theorem State.updTenant_flitFault (n : Nat) (f : Tenant → Tenant) : (s.updTenant n f).flitFault = s.flitFault := rfl
@[simp] theorem State.updTenant_idled (n : Nat) (f : Tenant → Tenant) : (s.updTenant n f).idled = s.idled := rfl

/-! ### setCore -/

@[simp] theorem State.setCore_agenda (n : Nat) (x : Core) : (s.setCore n x).agenda = s.agenda := rfl
@[simp] theorem State.setCore_inbox (n : Nat) (x : Core) : (s.setCore n x).inbox = s.inbox := rfl
@[simp] theorem State.setCore_notices (n : Nat) (x : Core) : (s.setCore n x).notices = s.notices := rfl
@[simp] theorem State.setCore_cur (n : Nat) (x : Core) : (s.setCore n x).cur = s.cur := rfl
@[simp] theorem State.setCore_nextId (n : Nat) (x : Core) : (s.setCore n x).nextId = s.nextId := rfl
@[simp] theorem State.setCore_free (n : Nat) (x : Core) : (s.setCore n x).free = s.free := rfl
@[simp] theorem State.setCore_hbm (n : Nat) (x : Core) : (s.setCore n x).hbm = s.hbm := rfl
@[simp] theorem State.setCore_hbmPoison (n : Nat) (x : Core) : (s.setCore n x).hbmPoison = s.hbmPoison := rfl
@[simp] theorem State.setCore_fab (n : Nat) (x : Core) : (s.setCore n x).fab = s.fab := rfl
@[simp] theorem State.setCore_fabPoison (n : Nat) (x : Core) : (s.setCore n x).fabPoison = s.fabPoison := rfl
@[simp] theorem State.setCore_hostMem (n : Nat) (x : Core) : (s.setCore n x).hostMem = s.hostMem := rfl
@[simp] theorem State.setCore_peerMem (n : Nat) (x : Core) : (s.setCore n x).peerMem = s.peerMem := rfl
@[simp] theorem State.setCore_lines (n : Nat) (x : Core) : (s.setCore n x).lines = s.lines := rfl
@[simp] theorem State.setCore_tlb (n : Nat) (x : Core) : (s.setCore n x).tlb = s.tlb := rfl
@[simp] theorem State.setCore_codes (n : Nat) (x : Core) : (s.setCore n x).codes = s.codes := rfl
@[simp] theorem State.setCore_flights (n : Nat) (x : Core) : (s.setCore n x).flights = s.flights := rfl
@[simp] theorem State.setCore_ops (n : Nat) (x : Core) : (s.setCore n x).ops = s.ops := rfl
@[simp] theorem State.setCore_awl (n : Nat) (x : Core) : (s.setCore n x).awl = s.awl := rfl
@[simp] theorem State.setCore_awlTurn (n : Nat) (x : Core) : (s.setCore n x).awlTurn = s.awlTurn := rfl
@[simp] theorem State.setCore_sent (n : Nat) (x : Core) : (s.setCore n x).sent = s.sent := rfl
@[simp] theorem State.setCore_teams (n : Nat) (x : Core) : (s.setCore n x).teams = s.teams := rfl
@[simp] theorem State.setCore_launches (n : Nat) (x : Core) : (s.setCore n x).launches = s.launches := rfl
@[simp] theorem State.setCore_spaces (n : Nat) (x : Core) : (s.setCore n x).spaces = s.spaces := rfl
@[simp] theorem State.setCore_tenants (n : Nat) (x : Core) : (s.setCore n x).tenants = s.tenants := rfl
@[simp] theorem State.setCore_partitions (n : Nat) (x : Core) : (s.setCore n x).partitions = s.partitions := rfl
@[simp] theorem State.setCore_ckpts (n : Nat) (x : Core) : (s.setCore n x).ckpts = s.ckpts := rfl
@[simp] theorem State.setCore_windows (n : Nat) (x : Core) : (s.setCore n x).windows = s.windows := rfl
@[simp] theorem State.setCore_xredNext (n : Nat) (x : Core) : (s.setCore n x).xredNext = s.xredNext := rfl
@[simp] theorem State.setCore_rnzid (n : Nat) (x : Core) : (s.setCore n x).rnzid = s.rnzid := rfl
@[simp] theorem State.setCore_portsDown (n : Nat) (x : Core) : (s.setCore n x).portsDown = s.portsDown := rfl
@[simp] theorem State.setCore_boost (n : Nat) (x : Core) : (s.setCore n x).boost = s.boost := rfl
@[simp] theorem State.setCore_occause (n : Nat) (x : Core) : (s.setCore n x).occause = s.occause := rfl
@[simp] theorem State.setCore_girthRate (n : Nat) (x : Core) : (s.setCore n x).girthRate = s.girthRate := rfl
@[simp] theorem State.setCore_filler (n : Nat) (x : Core) : (s.setCore n x).filler = s.filler := rfl
@[simp] theorem State.setCore_coresLeft (n : Nat) (x : Core) : (s.setCore n x).coresLeft = s.coresLeft := rfl
@[simp] theorem State.setCore_boot (n : Nat) (x : Core) : (s.setCore n x).boot = s.boot := rfl
@[simp] theorem State.setCore_flitFault (n : Nat) (x : Core) : (s.setCore n x).flitFault = s.flitFault := rfl
@[simp] theorem State.setCore_idled (n : Nat) (x : Core) : (s.setCore n x).idled = s.idled := rfl

/-! ### updCore -/

@[simp] theorem State.updCore_agenda (n : Nat) (f : Core → Core) : (s.updCore n f).agenda = s.agenda := rfl
@[simp] theorem State.updCore_inbox (n : Nat) (f : Core → Core) : (s.updCore n f).inbox = s.inbox := rfl
@[simp] theorem State.updCore_notices (n : Nat) (f : Core → Core) : (s.updCore n f).notices = s.notices := rfl
@[simp] theorem State.updCore_cur (n : Nat) (f : Core → Core) : (s.updCore n f).cur = s.cur := rfl
@[simp] theorem State.updCore_nextId (n : Nat) (f : Core → Core) : (s.updCore n f).nextId = s.nextId := rfl
@[simp] theorem State.updCore_free (n : Nat) (f : Core → Core) : (s.updCore n f).free = s.free := rfl
@[simp] theorem State.updCore_hbm (n : Nat) (f : Core → Core) : (s.updCore n f).hbm = s.hbm := rfl
@[simp] theorem State.updCore_hbmPoison (n : Nat) (f : Core → Core) : (s.updCore n f).hbmPoison = s.hbmPoison := rfl
@[simp] theorem State.updCore_fab (n : Nat) (f : Core → Core) : (s.updCore n f).fab = s.fab := rfl
@[simp] theorem State.updCore_fabPoison (n : Nat) (f : Core → Core) : (s.updCore n f).fabPoison = s.fabPoison := rfl
@[simp] theorem State.updCore_hostMem (n : Nat) (f : Core → Core) : (s.updCore n f).hostMem = s.hostMem := rfl
@[simp] theorem State.updCore_peerMem (n : Nat) (f : Core → Core) : (s.updCore n f).peerMem = s.peerMem := rfl
@[simp] theorem State.updCore_lines (n : Nat) (f : Core → Core) : (s.updCore n f).lines = s.lines := rfl
@[simp] theorem State.updCore_tlb (n : Nat) (f : Core → Core) : (s.updCore n f).tlb = s.tlb := rfl
@[simp] theorem State.updCore_codes (n : Nat) (f : Core → Core) : (s.updCore n f).codes = s.codes := rfl
@[simp] theorem State.updCore_flights (n : Nat) (f : Core → Core) : (s.updCore n f).flights = s.flights := rfl
@[simp] theorem State.updCore_ops (n : Nat) (f : Core → Core) : (s.updCore n f).ops = s.ops := rfl
@[simp] theorem State.updCore_awl (n : Nat) (f : Core → Core) : (s.updCore n f).awl = s.awl := rfl
@[simp] theorem State.updCore_awlTurn (n : Nat) (f : Core → Core) : (s.updCore n f).awlTurn = s.awlTurn := rfl
@[simp] theorem State.updCore_sent (n : Nat) (f : Core → Core) : (s.updCore n f).sent = s.sent := rfl
@[simp] theorem State.updCore_teams (n : Nat) (f : Core → Core) : (s.updCore n f).teams = s.teams := rfl
@[simp] theorem State.updCore_launches (n : Nat) (f : Core → Core) : (s.updCore n f).launches = s.launches := rfl
@[simp] theorem State.updCore_spaces (n : Nat) (f : Core → Core) : (s.updCore n f).spaces = s.spaces := rfl
@[simp] theorem State.updCore_tenants (n : Nat) (f : Core → Core) : (s.updCore n f).tenants = s.tenants := rfl
@[simp] theorem State.updCore_partitions (n : Nat) (f : Core → Core) : (s.updCore n f).partitions = s.partitions := rfl
@[simp] theorem State.updCore_ckpts (n : Nat) (f : Core → Core) : (s.updCore n f).ckpts = s.ckpts := rfl
@[simp] theorem State.updCore_windows (n : Nat) (f : Core → Core) : (s.updCore n f).windows = s.windows := rfl
@[simp] theorem State.updCore_xredNext (n : Nat) (f : Core → Core) : (s.updCore n f).xredNext = s.xredNext := rfl
@[simp] theorem State.updCore_rnzid (n : Nat) (f : Core → Core) : (s.updCore n f).rnzid = s.rnzid := rfl
@[simp] theorem State.updCore_portsDown (n : Nat) (f : Core → Core) : (s.updCore n f).portsDown = s.portsDown := rfl
@[simp] theorem State.updCore_boost (n : Nat) (f : Core → Core) : (s.updCore n f).boost = s.boost := rfl
@[simp] theorem State.updCore_occause (n : Nat) (f : Core → Core) : (s.updCore n f).occause = s.occause := rfl
@[simp] theorem State.updCore_girthRate (n : Nat) (f : Core → Core) : (s.updCore n f).girthRate = s.girthRate := rfl
@[simp] theorem State.updCore_filler (n : Nat) (f : Core → Core) : (s.updCore n f).filler = s.filler := rfl
@[simp] theorem State.updCore_coresLeft (n : Nat) (f : Core → Core) : (s.updCore n f).coresLeft = s.coresLeft := rfl
@[simp] theorem State.updCore_boot (n : Nat) (f : Core → Core) : (s.updCore n f).boot = s.boot := rfl
@[simp] theorem State.updCore_flitFault (n : Nat) (f : Core → Core) : (s.updCore n f).flitFault = s.flitFault := rfl
@[simp] theorem State.updCore_idled (n : Nat) (f : Core → Core) : (s.updCore n f).idled = s.idled := rfl

/-! ### setBundle -/

@[simp] theorem State.setBundle_agenda (n : Nat) (b : Option Bundle) : (s.setBundle n b).agenda = s.agenda := rfl
@[simp] theorem State.setBundle_inbox (n : Nat) (b : Option Bundle) : (s.setBundle n b).inbox = s.inbox := rfl
@[simp] theorem State.setBundle_notices (n : Nat) (b : Option Bundle) : (s.setBundle n b).notices = s.notices := rfl
@[simp] theorem State.setBundle_cur (n : Nat) (b : Option Bundle) : (s.setBundle n b).cur = s.cur := rfl
@[simp] theorem State.setBundle_nextId (n : Nat) (b : Option Bundle) : (s.setBundle n b).nextId = s.nextId := rfl
@[simp] theorem State.setBundle_free (n : Nat) (b : Option Bundle) : (s.setBundle n b).free = s.free := rfl
@[simp] theorem State.setBundle_hbm (n : Nat) (b : Option Bundle) : (s.setBundle n b).hbm = s.hbm := rfl
@[simp] theorem State.setBundle_hbmPoison (n : Nat) (b : Option Bundle) : (s.setBundle n b).hbmPoison = s.hbmPoison := rfl
@[simp] theorem State.setBundle_fab (n : Nat) (b : Option Bundle) : (s.setBundle n b).fab = s.fab := rfl
@[simp] theorem State.setBundle_fabPoison (n : Nat) (b : Option Bundle) : (s.setBundle n b).fabPoison = s.fabPoison := rfl
@[simp] theorem State.setBundle_hostMem (n : Nat) (b : Option Bundle) : (s.setBundle n b).hostMem = s.hostMem := rfl
@[simp] theorem State.setBundle_peerMem (n : Nat) (b : Option Bundle) : (s.setBundle n b).peerMem = s.peerMem := rfl
@[simp] theorem State.setBundle_lines (n : Nat) (b : Option Bundle) : (s.setBundle n b).lines = s.lines := rfl
@[simp] theorem State.setBundle_tlb (n : Nat) (b : Option Bundle) : (s.setBundle n b).tlb = s.tlb := rfl
@[simp] theorem State.setBundle_codes (n : Nat) (b : Option Bundle) : (s.setBundle n b).codes = s.codes := rfl
@[simp] theorem State.setBundle_flights (n : Nat) (b : Option Bundle) : (s.setBundle n b).flights = s.flights := rfl
@[simp] theorem State.setBundle_ops (n : Nat) (b : Option Bundle) : (s.setBundle n b).ops = s.ops := rfl
@[simp] theorem State.setBundle_awl (n : Nat) (b : Option Bundle) : (s.setBundle n b).awl = s.awl := rfl
@[simp] theorem State.setBundle_awlTurn (n : Nat) (b : Option Bundle) : (s.setBundle n b).awlTurn = s.awlTurn := rfl
@[simp] theorem State.setBundle_sent (n : Nat) (b : Option Bundle) : (s.setBundle n b).sent = s.sent := rfl
@[simp] theorem State.setBundle_teams (n : Nat) (b : Option Bundle) : (s.setBundle n b).teams = s.teams := rfl
@[simp] theorem State.setBundle_launches (n : Nat) (b : Option Bundle) : (s.setBundle n b).launches = s.launches := rfl
@[simp] theorem State.setBundle_spaces (n : Nat) (b : Option Bundle) : (s.setBundle n b).spaces = s.spaces := rfl
@[simp] theorem State.setBundle_tenants (n : Nat) (b : Option Bundle) : (s.setBundle n b).tenants = s.tenants := rfl
@[simp] theorem State.setBundle_partitions (n : Nat) (b : Option Bundle) : (s.setBundle n b).partitions = s.partitions := rfl
@[simp] theorem State.setBundle_ckpts (n : Nat) (b : Option Bundle) : (s.setBundle n b).ckpts = s.ckpts := rfl
@[simp] theorem State.setBundle_windows (n : Nat) (b : Option Bundle) : (s.setBundle n b).windows = s.windows := rfl
@[simp] theorem State.setBundle_xredNext (n : Nat) (b : Option Bundle) : (s.setBundle n b).xredNext = s.xredNext := rfl
@[simp] theorem State.setBundle_rnzid (n : Nat) (b : Option Bundle) : (s.setBundle n b).rnzid = s.rnzid := rfl
@[simp] theorem State.setBundle_portsDown (n : Nat) (b : Option Bundle) : (s.setBundle n b).portsDown = s.portsDown := rfl
@[simp] theorem State.setBundle_boost (n : Nat) (b : Option Bundle) : (s.setBundle n b).boost = s.boost := rfl
@[simp] theorem State.setBundle_occause (n : Nat) (b : Option Bundle) : (s.setBundle n b).occause = s.occause := rfl
@[simp] theorem State.setBundle_girthRate (n : Nat) (b : Option Bundle) : (s.setBundle n b).girthRate = s.girthRate := rfl
@[simp] theorem State.setBundle_filler (n : Nat) (b : Option Bundle) : (s.setBundle n b).filler = s.filler := rfl
@[simp] theorem State.setBundle_coresLeft (n : Nat) (b : Option Bundle) : (s.setBundle n b).coresLeft = s.coresLeft := rfl
@[simp] theorem State.setBundle_boot (n : Nat) (b : Option Bundle) : (s.setBundle n b).boot = s.boot := rfl
@[simp] theorem State.setBundle_flitFault (n : Nat) (b : Option Bundle) : (s.setBundle n b).flitFault = s.flitFault := rfl
@[simp] theorem State.setBundle_idled (n : Nat) (b : Option Bundle) : (s.setBundle n b).idled = s.idled := rfl

/-! ### setPartition -/

@[simp] theorem State.setPartition_agenda (n : Nat) (x : Partition) : (s.setPartition n x).agenda = s.agenda := rfl
@[simp] theorem State.setPartition_inbox (n : Nat) (x : Partition) : (s.setPartition n x).inbox = s.inbox := rfl
@[simp] theorem State.setPartition_notices (n : Nat) (x : Partition) : (s.setPartition n x).notices = s.notices := rfl
@[simp] theorem State.setPartition_cur (n : Nat) (x : Partition) : (s.setPartition n x).cur = s.cur := rfl
@[simp] theorem State.setPartition_nextId (n : Nat) (x : Partition) : (s.setPartition n x).nextId = s.nextId := rfl
@[simp] theorem State.setPartition_free (n : Nat) (x : Partition) : (s.setPartition n x).free = s.free := rfl
@[simp] theorem State.setPartition_hbm (n : Nat) (x : Partition) : (s.setPartition n x).hbm = s.hbm := rfl
@[simp] theorem State.setPartition_hbmPoison (n : Nat) (x : Partition) : (s.setPartition n x).hbmPoison = s.hbmPoison := rfl
@[simp] theorem State.setPartition_fab (n : Nat) (x : Partition) : (s.setPartition n x).fab = s.fab := rfl
@[simp] theorem State.setPartition_fabPoison (n : Nat) (x : Partition) : (s.setPartition n x).fabPoison = s.fabPoison := rfl
@[simp] theorem State.setPartition_hostMem (n : Nat) (x : Partition) : (s.setPartition n x).hostMem = s.hostMem := rfl
@[simp] theorem State.setPartition_peerMem (n : Nat) (x : Partition) : (s.setPartition n x).peerMem = s.peerMem := rfl
@[simp] theorem State.setPartition_lines (n : Nat) (x : Partition) : (s.setPartition n x).lines = s.lines := rfl
@[simp] theorem State.setPartition_tlb (n : Nat) (x : Partition) : (s.setPartition n x).tlb = s.tlb := rfl
@[simp] theorem State.setPartition_codes (n : Nat) (x : Partition) : (s.setPartition n x).codes = s.codes := rfl
@[simp] theorem State.setPartition_flights (n : Nat) (x : Partition) : (s.setPartition n x).flights = s.flights := rfl
@[simp] theorem State.setPartition_ops (n : Nat) (x : Partition) : (s.setPartition n x).ops = s.ops := rfl
@[simp] theorem State.setPartition_awl (n : Nat) (x : Partition) : (s.setPartition n x).awl = s.awl := rfl
@[simp] theorem State.setPartition_awlTurn (n : Nat) (x : Partition) : (s.setPartition n x).awlTurn = s.awlTurn := rfl
@[simp] theorem State.setPartition_sent (n : Nat) (x : Partition) : (s.setPartition n x).sent = s.sent := rfl
@[simp] theorem State.setPartition_teams (n : Nat) (x : Partition) : (s.setPartition n x).teams = s.teams := rfl
@[simp] theorem State.setPartition_launches (n : Nat) (x : Partition) : (s.setPartition n x).launches = s.launches := rfl
@[simp] theorem State.setPartition_spaces (n : Nat) (x : Partition) : (s.setPartition n x).spaces = s.spaces := rfl
@[simp] theorem State.setPartition_tenants (n : Nat) (x : Partition) : (s.setPartition n x).tenants = s.tenants := rfl
@[simp] theorem State.setPartition_cores (n : Nat) (x : Partition) : (s.setPartition n x).cores = s.cores := rfl
@[simp] theorem State.setPartition_ckpts (n : Nat) (x : Partition) : (s.setPartition n x).ckpts = s.ckpts := rfl
@[simp] theorem State.setPartition_windows (n : Nat) (x : Partition) : (s.setPartition n x).windows = s.windows := rfl
@[simp] theorem State.setPartition_xredNext (n : Nat) (x : Partition) : (s.setPartition n x).xredNext = s.xredNext := rfl
@[simp] theorem State.setPartition_rnzid (n : Nat) (x : Partition) : (s.setPartition n x).rnzid = s.rnzid := rfl
@[simp] theorem State.setPartition_portsDown (n : Nat) (x : Partition) : (s.setPartition n x).portsDown = s.portsDown := rfl
@[simp] theorem State.setPartition_boost (n : Nat) (x : Partition) : (s.setPartition n x).boost = s.boost := rfl
@[simp] theorem State.setPartition_occause (n : Nat) (x : Partition) : (s.setPartition n x).occause = s.occause := rfl
@[simp] theorem State.setPartition_girthRate (n : Nat) (x : Partition) : (s.setPartition n x).girthRate = s.girthRate := rfl
@[simp] theorem State.setPartition_filler (n : Nat) (x : Partition) : (s.setPartition n x).filler = s.filler := rfl
@[simp] theorem State.setPartition_coresLeft (n : Nat) (x : Partition) : (s.setPartition n x).coresLeft = s.coresLeft := rfl
@[simp] theorem State.setPartition_boot (n : Nat) (x : Partition) : (s.setPartition n x).boot = s.boot := rfl
@[simp] theorem State.setPartition_flitFault (n : Nat) (x : Partition) : (s.setPartition n x).flitFault = s.flitFault := rfl
@[simp] theorem State.setPartition_idled (n : Nat) (x : Partition) : (s.setPartition n x).idled = s.idled := rfl

/-! ### updPartition -/

@[simp] theorem State.updPartition_agenda (n : Nat) (f : Partition → Partition) : (s.updPartition n f).agenda = s.agenda := rfl
@[simp] theorem State.updPartition_inbox (n : Nat) (f : Partition → Partition) : (s.updPartition n f).inbox = s.inbox := rfl
@[simp] theorem State.updPartition_notices (n : Nat) (f : Partition → Partition) : (s.updPartition n f).notices = s.notices := rfl
@[simp] theorem State.updPartition_cur (n : Nat) (f : Partition → Partition) : (s.updPartition n f).cur = s.cur := rfl
@[simp] theorem State.updPartition_nextId (n : Nat) (f : Partition → Partition) : (s.updPartition n f).nextId = s.nextId := rfl
@[simp] theorem State.updPartition_free (n : Nat) (f : Partition → Partition) : (s.updPartition n f).free = s.free := rfl
@[simp] theorem State.updPartition_hbm (n : Nat) (f : Partition → Partition) : (s.updPartition n f).hbm = s.hbm := rfl
@[simp] theorem State.updPartition_hbmPoison (n : Nat) (f : Partition → Partition) : (s.updPartition n f).hbmPoison = s.hbmPoison := rfl
@[simp] theorem State.updPartition_fab (n : Nat) (f : Partition → Partition) : (s.updPartition n f).fab = s.fab := rfl
@[simp] theorem State.updPartition_fabPoison (n : Nat) (f : Partition → Partition) : (s.updPartition n f).fabPoison = s.fabPoison := rfl
@[simp] theorem State.updPartition_hostMem (n : Nat) (f : Partition → Partition) : (s.updPartition n f).hostMem = s.hostMem := rfl
@[simp] theorem State.updPartition_peerMem (n : Nat) (f : Partition → Partition) : (s.updPartition n f).peerMem = s.peerMem := rfl
@[simp] theorem State.updPartition_lines (n : Nat) (f : Partition → Partition) : (s.updPartition n f).lines = s.lines := rfl
@[simp] theorem State.updPartition_tlb (n : Nat) (f : Partition → Partition) : (s.updPartition n f).tlb = s.tlb := rfl
@[simp] theorem State.updPartition_codes (n : Nat) (f : Partition → Partition) : (s.updPartition n f).codes = s.codes := rfl
@[simp] theorem State.updPartition_flights (n : Nat) (f : Partition → Partition) : (s.updPartition n f).flights = s.flights := rfl
@[simp] theorem State.updPartition_ops (n : Nat) (f : Partition → Partition) : (s.updPartition n f).ops = s.ops := rfl
@[simp] theorem State.updPartition_awl (n : Nat) (f : Partition → Partition) : (s.updPartition n f).awl = s.awl := rfl
@[simp] theorem State.updPartition_awlTurn (n : Nat) (f : Partition → Partition) : (s.updPartition n f).awlTurn = s.awlTurn := rfl
@[simp] theorem State.updPartition_sent (n : Nat) (f : Partition → Partition) : (s.updPartition n f).sent = s.sent := rfl
@[simp] theorem State.updPartition_teams (n : Nat) (f : Partition → Partition) : (s.updPartition n f).teams = s.teams := rfl
@[simp] theorem State.updPartition_launches (n : Nat) (f : Partition → Partition) : (s.updPartition n f).launches = s.launches := rfl
@[simp] theorem State.updPartition_spaces (n : Nat) (f : Partition → Partition) : (s.updPartition n f).spaces = s.spaces := rfl
@[simp] theorem State.updPartition_tenants (n : Nat) (f : Partition → Partition) : (s.updPartition n f).tenants = s.tenants := rfl
@[simp] theorem State.updPartition_cores (n : Nat) (f : Partition → Partition) : (s.updPartition n f).cores = s.cores := rfl
@[simp] theorem State.updPartition_ckpts (n : Nat) (f : Partition → Partition) : (s.updPartition n f).ckpts = s.ckpts := rfl
@[simp] theorem State.updPartition_windows (n : Nat) (f : Partition → Partition) : (s.updPartition n f).windows = s.windows := rfl
@[simp] theorem State.updPartition_xredNext (n : Nat) (f : Partition → Partition) : (s.updPartition n f).xredNext = s.xredNext := rfl
@[simp] theorem State.updPartition_rnzid (n : Nat) (f : Partition → Partition) : (s.updPartition n f).rnzid = s.rnzid := rfl
@[simp] theorem State.updPartition_portsDown (n : Nat) (f : Partition → Partition) : (s.updPartition n f).portsDown = s.portsDown := rfl
@[simp] theorem State.updPartition_boost (n : Nat) (f : Partition → Partition) : (s.updPartition n f).boost = s.boost := rfl
@[simp] theorem State.updPartition_occause (n : Nat) (f : Partition → Partition) : (s.updPartition n f).occause = s.occause := rfl
@[simp] theorem State.updPartition_girthRate (n : Nat) (f : Partition → Partition) : (s.updPartition n f).girthRate = s.girthRate := rfl
@[simp] theorem State.updPartition_filler (n : Nat) (f : Partition → Partition) : (s.updPartition n f).filler = s.filler := rfl
@[simp] theorem State.updPartition_coresLeft (n : Nat) (f : Partition → Partition) : (s.updPartition n f).coresLeft = s.coresLeft := rfl
@[simp] theorem State.updPartition_boot (n : Nat) (f : Partition → Partition) : (s.updPartition n f).boot = s.boot := rfl
@[simp] theorem State.updPartition_flitFault (n : Nat) (f : Partition → Partition) : (s.updPartition n f).flitFault = s.flitFault := rfl
@[simp] theorem State.updPartition_idled (n : Nat) (f : Partition → Partition) : (s.updPartition n f).idled = s.idled := rfl

/-! ### count -/

@[simp] theorem State.count_agenda (p c n : Nat) : (s.count p c n).agenda = s.agenda := rfl
@[simp] theorem State.count_inbox (p c n : Nat) : (s.count p c n).inbox = s.inbox := rfl
@[simp] theorem State.count_notices (p c n : Nat) : (s.count p c n).notices = s.notices := rfl
@[simp] theorem State.count_cur (p c n : Nat) : (s.count p c n).cur = s.cur := rfl
@[simp] theorem State.count_nextId (p c n : Nat) : (s.count p c n).nextId = s.nextId := rfl
@[simp] theorem State.count_free (p c n : Nat) : (s.count p c n).free = s.free := rfl
@[simp] theorem State.count_hbm (p c n : Nat) : (s.count p c n).hbm = s.hbm := rfl
@[simp] theorem State.count_hbmPoison (p c n : Nat) : (s.count p c n).hbmPoison = s.hbmPoison := rfl
@[simp] theorem State.count_fab (p c n : Nat) : (s.count p c n).fab = s.fab := rfl
@[simp] theorem State.count_fabPoison (p c n : Nat) : (s.count p c n).fabPoison = s.fabPoison := rfl
@[simp] theorem State.count_hostMem (p c n : Nat) : (s.count p c n).hostMem = s.hostMem := rfl
@[simp] theorem State.count_peerMem (p c n : Nat) : (s.count p c n).peerMem = s.peerMem := rfl
@[simp] theorem State.count_lines (p c n : Nat) : (s.count p c n).lines = s.lines := rfl
@[simp] theorem State.count_tlb (p c n : Nat) : (s.count p c n).tlb = s.tlb := rfl
@[simp] theorem State.count_codes (p c n : Nat) : (s.count p c n).codes = s.codes := rfl
@[simp] theorem State.count_flights (p c n : Nat) : (s.count p c n).flights = s.flights := rfl
@[simp] theorem State.count_ops (p c n : Nat) : (s.count p c n).ops = s.ops := rfl
@[simp] theorem State.count_awl (p c n : Nat) : (s.count p c n).awl = s.awl := rfl
@[simp] theorem State.count_awlTurn (p c n : Nat) : (s.count p c n).awlTurn = s.awlTurn := rfl
@[simp] theorem State.count_sent (p c n : Nat) : (s.count p c n).sent = s.sent := rfl
@[simp] theorem State.count_teams (p c n : Nat) : (s.count p c n).teams = s.teams := rfl
@[simp] theorem State.count_launches (p c n : Nat) : (s.count p c n).launches = s.launches := rfl
@[simp] theorem State.count_spaces (p c n : Nat) : (s.count p c n).spaces = s.spaces := rfl
@[simp] theorem State.count_tenants (p c n : Nat) : (s.count p c n).tenants = s.tenants := rfl
@[simp] theorem State.count_cores (p c n : Nat) : (s.count p c n).cores = s.cores := rfl
@[simp] theorem State.count_ckpts (p c n : Nat) : (s.count p c n).ckpts = s.ckpts := rfl
@[simp] theorem State.count_windows (p c n : Nat) : (s.count p c n).windows = s.windows := rfl
@[simp] theorem State.count_xredNext (p c n : Nat) : (s.count p c n).xredNext = s.xredNext := rfl
@[simp] theorem State.count_rnzid (p c n : Nat) : (s.count p c n).rnzid = s.rnzid := rfl
@[simp] theorem State.count_portsDown (p c n : Nat) : (s.count p c n).portsDown = s.portsDown := rfl
@[simp] theorem State.count_boost (p c n : Nat) : (s.count p c n).boost = s.boost := rfl
@[simp] theorem State.count_occause (p c n : Nat) : (s.count p c n).occause = s.occause := rfl
@[simp] theorem State.count_girthRate (p c n : Nat) : (s.count p c n).girthRate = s.girthRate := rfl
@[simp] theorem State.count_filler (p c n : Nat) : (s.count p c n).filler = s.filler := rfl
@[simp] theorem State.count_coresLeft (p c n : Nat) : (s.count p c n).coresLeft = s.coresLeft := rfl
@[simp] theorem State.count_boot (p c n : Nat) : (s.count p c n).boot = s.boot := rfl
@[simp] theorem State.count_flitFault (p c n : Nat) : (s.count p c n).flitFault = s.flitFault := rfl
@[simp] theorem State.count_idled (p c n : Nat) : (s.count p c n).idled = s.idled := rfl

/-! ### notice -/

@[simp] theorem State.notice_agenda (n : Notice) : (s.notice n).agenda = s.agenda := rfl
@[simp] theorem State.notice_inbox (n : Notice) : (s.notice n).inbox = s.inbox := rfl
@[simp] theorem State.notice_cur (n : Notice) : (s.notice n).cur = s.cur := rfl
@[simp] theorem State.notice_nextId (n : Notice) : (s.notice n).nextId = s.nextId := rfl
@[simp] theorem State.notice_free (n : Notice) : (s.notice n).free = s.free := rfl
@[simp] theorem State.notice_hbm (n : Notice) : (s.notice n).hbm = s.hbm := rfl
@[simp] theorem State.notice_hbmPoison (n : Notice) : (s.notice n).hbmPoison = s.hbmPoison := rfl
@[simp] theorem State.notice_fab (n : Notice) : (s.notice n).fab = s.fab := rfl
@[simp] theorem State.notice_fabPoison (n : Notice) : (s.notice n).fabPoison = s.fabPoison := rfl
@[simp] theorem State.notice_hostMem (n : Notice) : (s.notice n).hostMem = s.hostMem := rfl
@[simp] theorem State.notice_peerMem (n : Notice) : (s.notice n).peerMem = s.peerMem := rfl
@[simp] theorem State.notice_lines (n : Notice) : (s.notice n).lines = s.lines := rfl
@[simp] theorem State.notice_tlb (n : Notice) : (s.notice n).tlb = s.tlb := rfl
@[simp] theorem State.notice_codes (n : Notice) : (s.notice n).codes = s.codes := rfl
@[simp] theorem State.notice_flights (n : Notice) : (s.notice n).flights = s.flights := rfl
@[simp] theorem State.notice_ops (n : Notice) : (s.notice n).ops = s.ops := rfl
@[simp] theorem State.notice_awl (n : Notice) : (s.notice n).awl = s.awl := rfl
@[simp] theorem State.notice_awlTurn (n : Notice) : (s.notice n).awlTurn = s.awlTurn := rfl
@[simp] theorem State.notice_sent (n : Notice) : (s.notice n).sent = s.sent := rfl
@[simp] theorem State.notice_teams (n : Notice) : (s.notice n).teams = s.teams := rfl
@[simp] theorem State.notice_launches (n : Notice) : (s.notice n).launches = s.launches := rfl
@[simp] theorem State.notice_spaces (n : Notice) : (s.notice n).spaces = s.spaces := rfl
@[simp] theorem State.notice_tenants (n : Notice) : (s.notice n).tenants = s.tenants := rfl
@[simp] theorem State.notice_partitions (n : Notice) : (s.notice n).partitions = s.partitions := rfl
@[simp] theorem State.notice_cores (n : Notice) : (s.notice n).cores = s.cores := rfl
@[simp] theorem State.notice_ckpts (n : Notice) : (s.notice n).ckpts = s.ckpts := rfl
@[simp] theorem State.notice_windows (n : Notice) : (s.notice n).windows = s.windows := rfl
@[simp] theorem State.notice_xredNext (n : Notice) : (s.notice n).xredNext = s.xredNext := rfl
@[simp] theorem State.notice_rnzid (n : Notice) : (s.notice n).rnzid = s.rnzid := rfl
@[simp] theorem State.notice_portsDown (n : Notice) : (s.notice n).portsDown = s.portsDown := rfl
@[simp] theorem State.notice_boost (n : Notice) : (s.notice n).boost = s.boost := rfl
@[simp] theorem State.notice_occause (n : Notice) : (s.notice n).occause = s.occause := rfl
@[simp] theorem State.notice_girthRate (n : Notice) : (s.notice n).girthRate = s.girthRate := rfl
@[simp] theorem State.notice_filler (n : Notice) : (s.notice n).filler = s.filler := rfl
@[simp] theorem State.notice_coresLeft (n : Notice) : (s.notice n).coresLeft = s.coresLeft := rfl
@[simp] theorem State.notice_boot (n : Notice) : (s.notice n).boot = s.boot := rfl
@[simp] theorem State.notice_flitFault (n : Notice) : (s.notice n).flitFault = s.flitFault := rfl
@[simp] theorem State.notice_idled (n : Notice) : (s.notice n).idled = s.idled := rfl

/-! ### addFlight -/

@[simp] theorem State.addFlight_agenda (f : Flight) : (s.addFlight f).agenda = s.agenda := rfl
@[simp] theorem State.addFlight_inbox (f : Flight) : (s.addFlight f).inbox = s.inbox := rfl
@[simp] theorem State.addFlight_notices (f : Flight) : (s.addFlight f).notices = s.notices := rfl
@[simp] theorem State.addFlight_cur (f : Flight) : (s.addFlight f).cur = s.cur := rfl
@[simp] theorem State.addFlight_free (f : Flight) : (s.addFlight f).free = s.free := rfl
@[simp] theorem State.addFlight_hbm (f : Flight) : (s.addFlight f).hbm = s.hbm := rfl
@[simp] theorem State.addFlight_hbmPoison (f : Flight) : (s.addFlight f).hbmPoison = s.hbmPoison := rfl
@[simp] theorem State.addFlight_fab (f : Flight) : (s.addFlight f).fab = s.fab := rfl
@[simp] theorem State.addFlight_fabPoison (f : Flight) : (s.addFlight f).fabPoison = s.fabPoison := rfl
@[simp] theorem State.addFlight_hostMem (f : Flight) : (s.addFlight f).hostMem = s.hostMem := rfl
@[simp] theorem State.addFlight_peerMem (f : Flight) : (s.addFlight f).peerMem = s.peerMem := rfl
@[simp] theorem State.addFlight_lines (f : Flight) : (s.addFlight f).lines = s.lines := rfl
@[simp] theorem State.addFlight_tlb (f : Flight) : (s.addFlight f).tlb = s.tlb := rfl
@[simp] theorem State.addFlight_codes (f : Flight) : (s.addFlight f).codes = s.codes := rfl
@[simp] theorem State.addFlight_ops (f : Flight) : (s.addFlight f).ops = s.ops := rfl
@[simp] theorem State.addFlight_awl (f : Flight) : (s.addFlight f).awl = s.awl := rfl
@[simp] theorem State.addFlight_awlTurn (f : Flight) : (s.addFlight f).awlTurn = s.awlTurn := rfl
@[simp] theorem State.addFlight_sent (f : Flight) : (s.addFlight f).sent = s.sent := rfl
@[simp] theorem State.addFlight_teams (f : Flight) : (s.addFlight f).teams = s.teams := rfl
@[simp] theorem State.addFlight_launches (f : Flight) : (s.addFlight f).launches = s.launches := rfl
@[simp] theorem State.addFlight_spaces (f : Flight) : (s.addFlight f).spaces = s.spaces := rfl
@[simp] theorem State.addFlight_tenants (f : Flight) : (s.addFlight f).tenants = s.tenants := rfl
@[simp] theorem State.addFlight_partitions (f : Flight) : (s.addFlight f).partitions = s.partitions := rfl
@[simp] theorem State.addFlight_cores (f : Flight) : (s.addFlight f).cores = s.cores := rfl
@[simp] theorem State.addFlight_ckpts (f : Flight) : (s.addFlight f).ckpts = s.ckpts := rfl
@[simp] theorem State.addFlight_windows (f : Flight) : (s.addFlight f).windows = s.windows := rfl
@[simp] theorem State.addFlight_xredNext (f : Flight) : (s.addFlight f).xredNext = s.xredNext := rfl
@[simp] theorem State.addFlight_rnzid (f : Flight) : (s.addFlight f).rnzid = s.rnzid := rfl
@[simp] theorem State.addFlight_portsDown (f : Flight) : (s.addFlight f).portsDown = s.portsDown := rfl
@[simp] theorem State.addFlight_boost (f : Flight) : (s.addFlight f).boost = s.boost := rfl
@[simp] theorem State.addFlight_occause (f : Flight) : (s.addFlight f).occause = s.occause := rfl
@[simp] theorem State.addFlight_girthRate (f : Flight) : (s.addFlight f).girthRate = s.girthRate := rfl
@[simp] theorem State.addFlight_filler (f : Flight) : (s.addFlight f).filler = s.filler := rfl
@[simp] theorem State.addFlight_coresLeft (f : Flight) : (s.addFlight f).coresLeft = s.coresLeft := rfl
@[simp] theorem State.addFlight_boot (f : Flight) : (s.addFlight f).boot = s.boot := rfl
@[simp] theorem State.addFlight_flitFault (f : Flight) : (s.addFlight f).flitFault = s.flitFault := rfl
@[simp] theorem State.addFlight_idled (f : Flight) : (s.addFlight f).idled = s.idled := rfl

/-! ### Accessors after an update of another table -/

@[simp] theorem State.launch_setTeam (t : Nat) (x : Team) (k : Nat) : (s.setTeam t x).launch k = s.launch k := rfl
@[simp] theorem State.tenant_setTeam (t : Nat) (x : Team) (k : Nat) : (s.setTeam t x).tenant k = s.tenant k := rfl
@[simp] theorem State.core_setTeam (t : Nat) (x : Team) (k : Nat) : (s.setTeam t x).core k = s.core k := rfl
@[simp] theorem State.partition_setTeam (t : Nat) (x : Team) (k : Nat) : (s.setTeam t x).partition k = s.partition k := rfl
@[simp] theorem State.memByte_setTeam (t : Nat) (x : Team) (o : Loc) : (s.setTeam t x).memByte o = s.memByte o := by cases o <;> rfl
@[simp] theorem State.memPoison_setTeam (t : Nat) (x : Team) (o : Loc) : (s.setTeam t x).memPoison o = s.memPoison o := by cases o <;> rfl
@[simp] theorem State.launch_updTeam (t : Nat) (f : Team → Team) (k : Nat) : (s.updTeam t f).launch k = s.launch k := rfl
@[simp] theorem State.tenant_updTeam (t : Nat) (f : Team → Team) (k : Nat) : (s.updTeam t f).tenant k = s.tenant k := rfl
@[simp] theorem State.core_updTeam (t : Nat) (f : Team → Team) (k : Nat) : (s.updTeam t f).core k = s.core k := rfl
@[simp] theorem State.partition_updTeam (t : Nat) (f : Team → Team) (k : Nat) : (s.updTeam t f).partition k = s.partition k := rfl
@[simp] theorem State.memByte_updTeam (t : Nat) (f : Team → Team) (o : Loc) : (s.updTeam t f).memByte o = s.memByte o := by cases o <;> rfl
@[simp] theorem State.memPoison_updTeam (t : Nat) (f : Team → Team) (o : Loc) : (s.updTeam t f).memPoison o = s.memPoison o := by cases o <;> rfl
@[simp] theorem State.launch_updGroup (t g : Nat) (f : Group → Group) (k : Nat) : (s.updGroup t g f).launch k = s.launch k := rfl
@[simp] theorem State.tenant_updGroup (t g : Nat) (f : Group → Group) (k : Nat) : (s.updGroup t g f).tenant k = s.tenant k := rfl
@[simp] theorem State.core_updGroup (t g : Nat) (f : Group → Group) (k : Nat) : (s.updGroup t g f).core k = s.core k := rfl
@[simp] theorem State.partition_updGroup (t g : Nat) (f : Group → Group) (k : Nat) : (s.updGroup t g f).partition k = s.partition k := rfl
@[simp] theorem State.memByte_updGroup (t g : Nat) (f : Group → Group) (o : Loc) : (s.updGroup t g f).memByte o = s.memByte o := by cases o <;> rfl
@[simp] theorem State.memPoison_updGroup (t g : Nat) (f : Group → Group) (o : Loc) : (s.updGroup t g f).memPoison o = s.memPoison o := by cases o <;> rfl
@[simp] theorem State.launch_updThread (t g l : Nat) (f : Thread → Thread) (k : Nat) : (s.updThread t g l f).launch k = s.launch k := rfl
@[simp] theorem State.tenant_updThread (t g l : Nat) (f : Thread → Thread) (k : Nat) : (s.updThread t g l f).tenant k = s.tenant k := rfl
@[simp] theorem State.core_updThread (t g l : Nat) (f : Thread → Thread) (k : Nat) : (s.updThread t g l f).core k = s.core k := rfl
@[simp] theorem State.partition_updThread (t g l : Nat) (f : Thread → Thread) (k : Nat) : (s.updThread t g l f).partition k = s.partition k := rfl
@[simp] theorem State.memByte_updThread (t g l : Nat) (f : Thread → Thread) (o : Loc) : (s.updThread t g l f).memByte o = s.memByte o := by cases o <;> rfl
@[simp] theorem State.memPoison_updThread (t g l : Nat) (f : Thread → Thread) (o : Loc) : (s.updThread t g l f).memPoison o = s.memPoison o := by cases o <;> rfl
@[simp] theorem State.team_setLaunch (n : Nat) (x : Launch) (k : Nat) : (s.setLaunch n x).team k = s.team k := rfl
@[simp] theorem State.tenant_setLaunch (n : Nat) (x : Launch) (k : Nat) : (s.setLaunch n x).tenant k = s.tenant k := rfl
@[simp] theorem State.core_setLaunch (n : Nat) (x : Launch) (k : Nat) : (s.setLaunch n x).core k = s.core k := rfl
@[simp] theorem State.partition_setLaunch (n : Nat) (x : Launch) (k : Nat) : (s.setLaunch n x).partition k = s.partition k := rfl
@[simp] theorem State.group_setLaunch (n : Nat) (x : Launch) (u v : Nat) : (s.setLaunch n x).group u v = s.group u v := rfl
@[simp] theorem State.thread_setLaunch (n : Nat) (x : Launch) (u v w : Nat) : (s.setLaunch n x).thread u v w = s.thread u v w := rfl
@[simp] theorem State.memByte_setLaunch (n : Nat) (x : Launch) (o : Loc) : (s.setLaunch n x).memByte o = s.memByte o := by cases o <;> rfl
@[simp] theorem State.memPoison_setLaunch (n : Nat) (x : Launch) (o : Loc) : (s.setLaunch n x).memPoison o = s.memPoison o := by cases o <;> rfl
@[simp] theorem State.team_updLaunch (n : Nat) (f : Launch → Launch) (k : Nat) : (s.updLaunch n f).team k = s.team k := rfl
@[simp] theorem State.tenant_updLaunch (n : Nat) (f : Launch → Launch) (k : Nat) : (s.updLaunch n f).tenant k = s.tenant k := rfl
@[simp] theorem State.core_updLaunch (n : Nat) (f : Launch → Launch) (k : Nat) : (s.updLaunch n f).core k = s.core k := rfl
@[simp] theorem State.partition_updLaunch (n : Nat) (f : Launch → Launch) (k : Nat) : (s.updLaunch n f).partition k = s.partition k := rfl
@[simp] theorem State.group_updLaunch (n : Nat) (f : Launch → Launch) (u v : Nat) : (s.updLaunch n f).group u v = s.group u v := rfl
@[simp] theorem State.thread_updLaunch (n : Nat) (f : Launch → Launch) (u v w : Nat) : (s.updLaunch n f).thread u v w = s.thread u v w := rfl
@[simp] theorem State.memByte_updLaunch (n : Nat) (f : Launch → Launch) (o : Loc) : (s.updLaunch n f).memByte o = s.memByte o := by cases o <;> rfl
@[simp] theorem State.memPoison_updLaunch (n : Nat) (f : Launch → Launch) (o : Loc) : (s.updLaunch n f).memPoison o = s.memPoison o := by cases o <;> rfl
@[simp] theorem State.team_setTenant (n : Nat) (x : Tenant) (k : Nat) : (s.setTenant n x).team k = s.team k := rfl
@[simp] theorem State.launch_setTenant (n : Nat) (x : Tenant) (k : Nat) : (s.setTenant n x).launch k = s.launch k := rfl
@[simp] theorem State.core_setTenant (n : Nat) (x : Tenant) (k : Nat) : (s.setTenant n x).core k = s.core k := rfl
@[simp] theorem State.partition_setTenant (n : Nat) (x : Tenant) (k : Nat) : (s.setTenant n x).partition k = s.partition k := rfl
@[simp] theorem State.group_setTenant (n : Nat) (x : Tenant) (u v : Nat) : (s.setTenant n x).group u v = s.group u v := rfl
@[simp] theorem State.thread_setTenant (n : Nat) (x : Tenant) (u v w : Nat) : (s.setTenant n x).thread u v w = s.thread u v w := rfl
@[simp] theorem State.lpbOf_setTenant (n : Nat) (x : Tenant) (a : Nat) : (s.setTenant n x).lpbOf a = s.lpbOf a := rfl
@[simp] theorem State.memByte_setTenant (n : Nat) (x : Tenant) (o : Loc) : (s.setTenant n x).memByte o = s.memByte o := by cases o <;> rfl
@[simp] theorem State.memPoison_setTenant (n : Nat) (x : Tenant) (o : Loc) : (s.setTenant n x).memPoison o = s.memPoison o := by cases o <;> rfl
@[simp] theorem State.team_updTenant (n : Nat) (f : Tenant → Tenant) (k : Nat) : (s.updTenant n f).team k = s.team k := rfl
@[simp] theorem State.launch_updTenant (n : Nat) (f : Tenant → Tenant) (k : Nat) : (s.updTenant n f).launch k = s.launch k := rfl
@[simp] theorem State.core_updTenant (n : Nat) (f : Tenant → Tenant) (k : Nat) : (s.updTenant n f).core k = s.core k := rfl
@[simp] theorem State.partition_updTenant (n : Nat) (f : Tenant → Tenant) (k : Nat) : (s.updTenant n f).partition k = s.partition k := rfl
@[simp] theorem State.group_updTenant (n : Nat) (f : Tenant → Tenant) (u v : Nat) : (s.updTenant n f).group u v = s.group u v := rfl
@[simp] theorem State.thread_updTenant (n : Nat) (f : Tenant → Tenant) (u v w : Nat) : (s.updTenant n f).thread u v w = s.thread u v w := rfl
@[simp] theorem State.lpbOf_updTenant (n : Nat) (f : Tenant → Tenant) (a : Nat) : (s.updTenant n f).lpbOf a = s.lpbOf a := rfl
@[simp] theorem State.memByte_updTenant (n : Nat) (f : Tenant → Tenant) (o : Loc) : (s.updTenant n f).memByte o = s.memByte o := by cases o <;> rfl
@[simp] theorem State.memPoison_updTenant (n : Nat) (f : Tenant → Tenant) (o : Loc) : (s.updTenant n f).memPoison o = s.memPoison o := by cases o <;> rfl
@[simp] theorem State.team_setCore (n : Nat) (x : Core) (k : Nat) : (s.setCore n x).team k = s.team k := rfl
@[simp] theorem State.launch_setCore (n : Nat) (x : Core) (k : Nat) : (s.setCore n x).launch k = s.launch k := rfl
@[simp] theorem State.tenant_setCore (n : Nat) (x : Core) (k : Nat) : (s.setCore n x).tenant k = s.tenant k := rfl
@[simp] theorem State.partition_setCore (n : Nat) (x : Core) (k : Nat) : (s.setCore n x).partition k = s.partition k := rfl
@[simp] theorem State.group_setCore (n : Nat) (x : Core) (u v : Nat) : (s.setCore n x).group u v = s.group u v := rfl
@[simp] theorem State.thread_setCore (n : Nat) (x : Core) (u v w : Nat) : (s.setCore n x).thread u v w = s.thread u v w := rfl
@[simp] theorem State.lpbOf_setCore (n : Nat) (x : Core) (a : Nat) : (s.setCore n x).lpbOf a = s.lpbOf a := rfl
@[simp] theorem State.memByte_setCore (n : Nat) (x : Core) (o : Loc) : (s.setCore n x).memByte o = s.memByte o := by cases o <;> rfl
@[simp] theorem State.memPoison_setCore (n : Nat) (x : Core) (o : Loc) : (s.setCore n x).memPoison o = s.memPoison o := by cases o <;> rfl
@[simp] theorem State.team_updCore (n : Nat) (f : Core → Core) (k : Nat) : (s.updCore n f).team k = s.team k := rfl
@[simp] theorem State.launch_updCore (n : Nat) (f : Core → Core) (k : Nat) : (s.updCore n f).launch k = s.launch k := rfl
@[simp] theorem State.tenant_updCore (n : Nat) (f : Core → Core) (k : Nat) : (s.updCore n f).tenant k = s.tenant k := rfl
@[simp] theorem State.partition_updCore (n : Nat) (f : Core → Core) (k : Nat) : (s.updCore n f).partition k = s.partition k := rfl
@[simp] theorem State.group_updCore (n : Nat) (f : Core → Core) (u v : Nat) : (s.updCore n f).group u v = s.group u v := rfl
@[simp] theorem State.thread_updCore (n : Nat) (f : Core → Core) (u v w : Nat) : (s.updCore n f).thread u v w = s.thread u v w := rfl
@[simp] theorem State.lpbOf_updCore (n : Nat) (f : Core → Core) (a : Nat) : (s.updCore n f).lpbOf a = s.lpbOf a := rfl
@[simp] theorem State.memByte_updCore (n : Nat) (f : Core → Core) (o : Loc) : (s.updCore n f).memByte o = s.memByte o := by cases o <;> rfl
@[simp] theorem State.memPoison_updCore (n : Nat) (f : Core → Core) (o : Loc) : (s.updCore n f).memPoison o = s.memPoison o := by cases o <;> rfl
@[simp] theorem State.team_setBundle (n : Nat) (b : Option Bundle) (k : Nat) : (s.setBundle n b).team k = s.team k := rfl
@[simp] theorem State.launch_setBundle (n : Nat) (b : Option Bundle) (k : Nat) : (s.setBundle n b).launch k = s.launch k := rfl
@[simp] theorem State.tenant_setBundle (n : Nat) (b : Option Bundle) (k : Nat) : (s.setBundle n b).tenant k = s.tenant k := rfl
@[simp] theorem State.partition_setBundle (n : Nat) (b : Option Bundle) (k : Nat) : (s.setBundle n b).partition k = s.partition k := rfl
@[simp] theorem State.group_setBundle (n : Nat) (b : Option Bundle) (u v : Nat) : (s.setBundle n b).group u v = s.group u v := rfl
@[simp] theorem State.thread_setBundle (n : Nat) (b : Option Bundle) (u v w : Nat) : (s.setBundle n b).thread u v w = s.thread u v w := rfl
@[simp] theorem State.lpbOf_setBundle (n : Nat) (b : Option Bundle) (a : Nat) : (s.setBundle n b).lpbOf a = s.lpbOf a := rfl
@[simp] theorem State.memByte_setBundle (n : Nat) (b : Option Bundle) (o : Loc) : (s.setBundle n b).memByte o = s.memByte o := by cases o <;> rfl
@[simp] theorem State.memPoison_setBundle (n : Nat) (b : Option Bundle) (o : Loc) : (s.setBundle n b).memPoison o = s.memPoison o := by cases o <;> rfl
@[simp] theorem State.team_setPartition (n : Nat) (x : Partition) (k : Nat) : (s.setPartition n x).team k = s.team k := rfl
@[simp] theorem State.launch_setPartition (n : Nat) (x : Partition) (k : Nat) : (s.setPartition n x).launch k = s.launch k := rfl
@[simp] theorem State.tenant_setPartition (n : Nat) (x : Partition) (k : Nat) : (s.setPartition n x).tenant k = s.tenant k := rfl
@[simp] theorem State.core_setPartition (n : Nat) (x : Partition) (k : Nat) : (s.setPartition n x).core k = s.core k := rfl
@[simp] theorem State.group_setPartition (n : Nat) (x : Partition) (u v : Nat) : (s.setPartition n x).group u v = s.group u v := rfl
@[simp] theorem State.thread_setPartition (n : Nat) (x : Partition) (u v w : Nat) : (s.setPartition n x).thread u v w = s.thread u v w := rfl
@[simp] theorem State.lpbOf_setPartition (n : Nat) (x : Partition) (a : Nat) : (s.setPartition n x).lpbOf a = s.lpbOf a := rfl
@[simp] theorem State.memByte_setPartition (n : Nat) (x : Partition) (o : Loc) : (s.setPartition n x).memByte o = s.memByte o := by cases o <;> rfl
@[simp] theorem State.memPoison_setPartition (n : Nat) (x : Partition) (o : Loc) : (s.setPartition n x).memPoison o = s.memPoison o := by cases o <;> rfl
@[simp] theorem State.team_updPartition (n : Nat) (f : Partition → Partition) (k : Nat) : (s.updPartition n f).team k = s.team k := rfl
@[simp] theorem State.launch_updPartition (n : Nat) (f : Partition → Partition) (k : Nat) : (s.updPartition n f).launch k = s.launch k := rfl
@[simp] theorem State.tenant_updPartition (n : Nat) (f : Partition → Partition) (k : Nat) : (s.updPartition n f).tenant k = s.tenant k := rfl
@[simp] theorem State.core_updPartition (n : Nat) (f : Partition → Partition) (k : Nat) : (s.updPartition n f).core k = s.core k := rfl
@[simp] theorem State.group_updPartition (n : Nat) (f : Partition → Partition) (u v : Nat) : (s.updPartition n f).group u v = s.group u v := rfl
@[simp] theorem State.thread_updPartition (n : Nat) (f : Partition → Partition) (u v w : Nat) : (s.updPartition n f).thread u v w = s.thread u v w := rfl
@[simp] theorem State.lpbOf_updPartition (n : Nat) (f : Partition → Partition) (a : Nat) : (s.updPartition n f).lpbOf a = s.lpbOf a := rfl
@[simp] theorem State.memByte_updPartition (n : Nat) (f : Partition → Partition) (o : Loc) : (s.updPartition n f).memByte o = s.memByte o := by cases o <;> rfl
@[simp] theorem State.memPoison_updPartition (n : Nat) (f : Partition → Partition) (o : Loc) : (s.updPartition n f).memPoison o = s.memPoison o := by cases o <;> rfl
@[simp] theorem State.team_count (p c n : Nat) (k : Nat) : (s.count p c n).team k = s.team k := rfl
@[simp] theorem State.launch_count (p c n : Nat) (k : Nat) : (s.count p c n).launch k = s.launch k := rfl
@[simp] theorem State.tenant_count (p c n : Nat) (k : Nat) : (s.count p c n).tenant k = s.tenant k := rfl
@[simp] theorem State.core_count (p c n : Nat) (k : Nat) : (s.count p c n).core k = s.core k := rfl
@[simp] theorem State.group_count (p c n : Nat) (u v : Nat) : (s.count p c n).group u v = s.group u v := rfl
@[simp] theorem State.thread_count (p c n : Nat) (u v w : Nat) : (s.count p c n).thread u v w = s.thread u v w := rfl
@[simp] theorem State.lpbOf_count (p c n : Nat) (a : Nat) : (s.count p c n).lpbOf a = s.lpbOf a := rfl
@[simp] theorem State.memByte_count (p c n : Nat) (o : Loc) : (s.count p c n).memByte o = s.memByte o := by cases o <;> rfl
@[simp] theorem State.memPoison_count (p c n : Nat) (o : Loc) : (s.count p c n).memPoison o = s.memPoison o := by cases o <;> rfl
@[simp] theorem State.team_notice (n : Notice) (k : Nat) : (s.notice n).team k = s.team k := rfl
@[simp] theorem State.launch_notice (n : Notice) (k : Nat) : (s.notice n).launch k = s.launch k := rfl
@[simp] theorem State.tenant_notice (n : Notice) (k : Nat) : (s.notice n).tenant k = s.tenant k := rfl
@[simp] theorem State.core_notice (n : Notice) (k : Nat) : (s.notice n).core k = s.core k := rfl
@[simp] theorem State.partition_notice (n : Notice) (k : Nat) : (s.notice n).partition k = s.partition k := rfl
@[simp] theorem State.group_notice (n : Notice) (u v : Nat) : (s.notice n).group u v = s.group u v := rfl
@[simp] theorem State.thread_notice (n : Notice) (u v w : Nat) : (s.notice n).thread u v w = s.thread u v w := rfl
@[simp] theorem State.lpbOf_notice (n : Notice) (a : Nat) : (s.notice n).lpbOf a = s.lpbOf a := rfl
@[simp] theorem State.memByte_notice (n : Notice) (o : Loc) : (s.notice n).memByte o = s.memByte o := by cases o <;> rfl
@[simp] theorem State.memPoison_notice (n : Notice) (o : Loc) : (s.notice n).memPoison o = s.memPoison o := by cases o <;> rfl
@[simp] theorem State.team_addFlight (f : Flight) (k : Nat) : (s.addFlight f).team k = s.team k := rfl
@[simp] theorem State.launch_addFlight (f : Flight) (k : Nat) : (s.addFlight f).launch k = s.launch k := rfl
@[simp] theorem State.tenant_addFlight (f : Flight) (k : Nat) : (s.addFlight f).tenant k = s.tenant k := rfl
@[simp] theorem State.core_addFlight (f : Flight) (k : Nat) : (s.addFlight f).core k = s.core k := rfl
@[simp] theorem State.partition_addFlight (f : Flight) (k : Nat) : (s.addFlight f).partition k = s.partition k := rfl
@[simp] theorem State.group_addFlight (f : Flight) (u v : Nat) : (s.addFlight f).group u v = s.group u v := rfl
@[simp] theorem State.thread_addFlight (f : Flight) (u v w : Nat) : (s.addFlight f).thread u v w = s.thread u v w := rfl
@[simp] theorem State.lpbOf_addFlight (f : Flight) (a : Nat) : (s.addFlight f).lpbOf a = s.lpbOf a := rfl
@[simp] theorem State.memByte_addFlight (f : Flight) (o : Loc) : (s.addFlight f).memByte o = s.memByte o := by cases o <;> rfl
@[simp] theorem State.memPoison_addFlight (f : Flight) (o : Loc) : (s.addFlight f).memPoison o = s.memPoison o := by cases o <;> rfl

/-! ### Accessors after an update of their own table -/

@[simp] theorem State.team_setTeam (t : Nat) (x : Team) (k : Nat) :
    (s.setTeam t x).team k = if t = k then x else s.team k := Sparse.get_put _ _ _ _ _

@[simp] theorem State.launch_setLaunch (n : Nat) (x : Launch) (k : Nat) :
    (s.setLaunch n x).launch k = if n = k then x else s.launch k := Sparse.get_put _ _ _ _ _

@[simp] theorem State.tenant_setTenant (n : Nat) (x : Tenant) (k : Nat) :
    (s.setTenant n x).tenant k = if n = k then x else s.tenant k := Sparse.get_put _ _ _ _ _

@[simp] theorem State.core_setCore (n : Nat) (x : Core) (k : Nat) :
    (s.setCore n x).core k = if n = k then x else s.core k := Sparse.get_put _ _ _ _ _

@[simp] theorem State.partition_setPartition (n : Nat) (x : Partition) (k : Nat) :
    (s.setPartition n x).partition k = if n = k then x else s.partition k := Sparse.get_put _ _ _ _ _

theorem ite_keep {β : Type} {n k : Nat} (a : Nat → β) (f : β → β) :
    (if n = k then f (a n) else a k) = if n = k then f (a k) else a k := by
  split
  · rename_i h; rw [h]
  · rfl

@[simp] theorem State.team_updTeam (t : Nat) (f : Team → Team) (k : Nat) :
    (s.updTeam t f).team k = if t = k then f (s.team k) else s.team k := by
  rw [State.updTeam, State.team_setTeam]; exact ite_keep s.team f

@[simp] theorem State.launch_updLaunch (n : Nat) (f : Launch → Launch) (k : Nat) :
    (s.updLaunch n f).launch k = if n = k then f (s.launch k) else s.launch k := by
  rw [State.updLaunch, State.launch_setLaunch]; exact ite_keep s.launch f

@[simp] theorem State.tenant_updTenant (n : Nat) (f : Tenant → Tenant) (k : Nat) :
    (s.updTenant n f).tenant k = if n = k then f (s.tenant k) else s.tenant k := by
  rw [State.updTenant, State.tenant_setTenant]; exact ite_keep s.tenant f

@[simp] theorem State.core_updCore (n : Nat) (f : Core → Core) (k : Nat) :
    (s.updCore n f).core k = if n = k then f (s.core k) else s.core k := by
  rw [State.updCore, State.core_setCore]; exact ite_keep s.core f

@[simp] theorem State.core_setBundle (n : Nat) (b : Option Bundle) (k : Nat) :
    (s.setBundle n b).core k = if n = k then { s.core k with bundle := b } else s.core k :=
  State.core_updCore s n _ k

@[simp] theorem State.partition_updPartition (n : Nat) (f : Partition → Partition) (k : Nat) :
    (s.updPartition n f).partition k = if n = k then f (s.partition k) else s.partition k := by
  rw [State.updPartition, State.partition_setPartition]; exact ite_keep s.partition f

@[simp] theorem Team.group_setGroup (x : Team) (g : Nat) (y : Group) (k : Nat) :
    (x.setGroup g y).group k = if g = k then y else x.group k := Sparse.get_put _ _ _ _ _

@[simp] theorem Group.thread_setThread (x : Group) (l : Nat) (y : Thread) (k : Nat) :
    (x.setThread l y).thread k = if l = k then y else x.thread k := Sparse.get_put _ _ _ _ _

/-- The groups of one team, one of them changed. -/
@[simp] theorem State.group_updGroup (t g : Nat) (f : Group → Group) (t' g' : Nat) :
    (s.updGroup t g f).group t' g' = if t = t' ∧ g = g' then f (s.group t' g') else s.group t' g' := by
  simp only [State.group, State.updGroup, State.team_setTeam]
  by_cases ht : t = t'
  · subst ht
    simp only [if_true, Team.group_setGroup, true_and]
    exact ite_keep (fun k => (s.team t).group k) f
  · simp [ht]

/-- The threads, one of them changed. -/
@[simp] theorem State.thread_updThread (t g l : Nat) (f : Thread → Thread) (t' g' l' : Nat) :
    (s.updThread t g l f).thread t' g' l' =
      if t = t' ∧ g = g' ∧ l = l' then f (s.thread t' g' l') else s.thread t' g' l' := by
  simp only [State.thread, State.updThread, State.group_updGroup]
  by_cases h : t = t' ∧ g = g'
  · obtain ⟨rfl, rfl⟩ := h
    simp only [and_self, if_true, Group.thread_setThread, true_and]
    exact ite_keep (fun k => (s.group t g).thread k) f
  · have h2 : ¬(t = t' ∧ g = g' ∧ l = l') := fun h3 => h ⟨h3.1, h3.2.1⟩
    rw [if_neg h, if_neg h2]

/-- A change of a thread leaves its group but for its threads. -/
theorem State.group_updThread (t g l : Nat) (f : Thread → Thread) (t' g' : Nat) :
    (s.updThread t g l f).group t' g' =
      if t = t' ∧ g = g' then (s.group t' g').setThread l (f (s.thread t' g' l)) else s.group t' g' :=
  State.group_updGroup s t g _ t' g'

/-- A team but for its groups. -/
theorem State.team_updGroup (t g : Nat) (f : Group → Group) (k : Nat) :
    (s.updGroup t g f).team k = if t = k then (s.team k).setGroup g (f (s.group k g)) else s.team k := by
  simp only [State.updGroup, State.team_setTeam]; split
  · rename_i h; rw [h]
  · rfl

theorem State.team_updThread (t g l : Nat) (f : Thread → Thread) (k : Nat) :
    (s.updThread t g l f).team k =
      if t = k then (s.team k).setGroup g ((s.group k g).setThread l (f (s.thread k g l))) else s.team k :=
  State.team_updGroup s t g _ k

/-- The launch block of a team does not depend on its groups. -/
@[simp] theorem State.lpbOf_updGroup (t g : Nat) (f : Group → Group) (k : Nat) : (s.updGroup t g f).lpbOf k = s.lpbOf k := by
  simp only [State.lpbOf, State.launchOf, State.team_updGroup]; split <;> rfl

@[simp] theorem State.lpbOf_updThread (t g l : Nat) (f : Thread → Thread) (k : Nat) :
    (s.updThread t g l f).lpbOf k = s.lpbOf k := State.lpbOf_updGroup s t g _ k

/-! ### Register words (R62, R81) -/

@[simp] theorem Group.sGet_zero (g : Group) : g.sGet 0 = 0 := rfl

theorem Group.sGet_sSet (g : Group) (n k : Nat) (w : Word) :
    (g.sSet n w).sGet k = if n = k ∧ k ≠ 0 then w else g.sGet k := by
  unfold Group.sSet Group.sGet
  by_cases hk : k = 0
  · simp [hk]
  · by_cases hn : n = 0
    · subst hn; simp [Ne.symm hk]
    · simp only [hn, hk, if_false, Sparse.get_put, ne_eq, not_false_eq_true, and_true]

@[simp] theorem Thread.vGet_vSet (x : Thread) (n k : Nat) (w : Word) :
    (x.vSet n w).vGet k = if n = k then w else x.vGet k := Sparse.get_put _ _ _ _ _

/-- A latch after a write of one (R175). -/
theorem Latches.get_write (y : Latches) (n k : Nat) (w : Word) :
    (y.write n w).val.get 0 k = if n = k then w else y.val.get 0 k := Sparse.get_put _ _ _ _ _

theorem Latches.valid_write (y : Latches) (n k : Nat) (w : Word) :
    NatSet.has (y.write n w).valid k = if n = k then true else NatSet.has y.valid k :=
  NatSet.has_set y.valid n k true

end Sys2Proof.Machine
end

