-- ==== Sys2Proof/Laws/Ops.lean ====
section
/-! SUPPORT. One law per shared operation of a core: what running a word does when nothing stops it, when a check fails, and while
it waits; what settling and advancing do; what a fold over the threads of a bundle does. -/

namespace Sys2Proof.Machine

variable (s : State)

/-! ### Folds over the threads of a bundle -/

/-- Changing each thread of a list of distinct threads once. -/
theorem State.thread_foldl_updThread (t : Nat) (ms : List Member) (F : Member → Thread → Thread) (h : ms.Nodup) (u g l : Nat) :
    (ms.foldl (fun r m => r.updThread t m.1 m.2 (F m)) s).thread u g l =
      if t = u ∧ (g, l) ∈ ms then F (g, l) (s.thread u g l) else s.thread u g l := by
  induction ms generalizing s with
  | nil => simp
  | cons m ms ih =>
    obtain ⟨hm, h⟩ := List.nodup_cons.mp h
    rw [List.foldl_cons, ih _ h, State.thread_updThread]
    by_cases hu : t = u
    · subst hu
      by_cases hml : m = (g, l)
      · subst hml; simp [hm]
      · have : ¬(m.1 = g ∧ m.2 = l) := fun hc => hml (Prod.ext hc.1 hc.2)
        simp [this, Ne.symm hml]
    · simp [hu]

/-- Such a fold, where what is changed does not depend on the thread's place. -/
theorem State.foldl_updThread_machine (t : Nat) (ms : List Member) (F : Member → Thread → Thread) :
    ms.foldl (fun r m => r.updThread t m.1 m.2 (F m)) s =
      { s with teams := (ms.foldl (fun r m => r.updThread t m.1 m.2 (F m)) s).teams } := by
  induction ms generalizing s with
  | nil => rfl
  | cons m ms ih => rw [List.foldl_cons, ih]; rfl

theorem State.group_foldl_updThread (t : Nat) (ms : List Member) (F : Member → Thread → Thread) (u g : Nat) :
    ((ms.foldl (fun r m => r.updThread t m.1 m.2 (F m)) s).group u g).bare = (s.group u g).bare := by
  induction ms generalizing s with
  | nil => rfl
  | cons m ms ih =>
    rw [List.foldl_cons, ih, State.group_updThread]; split <;> rfl

theorem State.team_foldl_updThread (t : Nat) (ms : List Member) (F : Member → Thread → Thread) (k : Nat) :
    ((ms.foldl (fun r m => r.updThread t m.1 m.2 (F m)) s).team k).bare = (s.team k).bare := by
  induction ms generalizing s with
  | nil => rfl
  | cons m ms ih => rw [List.foldl_cons, ih, State.team_updThread]; split <;> rfl

theorem State.team_foldl_updThread_ne (t : Nat) (ms : List Member) (F : Member → Thread → Thread) {k : Nat} (h : t ≠ k) :
    (ms.foldl (fun r m => r.updThread t m.1 m.2 (F m)) s).team k = s.team k := by
  induction ms generalizing s with
  | nil => rfl
  | cons m ms ih => rw [List.foldl_cons, ih, State.team_updThread, if_neg h]

/-! ### Running a word -/

/-- A word without a bundle. -/
theorem runWord_noBundle (i : Instr) (body : Ctx → State → Res) (h : (s.core s.cur).bundle = none) :
    runWord i s body = .refused .noBundle := by rw [runWord, h]

/-- No thread of a bundle waits for an answer: the bundle is not held, none of its threads stands aside, and all go on. -/
theorem State.free_bundle (b : Bundle) (hne : b.members ≠ [])
    (h : ∀ m ∈ b.members, s.remoteWait b.team m = false ∧ s.wordWait b.team m = false) :
    s.allHeld b = false ∧ s.standAside b = s ∧ s.goingOn b = b := by
  have held : s.heldThreads b = [] := by
    rw [State.heldThreads, List.filter_eq_nil_iff]; intro m hm; simp [(h m hm).1]
  have going : b.members.filter (fun m => !s.remoteWait b.team m) = b.members := by
    rw [List.filter_eq_self]; intro m hm; simp [(h m hm).1]
  refine ⟨?_, by rw [State.standAside, held]; rfl, by rw [State.goingOn, going]⟩
  obtain ⟨m, hm⟩ := List.exists_mem_of_ne_nil _ hne
  rw [State.allHeld, Bool.or_eq_false_iff, List.any_eq_false, List.all_eq_false]
  exact ⟨fun m hm => by simp [(h m hm).2], m, hm, by simp [(h m hm).1]⟩

/-- Such a bundle runs its word whole. -/
theorem State.runIn_free (core : Nat) (b : Bundle) (i : Instr) (body : Ctx → State → Res) (hne : b.members ≠ [])
    (h : ∀ m ∈ b.members, s.remoteWait b.team m = false ∧ s.wordWait b.team m = false) :
    s.runIn core b i body = s.runFree core b i body := by
  obtain ⟨ha, hs, hg⟩ := s.free_bundle b hne h
  rw [State.runIn, ha, hs, hg]; rfl

/-- A word issues (R284): its effect, then settling. -/
theorem runWord_issues (b : Bundle) (i : Instr) (body : Ctx → State → Res) (h : Issues s b i) :
    runWord i s body = .next (settle s.cur i.len b (body (s.ctx b i) (s.issued b))) := by
  have hts : b.members.filterMap (fun m => (s.ownCause b.team (useOf (s.lpbOf b.team).w i) m).map
      (fun k => (⟨m, k, 0, 0⟩ : TrapAt))) = [] := by
    rw [List.filterMap_eq_nil_iff]; intro m hm; rw [h.clean m hm]; rfl
  have hw : ∀ c : Bundle, c.without [] = c := fun c => by simp [Bundle.without]
  have hne : b.members.isEmpty = false := by
    cases hb : b.members with
    | nil => exact absurd hb h.some
    | cons _ _ => rfl
  have hc := h.checks
  simp only [State.anyTrapped] at hc
  rw [runWord, h.bundle]
  simp only [s.runIn_free s.cur b i body h.some h.answered, State.runFree, hc, h.free, hts, hw, hne, State.takeAll, List.foldl_nil,
    Bool.false_eq_true, if_false]
  rfl

/-- A word whose common check fails traps in every thread (R284 orders 1 to 4). -/
theorem runWord_checkFails (b : Bundle) (i : Instr) (body : Ctx → State → Res) (k : Cause)
    (hb : (s.core s.cur).bundle = some b) (hne : b.members ≠ [])
    (hr : ∀ m ∈ b.members, s.remoteWait b.team m = false ∧ s.wordWait b.team m = false)
    (hk : (useOf (s.lpbOf b.team).w i).cause b i.len (s.lpbOf b.team) (s.core s.cur).feat (s.anyTrapped b) i.wf = some k) :
    runWord i s body = .next (settle s.cur i.len b { s := s, traps := b.members.map (fun m => ⟨m, k, 0, 0⟩) }) := by
  simp only [State.anyTrapped] at hk
  rw [runWord, hb]
  simp only [s.runIn_free s.cur b i body hne hr, State.runFree, hk]

/-- A word that has to wait at issue changes nothing but that its bundle waits (R267, R396). -/
theorem runWord_waits (b : Bundle) (i : Instr) (body : Ctx → State → Res) (hb : (s.core s.cur).bundle = some b)
    (h : s.allHeld b = true ∨
      (b.members ≠ [] ∧ (∀ m ∈ b.members, s.remoteWait b.team m = false ∧ s.wordWait b.team m = false) ∧
        (useOf (s.lpbOf b.team).w i).cause b i.len (s.lpbOf b.team) (s.core s.cur).feat (s.anyTrapped b) i.wf = none ∧
        s.waits b (useOf (s.lpbOf b.team).w i) = true)) :
    runWord i s body = .next (s.setBundle s.cur (some { b with stalled := true })) := by
  rw [runWord, hb]
  rcases h with h | ⟨hne, hr, hc, hw⟩
  · simp only [State.runIn, h, if_true]
  · simp only [State.anyTrapped] at hc
    simp only [s.runIn_free s.cur b i body hne hr, State.runFree, hc, hw, if_true]

/-! ### Settling -/

/-- A word that goes on without a trap: WORDS counts it and the bundle advances. -/
theorem settle_done (core len : Nat) (b : Bundle) (t : State) (hne : b.members ≠ [])
    (hb : (t.core core).bundle = some { b with stalled := false }) :
    settle core len b (done t) = (t.count (partOf (clusterOf core)) 2 1).advance core { b with stalled := false } len := by
  have hw : ∀ c : Bundle, c.without [] = c := fun c => by simp [Bundle.without]
  have hf : b.members.filter (fun m => b.members.contains m) = b.members := by
    rw [List.filter_eq_self]; intro m hm; simpa using hm
  have he : b.members.isEmpty = false := by
    cases h : b.members with
    | nil => exact absurd h hne
    | cons _ _ => rfl
  simp only [settle, done, State.takeAll, List.foldl_nil, hb, Option.getD_some, hw, hf, he, Bool.false_eq_true, if_false]

/-- The bundle advances inside its clause. -/
theorem State.advance_inside (core len : Nat) (b : Bundle) (h : b.ends len = false) :
    s.advance core b len = s.setBundle core (some (b.past len)) := by
  have : ¬ hdrCount b.header ≤ b.pos + len := by simpa [Bundle.ends] using h
  simp only [State.advance, this, if_false]; rfl

/-- The bundle advances past the last word: the clause ends in every thread, which falls through (R265). -/
theorem State.advance_ends (core len : Nat) (b : Bundle) (h : b.ends len = true) (hne : b.members ≠ [])
    (hr : ∀ m ∈ b.members, s.remoteWait b.team m = false ∧ s.wordWait b.team m = false) :
    s.advance core b len =
      (b.members.foldl (fun r m => r.updThread b.team m.1 m.2 (fun x => x.fellThrough b (s.core core).clk.toNat)) s).setBundle
        core none := by
  have h : hdrCount b.header ≤ b.pos + len := by simpa [Bundle.ends] using h
  obtain ⟨ha, hs, hg⟩ := s.free_bundle (b.past len) hne hr
  simp only [Bundle.past] at ha hs hg
  simp only [State.advance, h, if_true, State.endOrWait, ha, hs, hg, Bool.false_eq_true, if_false, State.endClause]
  rfl

/-- What waits for answers does not depend on threads, bundles and counters. -/
theorem State.remoteWait_congr (t : State) (k : Nat) (m : Member) (hf : t.flights = s.flights) (ha : t.awl = s.awl)
    (hl : t.lpbOf k = s.lpbOf k) : t.remoteWait k m = s.remoteWait k m ∧ t.wordWait k m = s.wordWait k m := by
  simp only [State.remoteWait, State.wordWait, hf, ha, hl, and_self]

theorem State.lpbOf_foldl_updThread (t : Nat) (ms : List Member) (F : Member → Thread → Thread) (k : Nat) :
    (ms.foldl (fun r m => r.updThread t m.1 m.2 (F m)) s).lpbOf k = s.lpbOf k := by
  induction ms generalizing s with
  | nil => rfl
  | cons m ms ih => rw [List.foldl_cons, ih, State.lpbOf_updThread]

/-- Register words: a word whose effect is on threads and uniform registers of its team goes on, and everything else stands. -/
theorem word_frame (b : Bundle) (i : Instr) (t : State) (h : Issues s b i)
    (hm : t = { s.issued b with teams := t.teams })
    (hteam : ∀ k, k ≠ b.team → t.team k = s.team k)
    (hrest : (t.team b.team).bare = (s.team b.team).bare)
    (hg : ∀ g, (t.group b.team g).fixed = (s.group b.team g).fixed)
    (hth : ∀ g l, (g, l) ∉ b.members → t.thread b.team g l = s.thread b.team g l) :
    ∃ u, settle s.cur i.len b (done t) = u ∧ WordFrame s u b i.len ∧
      (∀ m ∈ b.members, u.thread b.team m.1 m.2 =
        (t.thread b.team m.1 m.2).afterWord b i.len (s.core s.cur).clk.toNat) ∧
      ∀ g, (u.group b.team g).s = (t.group b.team g).s ∧ (u.group b.team g).sPoison = (t.group b.team g).sPoison := by
  have hcur : (t.core s.cur).bundle = some { b with stalled := false } := by
    rw [hm]; simp [State.issued, State.core, State.setBundle, State.updCore, State.setCore]
  have hcore : ∀ k, t.core k = if k = s.cur then { s.core k with bundle := some { b with stalled := false } } else s.core k := by
    intro k
    have : t.core k = (s.issued b).core k := by rw [hm]; rfl
    rw [this, State.issued, State.core_setBundle]
    by_cases hk : s.cur = k
    · rw [if_pos hk, if_pos hk.symm]
    · rw [if_neg hk, if_neg (Ne.symm hk)]
  have hpart : t.partition = s.partition := by funext p; rw [hm]; rfl
  have hlau : t.launch = s.launch := by funext p; rw [hm]; rfl
  have hlpb : t.lpbOf b.team = s.lpbOf b.team := by
    have : (t.team b.team).launch = (s.team b.team).launch := by
      have := congrArg Team.launch hrest
      exact this
    simp only [State.lpbOf, State.launchOf, this, hlau]
  have hmem : SameMemory s t := fun l => by
    have e : t.memByte l = (s.issued b).memByte l := by rw [hm]; cases l <;> rfl
    have e' : t.memPoison l = (s.issued b).memPoison l := by rw [hm]; cases l <;> rfl
    exact ⟨by rw [e, State.issued, State.memByte_setBundle], by rw [e', State.issued, State.memPoison_setBundle]⟩
  have hmach : ∀ v : State, v = { t with teams := v.teams, cores := v.cores, partitions := v.partitions } →
      v = { s with teams := v.teams, cores := v.cores, partitions := v.partitions } := by
    intro v hv; rw [hv, hm]; rfl
  rw [settle_done s.cur i.len b t h.some hcur]
  cases he : b.ends i.len with
  | false =>
    rw [State.advance_inside _ _ _ { b with stalled := false } he]
    refine ⟨_, rfl, ⟨⟨⟨fun k => ?_, fun p => ?_, fun k hk => ?_, ?_⟩, hmach _ rfl, fun l => ?_⟩, fun g => ?_, fun g l hgl => ?_⟩,
      fun m hm => ?_, fun g => ⟨rfl, rfl⟩⟩
    · simp only [State.core_setBundle, State.core_count, hcore, Bundle.atEnd, he, Bool.false_eq_true, if_false]
      by_cases hk : s.cur = k
      · subst hk; simp; rfl
      · simp [hk, Ne.symm hk]
    · rw [State.partition_setBundle, State.count, State.partition_updPartition, hpart]
      by_cases hp : partOf (clusterOf s.cur) = p
      · subst hp; simp
      · simp [hp, Ne.symm hp]
    · rw [State.team_setBundle, State.team_count]; exact hteam k hk
    · rw [State.team_setBundle, State.team_count]; exact hrest
    · simpa using hmem l
    · rw [State.group_setBundle, State.group_count]; exact hg g
    · rw [State.thread_setBundle, State.thread_count]; exact hth g l hgl
    · rw [State.thread_setBundle, State.thread_count, Thread.afterWord, he]; rfl
  | true =>
    have hr : ∀ m ∈ ({ b with stalled := false } : Bundle).members,
        (t.count (partOf (clusterOf s.cur)) 2 1).remoteWait ({ b with stalled := false } : Bundle).team m = false ∧
          (t.count (partOf (clusterOf s.cur)) 2 1).wordWait ({ b with stalled := false } : Bundle).team m = false := by
      intro m hm'
      have hfl : t.flights = s.flights := by rw [hm]; rfl
      have haw : t.awl = s.awl := by rw [hm]; rfl
      obtain ⟨h1, h2⟩ := State.remoteWait_congr s (t.count (partOf (clusterOf s.cur)) 2 1) b.team m hfl haw (by simpa using hlpb)
      rw [h1, h2]; exact h.answered m hm'
    rw [State.advance_ends _ _ _ { b with stalled := false } he h.some hr]
    have hclk : ((t.count (partOf (clusterOf s.cur)) 2 1).core s.cur).clk = (s.core s.cur).clk := by
      rw [State.core_count, hcore, if_pos rfl]
    have key : ∀ u g l, ((({ b with stalled := false } : Bundle).members.foldl (fun r m => r.updThread b.team m.1 m.2
        (fun x => x.fellThrough { b with stalled := false } (s.core s.cur).clk.toNat)) (t.count (partOf (clusterOf s.cur)) 2 1))).thread u g l =
        if b.team = u ∧ (g, l) ∈ b.members then (t.thread u g l).fellThrough { b with stalled := false } (s.core s.cur).clk.toNat
        else t.thread u g l := by
      intro u g l
      rw [State.thread_foldl_updThread _ _ _ (fun _ x => x.fellThrough { b with stalled := false } (s.core s.cur).clk.toNat) h.distinct]
      rw [State.thread_count]
    rw [hclk]
    refine ⟨_, rfl, ⟨⟨⟨fun k => ?_, fun p => ?_, fun k hk => ?_, ?_⟩, hmach _ ?_, fun l => ?_⟩, fun g => ?_, fun g l hgl => ?_⟩,
      fun m hm => ?_, fun g => ?_⟩
    · have hc : ∀ k, (({ b with stalled := false } : Bundle).members.foldl (fun r m => r.updThread b.team m.1 m.2
        (fun x => x.fellThrough { b with stalled := false } (s.core s.cur).clk.toNat))
          (t.count (partOf (clusterOf s.cur)) 2 1)).core k = t.core k := by
        intro k; rw [State.foldl_updThread_machine]; rfl
      simp only [State.core_setBundle, Bundle.atEnd, he, Bundle.allWait, List.isEmpty_nil, Bool.not_true, Bool.false_and, if_true, Bool.false_eq_true, if_false]
      by_cases hk : s.cur = k
      · subst hk; rw [if_pos rfl, if_pos rfl]; erw [hc]; rw [hcore, if_pos rfl]
      · rw [if_neg hk, if_neg (Ne.symm hk)]; erw [hc]; rw [hcore, if_neg (Ne.symm hk)]
    · rw [State.partition_setBundle]
      have hc : ∀ k, (({ b with stalled := false } : Bundle).members.foldl (fun r m => r.updThread b.team m.1 m.2
        (fun x => x.fellThrough { b with stalled := false } (s.core s.cur).clk.toNat))
          (t.count (partOf (clusterOf s.cur)) 2 1)).partition k = (t.count (partOf (clusterOf s.cur)) 2 1).partition k := by
        intro k; rw [State.foldl_updThread_machine]; rfl
      erw [hc]
      rw [State.count, State.partition_updPartition, hpart]
      by_cases hp : partOf (clusterOf s.cur) = p
      · subst hp; simp
      · simp [hp, Ne.symm hp]
    · rw [State.team_setBundle]
      erw [State.team_foldl_updThread_ne _ _ _ _ (Ne.symm hk)]
      rw [State.team_count]; exact hteam k hk
    · rw [State.team_setBundle]
      erw [State.team_foldl_updThread]
      rw [State.team_count]; exact hrest
    · rw [State.foldl_updThread_machine]; rfl
    · rw [State.memByte_setBundle, State.memPoison_setBundle, State.foldl_updThread_machine]
      have := hmem l
      rw [← this.1, ← this.2]
      constructor <;> cases l <;> rfl
    · rw [State.group_setBundle]
      have := State.group_foldl_updThread (t.count (partOf (clusterOf s.cur)) 2 1) b.team b.members
        (fun _ x => x.fellThrough { b with stalled := false } (s.core s.cur).clk.toNat) b.team g
      have := congrArg Group.fixed this
      exact this.trans (hg g)
    · rw [State.thread_setBundle]
      erw [key]
      rw [if_neg (fun hc => hgl hc.2)]; exact hth g l hgl
    · rw [State.thread_setBundle]
      erw [key]
      rw [if_pos ⟨rfl, hm⟩, Thread.afterWord, he]; rfl
    · have := State.group_foldl_updThread (t.count (partOf (clusterOf s.cur)) 2 1) b.team b.members
        (fun _ x => x.fellThrough { b with stalled := false } (s.core s.cur).clk.toNat) b.team g
      rw [State.group_setBundle]
      have h1 := congrArg Group.s this
      have h2 := congrArg Group.sPoison this
      exact ⟨h1, h2⟩

end Sys2Proof.Machine
end

