-- ==== Sys2Proof/Laws/PerInstr.lean ====
section
/-! SUPPORT. Statements about every instruction as syntax, one lemma per constructor (LAWS.json, per_instruction). -/

namespace Sys2Proof.Laws.Length

/-- R269, R270: an instruction word is one word long, or two with its extension or literal; an operation or event has no word. -/
def Statement (i : Instr) : Prop := i.len ≤ 2

theorem le_two_vopt (op : BitVec 7) (nw : Bool) (d : BitVec 7) (a b : BitVec 8) (e : Option VExt) : (encVOpt op nw d a b e).length ≤ 2 := by
  cases e <;> simp [encVOpt]
theorem le_two_s (op : BitVec 7) (d a : BitVec 9) (b : STail) : (encS op d a b).length ≤ 2 := by cases b <;> simp [encS]
theorem le_two_m (op : BitVec 7) (d : BitVec 7) (p i : BitVec 8) (e : Option MExt) : (encM op d p i e).length ≤ 2 := by cases e <;> simp [encM]
theorem le_two_xopt (op : BitVec 7) (d c : BitVec 4) (a b : BitVec 8) (e : Option XExt) : (encXOpt op d c a b e).length ≤ 2 := by
  cases e <;> simp [encXOpt]

theorem registerWrite (fn off width : Nat) (value : Dword) : Statement (.registerWrite fn off width value) := Nat.zero_le 2
theorem partownWrite (partition : Nat) (value : Word) : Statement (.partownWrite partition value) := Nat.zero_le 2
theorem tninvTenant (tenant : Nat) (value : Dword) : Statement (.tninvTenant tenant value) := Nat.zero_le 2
theorem tninvPage (tenant : Nat) (value : Dword) : Statement (.tninvPage tenant value) := Nat.zero_le 2
theorem tninvDone (tenant : Nat) : Statement (.tninvDone tenant) := Nat.zero_le 2
theorem queueEnable (tenant queue : Nat) (value : Word) : Statement (.queueEnable tenant queue value) := Nat.zero_le 2
theorem qtailWrite (tenant queue : Nat) (value : Word) : Statement (.qtailWrite tenant queue value) := Nat.zero_le 2
theorem lpbAccept (tenant : Nat) : Statement (.lpbAccept tenant) := Nat.zero_le 2
theorem teamPlace (tenant : Nat) : Statement (.teamPlace tenant) := Nat.zero_le 2
theorem clauseStart (core : Nat) : Statement (.clauseStart core) := Nat.zero_le 2
theorem pickerPriority (core : Nat) : Statement (.pickerPriority core) := Nat.zero_le 2
theorem pendingWriteback (flight : Nat) : Statement (.pendingWriteback flight) := Nat.zero_le 2
theorem imageCompletion (team : Nat) : Statement (.imageCompletion team) := Nat.zero_le 2
theorem translationWalk (cluster tenant page : Nat) : Statement (.translationWalk cluster tenant page) := Nat.zero_le 2
theorem counterCompletion (op : Nat) : Statement (.counterCompletion op) := Nat.zero_le 2
theorem awlGrant (owner : Nat) : Statement (.awlGrant owner) := Nat.zero_le 2
theorem awlPerform (owner index : Nat) : Statement (.awlPerform owner index) := Nat.zero_le 2
theorem remoteAck (op : Nat) (ok : Bool) : Statement (.remoteAck op ok) := Nat.zero_le 2
theorem peerCheckReply (core : Nat) (accept : Bool) (va : Dword) : Statement (.peerCheckReply core accept va) := Nat.zero_le 2
theorem matrixResult (team group tile : Nat) : Statement (.matrixResult team group tile) := Nat.zero_le 2
theorem tileLoadComplete (team group tile : Nat) : Statement (.tileLoadComplete team group tile) := Nat.zero_le 2
theorem sweepResult (flight : Nat) : Statement (.sweepResult flight) := Nat.zero_le 2
theorem reinAllowanceGrant (core : Nat) : Statement (.reinAllowanceGrant core) := Nat.zero_le 2
theorem reinRemoteWrite (op : Nat) : Statement (.reinRemoteWrite op) := Nat.zero_le 2
theorem cinchRelease (launch : Nat) : Statement (.cinchRelease launch) := Nat.zero_le 2
theorem teamRetire (team : Nat) : Statement (.teamRetire team) := Nat.zero_le 2
theorem launchComplete (launch : Nat) : Statement (.launchComplete launch) := Nat.zero_le 2
theorem seamFire (launch : Nat) : Statement (.seamFire launch) := Nat.zero_le 2
theorem seamLinkReread (launch face : Nat) : Statement (.seamLinkReread launch face) := Nat.zero_le 2
theorem islSetEnable (tenant slot : Nat) (value : Word) : Statement (.islSetEnable tenant slot value) := Nat.zero_le 2
theorem islSetDisable (tenant slot : Nat) (value : Word) : Statement (.islSetDisable tenant slot value) := Nat.zero_le 2
theorem pm1Write (tenant slot : Nat) (value : Word) : Statement (.pm1Write tenant slot value) := Nat.zero_le 2
theorem islReportReceive (tenant slot kind a b : Nat) : Statement (.islReportReceive tenant slot kind a b) := Nat.zero_le 2
theorem stepBoundary (tenant slot : Nat) : Statement (.stepBoundary tenant slot) := Nat.zero_le 2
theorem islSetPoison (tenant slot : Nat) : Statement (.islSetPoison tenant slot) := Nat.zero_le 2
theorem eventRingEnable (tenant : Nat) (value : Word) : Statement (.eventRingEnable tenant value) := Nat.zero_le 2
theorem dbgRead (tenant : Nat) (force : Bool) : Statement (.dbgRead tenant force) := Nat.zero_le 2
theorem dbgWrite (tenant : Nat) (force : Bool) : Statement (.dbgWrite tenant force) := Nat.zero_le 2
theorem dbgTileWriteDone (tenant : Nat) : Statement (.dbgTileWriteDone tenant) := Nat.zero_le 2
theorem contextSuspend (tenant : Nat) : Statement (.contextSuspend tenant) := Nat.zero_le 2
theorem suspendComplete (tenant : Nat) : Statement (.suspendComplete tenant) := Nat.zero_le 2
theorem contextResume (tenant : Nat) : Statement (.contextResume tenant) := Nat.zero_le 2
theorem contextKill (tenant : Nat) : Statement (.contextKill tenant) := Nat.zero_le 2
theorem checkpointTake (tenant : Nat) : Statement (.checkpointTake tenant) := Nat.zero_le 2
theorem rollback (tenant : Nat) : Statement (.rollback tenant) := Nat.zero_le 2
theorem checkpointEnable (tenant : Nat) : Statement (.checkpointEnable tenant) := Nat.zero_le 2
theorem checkpointDisable (tenant : Nat) : Statement (.checkpointDisable tenant) := Nat.zero_le 2
theorem undoLogMark (partition : Nat) : Statement (.undoLogMark partition) := Nat.zero_le 2
theorem teamFault (team : Nat) : Statement (.teamFault team) := Nat.zero_le 2
theorem tenantFault (tenant : Nat) : Statement (.tenantFault tenant) := Nat.zero_le 2
theorem linkFlitFailure (recurring : Bool) : Statement (.linkFlitFailure recurring) := Nat.zero_le 2
theorem uncorrectableError (unit : PoisonUnit) : Statement (.uncorrectableError unit) := Nat.zero_le 2
theorem correctedError (partition : Nat) : Statement (.correctedError partition) := Nat.zero_le 2
theorem skvctlWrite (core : Nat) (value : Word) : Statement (.skvctlWrite core value) := Nat.zero_le 2
theorem marginStepSettle (core : Nat) : Statement (.marginStepSettle core) := Nat.zero_le 2
theorem skiveWindowExpire (core : Nat) : Statement (.skiveWindowExpire core) := Nat.zero_le 2
theorem timingReplay (core : Nat) : Statement (.timingReplay core) := Nat.zero_le 2
theorem nrLateTransition (core : Nat) : Statement (.nrLateTransition core) := Nat.zero_le 2
theorem quarClear (core : Nat) : Statement (.quarClear core) := Nat.zero_le 2
theorem clkratWrite (core : Nat) (value : Word) : Statement (.clkratWrite core value) := Nat.zero_le 2
theorem clockRatioChange (core : Nat) : Statement (.clockRatioChange core) := Nat.zero_le 2
theorem powerCapAdjust (core cap : Nat) : Statement (.powerCapAdjust core cap) := Nat.zero_le 2
theorem overcurrent (alarm : Alarm) : Statement (.overcurrent alarm) := Nat.zero_le 2
theorem pcapRecovery (core cap : Nat) : Statement (.pcapRecovery core cap) := Nat.zero_le 2
theorem girthFiller (die core : Nat) (running : Bool) (microjoules : Nat) : Statement (.girthFiller die core running microjoules) := Nat.zero_le 2
theorem vfFlr (partition : Nat) : Statement (.vfFlr partition) := Nat.zero_le 2
theorem renazPortDown (port : Nat) : Statement (.renazPortDown port) := Nat.zero_le 2
theorem trap (n : BitVec 8) : Statement (.trap n) := Nat.le_succ 1
theorem joinEnrol (n : BitVec 8) : Statement (.joinEnrol n) := Nat.le_succ 1
theorem joinPark (n : BitVec 8) : Statement (.joinPark n) := Nat.le_succ 1
theorem joinStrike (n : BitVec 8) : Statement (.joinStrike n) := Nat.le_succ 1
theorem joinTest (d : BitVec 9) (n : BitVec 8) : Statement (.joinTest d n) := Nat.le_succ 1
theorem smovi (d : BitVec 9) (imm : BitVec 16) : Statement (.smovi d imm) := Nat.le_succ 1
theorem smovh (d : BitVec 9) (imm : BitVec 16) : Statement (.smovh d imm) := Nat.le_succ 1
theorem saddi (d : BitVec 9) (imm : BitVec 16) : Statement (.saddi d imm) := Nat.le_succ 1
theorem sldc (d : BitVec 9) (lit : Word) : Statement (.sldc d lit) := Nat.le_refl 2
theorem smov (d a : BitVec 9) : Statement (.smov d a) := Nat.le_succ 1
theorem sclz (d a : BitVec 9) : Statement (.sclz d a) := Nat.le_succ 1
theorem spopc (d a : BitVec 9) : Statement (.spopc d a) := Nat.le_succ 1
theorem sadd (d a : BitVec 9) (b : STail) : Statement (.sadd d a b) := le_two_s _ _ _ _
theorem ssub (d a : BitVec 9) (b : STail) : Statement (.ssub d a b) := le_two_s _ _ _ _
theorem smul (d a : BitVec 9) (b : STail) : Statement (.smul d a b) := le_two_s _ _ _ _
theorem smulh (d a : BitVec 9) (b : STail) : Statement (.smulh d a b) := le_two_s _ _ _ _
theorem smulhS32 (d a : BitVec 9) (b : STail) : Statement (.smulhS32 d a b) := le_two_s _ _ _ _
theorem sand (d a : BitVec 9) (b : STail) : Statement (.sand d a b) := le_two_s _ _ _ _
theorem sor (d a : BitVec 9) (b : STail) : Statement (.sor d a b) := le_two_s _ _ _ _
theorem sxor (d a : BitVec 9) (b : STail) : Statement (.sxor d a b) := le_two_s _ _ _ _
theorem sandn (d a : BitVec 9) (b : STail) : Statement (.sandn d a b) := le_two_s _ _ _ _
theorem sshl (d a : BitVec 9) (b : STail) : Statement (.sshl d a b) := le_two_s _ _ _ _
theorem sshr (d a : BitVec 9) (b : STail) : Statement (.sshr d a b) := le_two_s _ _ _ _
theorem ssar (d a : BitVec 9) (b : STail) : Statement (.ssar d a b) := le_two_s _ _ _ _
theorem smin (d a : BitVec 9) (b : STail) : Statement (.smin d a b) := le_two_s _ _ _ _
theorem smax (d a : BitVec 9) (b : STail) : Statement (.smax d a b) := le_two_s _ _ _ _
theorem sminz (d a : BitVec 9) (b : STail) : Statement (.sminz d a b) := le_two_s _ _ _ _
theorem smaxz (d a : BitVec 9) (b : STail) : Statement (.smaxz d a b) := le_two_s _ _ _ _
theorem scmp (d a : BitVec 9) (e : SExt) : Statement (.scmp d a e) := Nat.le_refl 2
theorem ssel (d a : BitVec 9) (e : SExt) : Statement (.ssel d a e) := Nat.le_refl 2
theorem sadd64 (d a : BitVec 9) (b : STail) : Statement (.sadd64 d a b) := le_two_s _ _ _ _
theorem ssub64 (d a : BitVec 9) (b : STail) : Statement (.ssub64 d a b) := le_two_s _ _ _ _
theorem bra (off : BitVec 14) : Statement (.bra off) := Nat.le_succ 1
theorem braLong (lit : Word) : Statement (.braLong lit) := Nat.le_refl 2
theorem bru (src : BitVec 8) (cond : BitVec 3) (off : BitVec 14) : Statement (.bru src cond off) := Nat.le_succ 1
theorem bruLong (src : BitVec 8) (cond : BitVec 3) (lit : Word) : Statement (.bruLong src cond lit) := Nat.le_refl 2
theorem sget (func : BitVec 8) (d : BitVec 9) : Statement (.sget func d) := Nat.le_succ 1
theorem sset (func : BitVec 8) (a : BitVec 9) : Statement (.sset func a) := Nat.le_succ 1
theorem brt (src : BitVec 8) (cond : BitVec 3) (off : BitVec 14) : Statement (.brt src cond off) := Nat.le_succ 1
theorem brtLong (src : BitVec 8) (cond : BitVec 3) (lit : Word) : Statement (.brtLong src cond lit) := Nat.le_refl 2
theorem modeset (src : BitVec 8) : Statement (.modeset src) := Nat.le_succ 1
theorem modeget (d : BitVec 7) : Statement (.modeget d) := Nat.le_succ 1
theorem modegetFlags (d : BitVec 7) : Statement (.modegetFlags d) := Nat.le_succ 1
theorem clk (d : BitVec 9) : Statement (.clk d) := Nat.le_succ 1
theorem call (off : BitVec 14) : Statement (.call off) := Nat.le_succ 1
theorem callLong (lit : Word) : Statement (.callLong lit) := Nat.le_refl 2
theorem brx (src : BitVec 8) : Statement (.brx src) := Nat.le_succ 1
theorem callx (src : BitVec 8) : Statement (.callx src) := Nat.le_succ 1
theorem vadd (nw : Bool) (d : BitVec 7) (a b : BitVec 8) (e : Option VExt) : Statement (.vadd nw d a b e) := le_two_vopt _ _ _ _ _ _
theorem vaddsat (nw : Bool) (d : BitVec 7) (a b : BitVec 8) (e : VExt) : Statement (.vaddsat nw d a b e) := Nat.le_refl 2
theorem vsub (nw : Bool) (d : BitVec 7) (a b : BitVec 8) (e : Option VExt) : Statement (.vsub nw d a b e) := le_two_vopt _ _ _ _ _ _
theorem vsubsat (nw : Bool) (d : BitVec 7) (a b : BitVec 8) (e : VExt) : Statement (.vsubsat nw d a b e) := Nat.le_refl 2
theorem vmul (nw : Bool) (d : BitVec 7) (a b : BitVec 8) (e : Option VExt) : Statement (.vmul nw d a b e) := le_two_vopt _ _ _ _ _ _
theorem vmulh (nw : Bool) (d : BitVec 7) (a b : BitVec 8) (e : Option VExt) : Statement (.vmulh nw d a b e) := le_two_vopt _ _ _ _ _ _
theorem vmad (nw : Bool) (d : BitVec 7) (a b : BitVec 8) (e : VExt) : Statement (.vmad nw d a b e) := Nat.le_refl 2
theorem vand (nw : Bool) (d : BitVec 7) (a b : BitVec 8) (e : Option VExt) : Statement (.vand nw d a b e) := le_two_vopt _ _ _ _ _ _
theorem vor (nw : Bool) (d : BitVec 7) (a b : BitVec 8) (e : Option VExt) : Statement (.vor nw d a b e) := le_two_vopt _ _ _ _ _ _
theorem vxor (nw : Bool) (d : BitVec 7) (a b : BitVec 8) (e : Option VExt) : Statement (.vxor nw d a b e) := le_two_vopt _ _ _ _ _ _
theorem vshl (nw : Bool) (d : BitVec 7) (a b : BitVec 8) (e : Option VExt) : Statement (.vshl nw d a b e) := le_two_vopt _ _ _ _ _ _
theorem vshr (nw : Bool) (d : BitVec 7) (a b : BitVec 8) (e : Option VExt) : Statement (.vshr nw d a b e) := le_two_vopt _ _ _ _ _ _
theorem vsar (nw : Bool) (d : BitVec 7) (a b : BitVec 8) (e : Option VExt) : Statement (.vsar nw d a b e) := le_two_vopt _ _ _ _ _ _
theorem vmin (nw : Bool) (d : BitVec 7) (a b : BitVec 8) (e : Option VExt) : Statement (.vmin nw d a b e) := le_two_vopt _ _ _ _ _ _
theorem vmax (nw : Bool) (d : BitVec 7) (a b : BitVec 8) (e : Option VExt) : Statement (.vmax nw d a b e) := le_two_vopt _ _ _ _ _ _
theorem vnot (nw : Bool) (d : BitVec 7) (a : BitVec 8) (e : Option VExt) : Statement (.vnot nw d a e) := le_two_vopt _ _ _ _ _ _
theorem vabs (nw : Bool) (d : BitVec 7) (a : BitVec 8) (e : Option VExt) : Statement (.vabs nw d a e) := le_two_vopt _ _ _ _ _ _
theorem vneg (nw : Bool) (d : BitVec 7) (a : BitVec 8) (e : Option VExt) : Statement (.vneg nw d a e) := le_two_vopt _ _ _ _ _ _
theorem vclz (nw : Bool) (d : BitVec 7) (a : BitVec 8) (e : Option VExt) : Statement (.vclz nw d a e) := le_two_vopt _ _ _ _ _ _
theorem vpopc (nw : Bool) (d : BitVec 7) (a : BitVec 8) (e : Option VExt) : Statement (.vpopc nw d a e) := le_two_vopt _ _ _ _ _ _
theorem vbrev (nw : Bool) (d : BitVec 7) (a : BitVec 8) (e : Option VExt) : Statement (.vbrev nw d a e) := le_two_vopt _ _ _ _ _ _
theorem vcmp (nw : Bool) (d : BitVec 7) (a b : BitVec 8) (e : VExt) : Statement (.vcmp nw d a b e) := Nat.le_refl 2
theorem vsel (nw : Bool) (d : BitVec 7) (a b : BitVec 8) (e : VExt) : Statement (.vsel nw d a b e) := Nat.le_refl 2
theorem vbfe (nw : Bool) (d : BitVec 7) (a b : BitVec 8) (e : VExt) : Statement (.vbfe nw d a b e) := Nat.le_refl 2
theorem vbfi (nw : Bool) (d : BitVec 7) (a b : BitVec 8) (e : VExt) : Statement (.vbfi nw d a b e) := Nat.le_refl 2
theorem vdiv (nw : Bool) (d : BitVec 7) (a b : BitVec 8) (e : Option VExt) : Statement (.vdiv nw d a b e) := le_two_vopt _ _ _ _ _ _
theorem vrem (nw : Bool) (d : BitVec 7) (a b : BitVec 8) (e : Option VExt) : Statement (.vrem nw d a b e) := le_two_vopt _ _ _ _ _ _
theorem fadd (nw : Bool) (d : BitVec 7) (a b : BitVec 8) (e : Option VExt) : Statement (.fadd nw d a b e) := le_two_vopt _ _ _ _ _ _
theorem fsub (nw : Bool) (d : BitVec 7) (a b : BitVec 8) (e : Option VExt) : Statement (.fsub nw d a b e) := le_two_vopt _ _ _ _ _ _
theorem fmul (nw : Bool) (d : BitVec 7) (a b : BitVec 8) (e : Option VExt) : Statement (.fmul nw d a b e) := le_two_vopt _ _ _ _ _ _
theorem ffma (nw : Bool) (d : BitVec 7) (a b : BitVec 8) (e : VExt) : Statement (.ffma nw d a b e) := Nat.le_refl 2
theorem fmin (nw : Bool) (d : BitVec 7) (a b : BitVec 8) (e : Option VExt) : Statement (.fmin nw d a b e) := le_two_vopt _ _ _ _ _ _
theorem fmax (nw : Bool) (d : BitVec 7) (a b : BitVec 8) (e : Option VExt) : Statement (.fmax nw d a b e) := le_two_vopt _ _ _ _ _ _
theorem fabs (nw : Bool) (d : BitVec 7) (a : BitVec 8) (e : Option VExt) : Statement (.fabs nw d a e) := le_two_vopt _ _ _ _ _ _
theorem fneg (nw : Bool) (d : BitVec 7) (a : BitVec 8) (e : Option VExt) : Statement (.fneg nw d a e) := le_two_vopt _ _ _ _ _ _
theorem fclass (nw : Bool) (d : BitVec 7) (a : BitVec 8) (e : Option VExt) : Statement (.fclass nw d a e) := le_two_vopt _ _ _ _ _ _
theorem frnd (nw : Bool) (d : BitVec 7) (a : BitVec 8) (e : Option VExt) : Statement (.frnd nw d a e) := le_two_vopt _ _ _ _ _ _
theorem frcp (nw : Bool) (d : BitVec 7) (a : BitVec 8) (e : Option VExt) : Statement (.frcp nw d a e) := le_two_vopt _ _ _ _ _ _
theorem frsq (nw : Bool) (d : BitVec 7) (a : BitVec 8) (e : Option VExt) : Statement (.frsq nw d a e) := le_two_vopt _ _ _ _ _ _
theorem fsqrt (nw : Bool) (d : BitVec 7) (a : BitVec 8) (e : Option VExt) : Statement (.fsqrt nw d a e) := le_two_vopt _ _ _ _ _ _
theorem flog2 (nw : Bool) (d : BitVec 7) (a : BitVec 8) (e : Option VExt) : Statement (.flog2 nw d a e) := le_two_vopt _ _ _ _ _ _
theorem fsin (nw : Bool) (d : BitVec 7) (a : BitVec 8) (e : Option VExt) : Statement (.fsin nw d a e) := le_two_vopt _ _ _ _ _ _
theorem fcos (nw : Bool) (d : BitVec 7) (a : BitVec 8) (e : Option VExt) : Statement (.fcos nw d a e) := le_two_vopt _ _ _ _ _ _
theorem fcmp (nw : Bool) (d : BitVec 7) (a b : BitVec 8) (e : VExt) : Statement (.fcmp nw d a b e) := Nat.le_refl 2
theorem fscale (nw : Bool) (d : BitVec 7) (a b : BitVec 8) (e : Option VExt) : Statement (.fscale nw d a b e) := le_two_vopt _ _ _ _ _ _
theorem fexp2s (nw : Bool) (d : BitVec 7) (a b : BitVec 8) (e : VExt) : Statement (.fexp2s nw d a b e) := Nat.le_refl 2
theorem cvt (nw : Bool) (d : BitVec 7) (a : BitVec 8) (stype : ElemTy) (e : VExt) : Statement (.cvt nw d a stype e) := Nat.le_refl 2
theorem vpack (nw : Bool) (d : BitVec 7) (a b : BitVec 8) (e : VExt) : Statement (.vpack nw d a b e) := Nat.le_refl 2
theorem vunpk (nw : Bool) (d : BitVec 7) (a b : BitVec 8) (e : VExt) : Statement (.vunpk nw d a b e) := Nat.le_refl 2
theorem vshfl (nw : Bool) (d : BitVec 7) (a b : BitVec 8) (e : Option VExt) : Statement (.vshfl nw d a b e) := le_two_vopt _ _ _ _ _ _
theorem vshfx (nw : Bool) (d : BitVec 7) (a b : BitVec 8) (e : Option VExt) : Statement (.vshfx nw d a b e) := le_two_vopt _ _ _ _ _ _
theorem vshfup (nw : Bool) (d : BitVec 7) (a b : BitVec 8) (e : Option VExt) : Statement (.vshfup nw d a b e) := le_two_vopt _ _ _ _ _ _
theorem vshfdn (nw : Bool) (d : BitVec 7) (a b : BitVec 8) (e : Option VExt) : Statement (.vshfdn nw d a b e) := le_two_vopt _ _ _ _ _ _
theorem vbcst (nw : Bool) (d : BitVec 7) (a b : BitVec 8) (e : Option VExt) : Statement (.vbcst nw d a b e) := le_two_vopt _ _ _ _ _ _
theorem vred (nw : Bool) (d : BitVec 7) (a : BitVec 8) (op : BitVec 8) (e : Option VExt) : Statement (.vred nw d a op e) := le_two_vopt _ _ _ _ _ _
theorem vscan (nw : Bool) (d : BitVec 7) (a : BitVec 8) (op : BitVec 8) (e : Option VExt) : Statement (.vscan nw d a op e) := le_two_vopt _ _ _ _ _ _
theorem vballot (nw : Bool) (d : BitVec 7) (a : BitVec 8) : Statement (.vballot nw d a) := Nat.le_succ 1
theorem vvote (nw : Bool) (d : BitVec 7) (a : BitVec 8) (mode : BitVec 8) : Statement (.vvote nw d a mode) := Nat.le_succ 1
theorem rand (nw : Bool) (d : BitVec 7) (a : BitVec 8) (e : Option VExt) : Statement (.rand nw d a e) := le_two_vopt _ _ _ _ _ _
theorem rebal (nw : Bool) (d : BitVec 7) (a b : BitVec 8) (e : Option VExt) : Statement (.rebal nw d a b e) := le_two_vopt _ _ _ _ _ _
theorem vtopk (nw : Bool) (d : BitVec 7) (a b : BitVec 8) (e : VExt) : Statement (.vtopk nw d a b e) := Nat.le_refl 2
theorem ld32 (d : BitVec 7) (p i : BitVec 8) (e : Option MExt) : Statement (.ld32 d p i e) := le_two_m _ _ _ _ _
theorem ld64 (d : BitVec 7) (p i : BitVec 8) (e : Option MExt) : Statement (.ld64 d p i e) := le_two_m _ _ _ _ _
theorem st32 (d : BitVec 7) (p i : BitVec 8) (e : Option MExt) : Statement (.st32 d p i e) := le_two_m _ _ _ _ _
theorem st64 (d : BitVec 7) (p i : BitVec 8) (e : Option MExt) : Statement (.st64 d p i e) := le_two_m _ _ _ _ _
theorem ldf32 (d : BitVec 7) (p i : BitVec 8) (e : Option MExt) : Statement (.ldf32 d p i e) := le_two_m _ _ _ _ _
theorem ldf64 (d : BitVec 7) (p i : BitVec 8) (e : Option MExt) : Statement (.ldf64 d p i e) := le_two_m _ _ _ _ _
theorem stf32 (d : BitVec 7) (p i : BitVec 8) (e : Option MExt) : Statement (.stf32 d p i e) := le_two_m _ _ _ _ _
theorem stf64 (d : BitVec 7) (p i : BitVec 8) (e : Option MExt) : Statement (.stf64 d p i e) := le_two_m _ _ _ _ _
theorem ldu (d a : BitVec 9) (b : STail) : Statement (.ldu d a b) := le_two_s _ _ _ _
theorem atom (nw : Bool) (d : BitVec 7) (p i : BitVec 8) (e : AExt) : Statement (.atom nw d p i e) := Nat.le_refl 2
theorem red (p i : BitVec 8) (e : AExt) : Statement (.red p i e) := Nat.le_refl 2
theorem atomCas (nw : Bool) (d : BitVec 7) (p i : BitVec 8) (e : AExt) : Statement (.atomCas nw d p i e) := Nat.le_refl 2
theorem atomCas64 (nw : Bool) (d : BitVec 7) (p i : BitVec 8) (e : AExt) : Statement (.atomCas64 nw d p i e) := Nat.le_refl 2
theorem fence (remote : Bool) (storage : BitVec 2) (scope : BitVec 3) (kind : BitVec 2) : Statement (.fence remote storage scope kind) := Nat.le_succ 1
theorem waitc (ctr : BitVec 2) (n : BitVec 8) : Statement (.waitc ctr n) := Nat.le_succ 1
theorem push (a : BitVec 9) (b : STail) : Statement (.push a b) := le_two_s _ _ _ _
theorem pusht (d a : BitVec 9) (b : STail) : Statement (.pusht d a b) := le_two_s _ _ _ _
theorem pop (d a : BitVec 9) : Statement (.pop d a) := Nat.le_succ 1
theorem popt (d a : BitVec 9) : Statement (.popt d a) := Nat.le_succ 1
theorem reinOpen (a : BitVec 9) (b : STail) : Statement (.reinOpen a b) := le_two_s _ _ _ _
theorem reinClose (a : BitVec 9) : Statement (.reinClose a) := Nat.le_succ 1
theorem pref (p i : BitVec 8) (e : Option MExt) : Statement (.pref p i e) := le_two_m _ _ _ _ _
theorem sweep (d : BitVec 7) (p i : BitVec 8) (budget : BitVec 9) : Statement (.sweep d p i budget) := Nat.le_refl 2
theorem cpy (d a : BitVec 9) (b : STail) : Statement (.cpy d a b) := le_two_s _ _ _ _
theorem cpySb (d a : BitVec 9) (b : STail) : Statement (.cpySb d a b) := le_two_s _ _ _ _
theorem cpy2d (d a : BitVec 9) (b : STail) : Statement (.cpy2d d a b) := le_two_s _ _ _ _
theorem cpy2dSb (d a : BitVec 9) (b : STail) : Statement (.cpy2dSb d a b) := le_two_s _ _ _ _
theorem gath (d : BitVec 7) (p i : BitVec 8) (e : Option MExt) : Statement (.gath d p i e) := le_two_m _ _ _ _ _
theorem scat (d : BitVec 7) (p i : BitVec 8) (e : Option MExt) : Statement (.scat d p i e) := le_two_m _ _ _ _ _
theorem xcpy (d a : BitVec 9) (b : STail) : Statement (.xcpy d a b) := le_two_s _ _ _ _
theorem xred (d a : BitVec 9) (e : SExt) : Statement (.xred d a e) := Nat.le_refl 2
theorem mma (d c : BitVec 4) (a b : BitVec 8) (e : XExt) : Statement (.mma d c a b e) := Nat.le_refl 2
theorem mmab (d c : BitVec 4) (a b : BitVec 8) (e : XExt) : Statement (.mmab d c a b e) := Nat.le_refl 2
theorem mmag (d c : BitVec 4) (a b : BitVec 8) (e : XExt) : Statement (.mmag d c a b e) := Nat.le_refl 2
theorem smma (d c : BitVec 4) (a b : BitVec 8) (e : XExt) : Statement (.smma d c a b e) := Nat.le_refl 2
theorem tld (d : BitVec 4) (p b : BitVec 8) (e : Option XExt) : Statement (.tld d p b e) := le_two_xopt _ _ _ _ _ _
theorem tst (d : BitVec 4) (p b : BitVec 8) (e : Option XExt) : Statement (.tst d p b e) := le_two_xopt _ _ _ _ _ _
theorem tzero (d : BitVec 4) : Statement (.tzero d) := Nat.le_succ 1
theorem tmov (d c : BitVec 4) : Statement (.tmov d c) := Nat.le_succ 1
theorem twait (d : BitVec 4) : Statement (.twait d) := Nat.le_succ 1
theorem tstat (a : BitVec 8) : Statement (.tstat a) := Nat.le_succ 1
theorem tcvt (d c : BitVec 4) (e : XExt) : Statement (.tcvt d c e) := Nat.le_refl 2
theorem msearch (c : BitVec 4) (m : BitVec 8) : Statement (.msearch c m) := Nat.le_succ 1
theorem resv (p q : BitVec 8) : Statement (.resv p q) := Nat.le_succ 1
theorem rels (p : BitVec 8) : Statement (.rels p) := Nat.le_succ 1
theorem rqry (p q : BitVec 8) : Statement (.rqry p q) := Nat.le_succ 1
theorem gang (p : BitVec 8) : Statement (.gang p) := Nat.le_succ 1
theorem launch (d : BitVec 9) (p : BitVec 8) : Statement (.launch d p) := Nat.le_succ 1
theorem lwait (d : BitVec 9) (h : BitVec 8) : Statement (.lwait d h) := Nat.le_succ 1
theorem lstat (d : BitVec 9) (h : BitVec 8) : Statement (.lstat d h) := Nat.le_succ 1
theorem seamPos (d : BitVec 9) : Statement (.seamPos d) := Nat.le_succ 1
theorem seamQry (d : BitVec 9) (sel : BitVec 8) : Statement (.seamQry d sel) := Nat.le_succ 1
theorem islLink (v : BitVec 7) (kind : BitVec 1) (slot : BitVec 4) : Statement (.islLink v kind slot) := Nat.le_succ 1
theorem islUnlink (v : BitVec 7) (slot : BitVec 4) : Statement (.islUnlink v slot) := Nat.le_succ 1
theorem islStep (d : BitVec 9) : Statement (.islStep d) := Nat.le_succ 1
theorem islInfo (d : BitVec 9) (sel : BitVec 4) (slot : BitVec 4) : Statement (.islInfo d sel slot) := Nat.le_succ 1
theorem islWake (v : BitVec 7) (slot : BitVec 4) : Statement (.islWake v slot) := Nat.le_succ 1
theorem stampMix (a : BitVec 8) : Statement (.stampMix a) := Nat.le_succ 1
theorem stampGet (v : BitVec 7) : Statement (.stampGet v) := Nat.le_succ 1
theorem evtpost (p : BitVec 9) (code : BitVec 8) : Statement (.evtpost p code) := Nat.le_succ 1
theorem skvGet (d : BitVec 9) (sel : BitVec 8) : Statement (.skvGet d sel) := Nat.le_succ 1
theorem pctr (d : BitVec 9) (all : BitVec 1) (n : BitVec 7) : Statement (.pctr d all n) := Nat.le_succ 1
theorem feat (d : BitVec 9) : Statement (.feat d) := Nat.le_succ 1
theorem illegalInstruction (word : Word) : Statement (.illegalInstruction word) := Nat.zero_le 2
theorem accessPerformed (flight : Nat) : Statement (.accessPerformed flight) := Nat.zero_le 2
theorem imageMove (team : Nat) (addr : Dword) : Statement (.imageMove team addr) := Nat.zero_le 2
theorem nop : Statement (.nop) := Nat.le_succ 1
theorem exit : Statement (.exit) := Nat.le_succ 1
theorem yield : Statement (.yield) := Nat.le_succ 1
theorem tret : Statement (.tret) := Nat.le_succ 1
theorem ret : Statement (.ret) := Nat.le_succ 1
theorem drain : Statement (.drain) := Nat.le_succ 1
theorem seamDone : Statement (.seamDone) := Nat.le_succ 1
theorem islStill : Statement (.islStill) := Nat.le_succ 1
theorem halt : Statement (.halt) := Nat.le_succ 1
theorem pfReset : Statement (.pfReset) := Nat.zero_le 2
theorem powerOn : Statement (.powerOn) := Nat.zero_le 2
theorem powerLoss : Statement (.powerLoss) := Nat.zero_le 2
theorem networkBoot : Statement (.networkBoot) := Nat.zero_le 2
theorem redfishRequest : Statement (.redfishRequest) := Nat.zero_le 2
theorem getVersion : Statement (.getVersion) := Nat.zero_le 2
theorem getCapabilities : Statement (.getCapabilities) := Nat.zero_le 2
theorem negotiateAlgorithms : Statement (.negotiateAlgorithms) := Nat.zero_le 2
theorem getDigests : Statement (.getDigests) := Nat.zero_le 2
theorem getCertificate : Statement (.getCertificate) := Nat.zero_le 2
theorem challenge : Statement (.challenge) := Nat.zero_le 2
theorem getMeasurements : Statement (.getMeasurements) := Nat.zero_le 2
theorem renazInboundAccess : Statement (.renazInboundAccess) := Nat.zero_le 2
theorem xredContribution : Statement (.xredContribution) := Nat.zero_le 2
theorem inboundHostWrite : Statement (.inboundHostWrite) := Nat.zero_le 2

end Sys2Proof.Laws.Length
end

