-- ==== Sys2Proof/Laws/Words.lean ====
section
/-! SUPPORT. One law per shape of register word: uniform words with one result or a pair, per-lane words, cross-lane words. Each says
all that a word of the shape does once it issues. -/

namespace Sys2Proof.Machine

variable (s : State)

theorem Thread.latch_laneResult (x : Thread) (ipos : Nat) (w : Word) :
    LaneResult x { x with y := x.y.write (ipos % 4) w } ipos true 0 w none 0 where
  value := rfl
  high := fun h hh => by cases hh
  clean := fun h => by cases h
  others := fun n _ => ⟨rfl, rfl⟩
  flags := by simp
  latch := by simp [Latches.write]
  latches := fun n hn => by simp [Latches.write, Sparse.get_put_ne _ _ _ (Ne.symm hn), Ne.symm hn]
  rest := rfl

/-- The law of Thread.result after the flags are set. -/
theorem Thread.result_laneResult (x : Thread) (ipos : Nat) (nw : Bool) (d : Nat) (lo : Word) (hi : Option Word) (f : Flags) :
    LaneResult x ((x.setFlags f).result ipos nw d lo hi) ipos nw d lo hi f where
  value := by
    cases nw <;> cases hi <;> simp [Thread.result, Thread.setFlags, Thread.vGet, Thread.vSet, Sparse.get_put]
  high := fun h hh => by
    subst hh
    cases nw <;> simp [Thread.result, Thread.setFlags, Thread.vGet, Thread.vSet]
  clean := fun h => by
    subst h
    cases hi <;> simp [Thread.result, Thread.setFlags, Thread.vSet]
  others := fun n hn => by
    cases nw
    · have hn := hn.resolve_left (by simp)
      cases hi with
      | none =>
        simp [Thread.result, Thread.setFlags, Thread.vGet, Thread.vSet, Sparse.get_put_ne _ _ _ (Ne.symm hn.1), Ne.symm hn.1]
      | some h =>
        have h2 := hn.2 rfl
        simp [Thread.result, Thread.setFlags, Thread.vGet, Thread.vSet, Sparse.get_put_ne _ _ _ (Ne.symm hn.1), Ne.symm hn.1,
          Sparse.get_put_ne _ _ _ (Ne.symm h2), Ne.symm h2]
    · exact ⟨rfl, rfl⟩
  flags := by cases nw <;> cases hi <;> rfl
  latch := by simp [Thread.result, Latches.write]
  latches := fun n hn => by
    cases nw <;> cases hi <;>
      simp [Thread.result, Thread.setFlags, Thread.vSet, Latches.write, Sparse.get_put_ne _ _ _ (Ne.symm hn), Ne.symm hn]
  rest := by cases nw <;> cases hi <;> rfl

/-- A word that changes uniform registers of its group by f and then each thread of the bundle by F, and goes on. -/
theorem registerWord_spec (b : Bundle) (i : Instr) (h : Issues s b i) (f : Group → Group) (F : Member → Thread → Thread)
    (hf : ∀ g, (f g).fixed = g.fixed ∧ (f g).threads = g.threads) (t : State)
    (ht : t = b.members.foldl (fun r m => r.updThread b.team m.1 m.2 (F m)) ((s.issued b).updGroup b.team b.group f)) :
    ∃ u, settle s.cur i.len b (done t) = u ∧ WordFrame s u b i.len ∧
      (∀ m ∈ b.members, u.thread b.team m.1 m.2 =
        (F m (s.thread b.team m.1 m.2)).afterWord b i.len (s.core s.cur).clk.toNat) ∧
      ∀ g, (u.group b.team g).s = (if g = b.group then f (s.group b.team g) else s.group b.team g).s ∧
        (u.group b.team g).sPoison = (if g = b.group then f (s.group b.team g) else s.group b.team g).sPoison := by
  have hth : ∀ u g l, ((s.issued b).updGroup b.team b.group f).thread u g l = s.thread u g l := by
    intro u g l
    simp only [State.thread, State.group_updGroup]
    split
    · rename_i hg; obtain ⟨rfl, rfl⟩ := hg
      simp only [Group.thread, (hf _).2]; rfl
    · rfl
  have hthread : ∀ g l, t.thread b.team g l =
      if (g, l) ∈ b.members then F (g, l) (s.thread b.team g l) else s.thread b.team g l := by
    intro g l
    rw [ht, State.thread_foldl_updThread _ _ _ _ h.distinct, hth]
    simp
  have hgroup : ∀ g, (t.group b.team g).bare =
      (if g = b.group then f (s.group b.team g) else s.group b.team g).bare := by
    intro g
    rw [ht, State.group_foldl_updThread, State.group_updGroup]
    by_cases hg : b.group = g
    · subst hg; simp; rfl
    · simp [hg, Ne.symm hg]; rfl
  obtain ⟨u, h1, h2, h3, h4⟩ := word_frame s b i t h
    (by rw [ht, State.foldl_updThread_machine]; rfl)
    (fun k hk => by
      rw [ht, State.team_foldl_updThread_ne _ _ _ _ (Ne.symm hk), State.team_updGroup, if_neg (Ne.symm hk)]; rfl)
    (by rw [ht, State.team_foldl_updThread, State.team_updGroup, if_pos rfl]; rfl)
    (fun g => by
      have := congrArg Group.fixed (hgroup g)
      refine (show (t.group b.team g).fixed = _ from this).trans ?_
      split
      · exact (hf _).1
      · rfl)
    (fun g l hgl => by rw [hthread, if_neg hgl])
  refine ⟨u, h1, h2, fun m hm => ?_, fun g => ?_⟩
  · rw [h3 m hm, hthread, if_pos hm]
  · rw [(h4 g).1, (h4 g).2]
    have h5 := congrArg Group.s (hgroup g)
    have h6 := congrArg Group.sPoison (hgroup g)
    exact ⟨h5, h6⟩

theorem Group.sSet_fixed (g : Group) (n : Nat) (w : Word) : (g.sSet n w).fixed = g.fixed ∧ (g.sSet n w).threads = g.threads := by
  unfold Group.sSet; split <;> exact ⟨rfl, rfl⟩

theorem Group.sBad_sSet (g : Group) (n k : Nat) (w : Word) : (g.sSet n w).sBad k = if n = k then false else g.sBad k := by
  unfold Group.sSet Group.sBad
  by_cases hn : n = 0
  · subst hn
    by_cases hk : 0 = k
    · subst hk; simp
    · simp [hk]
  · by_cases hk : n = k
    · subst hk; simp [hn]
    · simp [hn, hk]

/-- A uniform word with one result. -/
theorem uniform32_spec (b : Bundle) (i : Instr) (d : Nat) (w : Word) (h : Issues s b i) :
    ∃ t, settle s.cur i.len b (done ((s.issued b).uniform32 (s.ctx b i) d w)) = t ∧ WordFrame s t b i.len ∧
      UniformOnly s t b.team b.group [d] ∧ (t.group b.team b.group).sGet d = (if d = 0 then 0 else w) ∧
      (t.group b.team b.group).sBad d = false ∧ LatchEverywhere s t b i w := by
  obtain ⟨u, h1, h2, h3, h4⟩ := registerWord_spec s b i h (fun x => x.sSet d w)
    (fun _ x => { x with y := x.y.write (b.ipos % 4) w }) (fun g => Group.sSet_fixed g d w) _ rfl
  have hs : ∀ n, (u.group b.team b.group).sGet n = ((s.group b.team b.group).sSet d w).sGet n := fun n => by
    have := (h4 b.group).1; rw [if_pos rfl] at this
    simp only [Group.sGet, this]
  have hb : ∀ n, (u.group b.team b.group).sBad n = ((s.group b.team b.group).sSet d w).sBad n := fun n => by
    have := (h4 b.group).2; rw [if_pos rfl] at this
    simp only [Group.sBad, this]
  refine ⟨u, h1, h2, ⟨fun k hk => ?_, fun n hn => ?_⟩, ?_, ?_, fun m hm => ⟨_, Thread.latch_laneResult _ _ _, h3 m hm⟩⟩
  · have := h4 k; simpa [hk] using this
  · have hn : d ≠ n := fun hc => hn (by simp [hc])
    rw [hs, hb, Group.sGet_sSet, Group.sBad_sSet]; simp [hn]
  · rw [hs, Group.sGet_sSet]; by_cases hd : d = 0 <;> simp [hd]
  · rw [hb, Group.sBad_sSet, if_pos rfl]

/-- A uniform word with two results: d and d + 1, the first into the latch. -/
theorem uniformPair_spec (b : Bundle) (i : Instr) (d : Nat) (lo hi : Word) (h : Issues s b i) :
    ∃ t, settle s.cur i.len b (done ((s.issued b).uniformPair (s.ctx b i) d lo hi)) = t ∧ WordFrame s t b i.len ∧
      UniformOnly s t b.team b.group [d, d + 1] ∧ (t.group b.team b.group).sGet d = (if d = 0 then 0 else lo) ∧
      (t.group b.team b.group).sGet (d + 1) = hi ∧ (t.group b.team b.group).sBad d = false ∧
      (t.group b.team b.group).sBad (d + 1) = false ∧ LatchEverywhere s t b i lo := by
  obtain ⟨u, h1, h2, h3, h4⟩ := registerWord_spec s b i h (fun x => (x.sSet d lo).sSet (d + 1) hi)
    (fun _ x => { x with y := x.y.write (b.ipos % 4) lo })
    (fun g => ⟨(Group.sSet_fixed _ _ _).1.trans (Group.sSet_fixed _ _ _).1, (Group.sSet_fixed _ _ _).2.trans (Group.sSet_fixed _ _ _).2⟩)
    _ rfl
  have hs : ∀ n, (u.group b.team b.group).sGet n = (((s.group b.team b.group).sSet d lo).sSet (d + 1) hi).sGet n := fun n => by
    have := (h4 b.group).1; rw [if_pos rfl] at this
    simp only [Group.sGet, this]
  have hb : ∀ n, (u.group b.team b.group).sBad n = (((s.group b.team b.group).sSet d lo).sSet (d + 1) hi).sBad n := fun n => by
    have := (h4 b.group).2; rw [if_pos rfl] at this
    simp only [Group.sBad, this]
  refine ⟨u, h1, h2, ⟨fun k hk => ?_, fun n hn => ?_⟩, ?_, ?_, ?_, ?_, fun m hm => ⟨_, Thread.latch_laneResult _ _ _, h3 m hm⟩⟩
  · have := h4 k; simpa [hk] using this
  · have hn1 : d ≠ n := fun hc => hn (by simp [hc])
    have hn2 : d + 1 ≠ n := fun hc => hn (by simp [hc])
    rw [hs, hb, Group.sGet_sSet, Group.sBad_sSet, Group.sGet_sSet, Group.sBad_sSet]; simp [hn1, hn2]
  · rw [hs, Group.sGet_sSet, Group.sGet_sSet]; by_cases hd : d = 0 <;> simp [hd]
  · rw [hs, Group.sGet_sSet]; simp
  · rw [hb, Group.sBad_sSet, Group.sBad_sSet]; simp
  · rw [hb, Group.sBad_sSet]; simp

/-- A word that changes only the threads of its bundle, each by F. -/
theorem threadWord_spec (b : Bundle) (i : Instr) (h : Issues s b i) (F : Member → Thread → Thread) :
    ∃ t, settle s.cur i.len b
        (done (b.members.foldl (fun r m => r.updThread b.team m.1 m.2 (F m)) (s.issued b))) = t ∧
      WordFrame s t b i.len ∧ SameUniform s t b.team ∧
      ∀ m ∈ b.members, t.thread b.team m.1 m.2 = (F m (s.thread b.team m.1 m.2)).afterWord b i.len (s.core s.cur).clk.toNat := by
  have hthread : ∀ g l, (b.members.foldl (fun r m => r.updThread b.team m.1 m.2 (F m)) (s.issued b)).thread b.team g l =
      if (g, l) ∈ b.members then F (g, l) (s.thread b.team g l) else s.thread b.team g l := by
    intro g l
    rw [State.thread_foldl_updThread _ _ _ _ h.distinct]
    simp [State.issued]
  obtain ⟨u, h1, h2, h3, h4⟩ := word_frame s b i
    (b.members.foldl (fun r m => r.updThread b.team m.1 m.2 (F m)) (s.issued b)) h
    (State.foldl_updThread_machine _ _ _ _)
    (fun k hk => State.team_foldl_updThread_ne _ _ _ _ (Ne.symm hk))
    (State.team_foldl_updThread _ _ _ _ _)
    (fun g => by
      have := congrArg Group.fixed (State.group_foldl_updThread (s.issued b) b.team b.members F b.team g)
      exact this)
    (fun g l hgl => by rw [hthread, if_neg hgl])
  refine ⟨u, h1, h2, fun g => ?_, fun m hm => ?_⟩
  · have h5 := congrArg Group.s (State.group_foldl_updThread (s.issued b) b.team b.members F b.team g)
    have h6 := congrArg Group.sPoison (State.group_foldl_updThread (s.issued b) b.team b.members F b.team g)
    exact ⟨(h4 g).1.trans h5, (h4 g).2.trans h6⟩
  · rw [h3 m hm, hthread, if_pos hm]

/-- A per-lane word (R312): each thread has the result of f, computed from the state at issue. -/
theorem perThread_spec (b : Bundle) (i : Instr) (h : Issues s b i) (nw : Bool) (d : Nat) (wide : Bool)
    (f : Group → Thread → Env → Nat × Flags) :
    ∃ t, settle s.cur i.len b (done ((s.issued b).perThread (s.ctx b i) nw d wide f)) = t ∧
      WordFrame s t b i.len ∧ SameUniform s t b.team ∧
      ∀ m ∈ b.members, ∃ y, LaneResult (s.thread b.team m.1 m.2) y b.ipos nw d
          (wordOf (f (s.group b.team m.1) (s.thread b.team m.1 m.2) (s.env b.team m.1 m.2)).1)
          (if wide then some (highOf (f (s.group b.team m.1) (s.thread b.team m.1 m.2) (s.env b.team m.1 m.2)).1) else none)
          (f (s.group b.team m.1) (s.thread b.team m.1 m.2) (s.env b.team m.1 m.2)).2 ∧
        t.thread b.team m.1 m.2 = y.afterWord b i.len (s.core s.cur).clk.toNat := by
  obtain ⟨u, h1, h2, h3, h4⟩ := threadWord_spec s b i h (fun m x =>
    let r := f ((s.issued b).group b.team m.1) x ((s.issued b).env b.team m.1 m.2)
    (x.setFlags r.2).result b.ipos nw d (wordOf r.1) (if wide then some (highOf r.1) else none))
  exact ⟨u, h1, h2, h3, fun m hm => ⟨_, Thread.result_laneResult _ _ _ _ _ _ _, h4 m hm⟩⟩

end Sys2Proof.Machine
end

