-- ==== Sys2Proof/Tests/Slice0.lean ====
section
/-! SUPPORT. Tests. Encodings and expected results are written from the spec (its tables, its worked cases, or a calculation by hand from
them); the witnesses show, for each statement, a concrete state and operands that meet its hypotheses. -/

namespace Sys2Proof.Tests

open Sys2Proof Sys2Proof.Machine Sys2Proof.Claims

set_option Elab.async false

/-! ### A small machine -/

/-- One team of one group of 16 lanes, of which lanes 0 and 1 have not exited. -/
def lpb : Lpb := { t := 16, nv := 128, nu := 384, nt := 16, d8 := 1, e0 := 1, e1 := 1, e2 := 1, fabric := 2048, sbb := 1024 }

/-- Page tables: the first GiB of addresses is the first GiB of HBM, readable, writable and executable. -/
def tables : Sparse Byte := [(0x10000, 0x01), (0x10002, 0x02), (0x20000, 0x0F)]

/-- A clause of 15 words at 0x1000, its class mask S, V, M, X, A and Y, NR set. -/
def header : Word := 0xFFE0008A

/-- Thread l: v1 = l + 7, v2 = 3, v3 = −5, v4 = 1.5, v5 = −2.0, v8, v9 = an address's low bits, others 0. -/
def thread (l : Nat) : Thread :=
  { status := .ready, pc := 0x1000, v := [(1, BitVec.ofNat 32 (l + 7)), (2, 3), (3, 0xFFFFFFFB), (4, 0x3FC00000), (5, 0xC0000000)] }

def group : Group :=
  { live := true, threads := [(0, thread 0), (1, thread 1)], s := [(1, 7), (2, 0x2000), (4, 5), (5, 0xFFFFFFFE), (6, 0x40000000)] }

def bundle : Bundle := { team := 5, members := [(0, 0), (0, 1)], pc := 0x1000, header := header, words := [] }

def machine (p : Lpb) (x : Launch) (t : Team) (g : Group) (b : Bundle) (tn : Tenant) : State :=
  { State.reset with
    nextId := 100
    hbm := tables
    tenants := [(1, { tn with tnptb := 0x10001, fwbase := 0x40000001, fwperm := [(0, 0xFFFFFFFF)] })]
    partitions := [(0, { tenant := 1, valid := true })]
    launches := [(6, { x with live := true, tenant := 1, lpb := p, total := 1, next := 1 })]
    teams := [(5, { t with live := true, tenant := 1, launch := 6, groups := [(0, g)], region := p.region, started := true })]
    cores := [(0, { bundle := some b })] }

def demo : State := machine lpb {} {} group bundle {}

/-- Issues, as a test. -/
def issuesNow (s : State) (b : Bundle) (i : Instr) : Bool :=
  decide ((s.core s.cur).bundle = some b) && decide (b.members ≠ []) && decide b.members.Nodup &&
    b.members.all (fun m => !s.remoteWait b.team m && !s.wordWait b.team m) &&
    ((useOf (s.lpbOf b.team).w i).cause b i.len (s.lpbOf b.team) (s.core s.cur).feat (s.anyTrapped b) i.wf).isNone &&
    !s.waits b (useOf (s.lpbOf b.team).w i) && b.members.all (fun m => (s.ownCause b.team (useOf (s.lpbOf b.team).w i) m).isNone)

theorem issues_of (s : State) (b : Bundle) (i : Instr) (h : issuesNow s b i = true) : Issues s b i := by
  simp only [issuesNow, Bool.and_eq_true, decide_eq_true_eq, List.all_eq_true, Bool.not_eq_true', Option.isNone_iff_eq_none] at h
  obtain ⟨⟨⟨⟨⟨⟨h1, h2⟩, h3⟩, h4⟩, h5⟩, h6⟩, h7⟩ := h
  exact ⟨h1, h2, h3, h4, h5, h6, h7⟩

/-- The state a step of exec answers, if it answers one. -/
def after (i : Instr) (s : State) : State :=
  match exec i s with
  | .next t => t
  | _ => s

def isNext (i : Instr) (s : State) : Bool :=
  match exec i s with
  | .next _ => true
  | _ => false

/-- What vn of lane l holds after the word i. -/
def laneAfter (i : Instr) (s : State) (l n : Nat) : Word := ((after i s).thread 5 0 l).vGet n
/-- What sn holds after the word i. -/
def uniformAfter (i : Instr) (s : State) (n : Nat) : Word := ((after i s).group 5 0).sGet n


/-! ### Decoding: a word of every constructor, written from the fields that spec 14 and spec/opcode_table.json give it -/

/-- Each word, with the word after it, decodes to its instruction. -/
def decodesAll (ws : List (Word × Option Word × Instr)) : Bool := ws.all (fun r => decide (decodeWords r.1 r.2.1 = .ok r.2.2))

theorem test_decode_control : decodesAll [
    (0x00000000, none, .nop),
    (0x00020000, none, .exit),
    (0x00040000, none, .yield),
    (0x00060000, none, .tret),
    (0x00080005, none, .trap 5),
    (0x02000005, none, .joinEnrol 5),
    (0x02020005, none, .joinPark 5),
    (0x02040005, none, .joinStrike 5),
    (0x02060605, none, .joinTest 6 5)] = true := by decide +kernel

theorem test_decode_scalar : decodesAll [
    (0x04068123, none, .smovi 6 33059),
    (0x06068123, none, .smovh 6 33059),
    (0x08068123, none, .saddi 6 33059),
    (0x0C060480, none, .smov 6 9),
    (0x0C060481, none, .sclz 6 9),
    (0x0C060482, none, .spopc 6 9),
    (0x0E06048B, none, .sadd 6 9 (.short 11)),
    (0x1006048B, none, .ssub 6 9 (.short 11)),
    (0x1206048B, none, .smul 6 9 (.short 11)),
    (0x1406048B, none, .smulh 6 9 (.short 11)),
    (0x1606048B, none, .sand 6 9 (.short 11)),
    (0x1806048B, none, .sor 6 9 (.short 11)),
    (0x1A06048B, none, .sxor 6 9 (.short 11)),
    (0x1C06048B, none, .sandn 6 9 (.short 11))] = true := by decide +kernel

theorem test_decode_scalar2 : decodesAll [
    (0x1E06048B, none, .sshl 6 9 (.short 11)),
    (0x2006048B, none, .sshr 6 9 (.short 11)),
    (0x2206048B, none, .ssar 6 9 (.short 11)),
    (0x2406048B, none, .smin 6 9 (.short 11)),
    (0x2606048B, none, .smax 6 9 (.short 11)),
    (0x2806048B, none, .sminz 6 9 (.short 11)),
    (0x2A06048B, none, .smaxz 6 9 (.short 11)),
    (0x3006048B, none, .sadd64 6 9 (.short 11)),
    (0x3206048B, none, .ssub64 6 9 (.short 11)),
    (0x0A050000, some 0x7FC00000, .sldc 5 0x7FC00000),
    (0x140604FF, some 0x0001012C, .smulhS32 6 9 (.ext ⟨0, 1, 0, 0, 300⟩)),
    (0x0E0604FF, some 0x0000012C, .sadd 6 9 (.ext ⟨0, 0, 0, 0, 300⟩)),
    (0x2C0604FF, some 0x00000D2C, .scmp 6 9 ⟨0, 0, 0, 6, 300⟩),
    (0x2E0604FF, some 0x0968012C, .ssel 6 9 ⟨301, 0, 0, 0, 300⟩)] = true := by decide +kernel

theorem test_decode_branch : decodesAll [
    (0x34000005, none, .bra 5),
    (0x350A8005, none, .bru 133 2 5),
    (0x36080600, none, .sget 4 6),
    (0x36240901, none, .sset 18 9),
    (0x390A8005, none, .brt 133 2 5),
    (0x3A000085, none, .modeset 133),
    (0x3A020006, none, .modeget 6),
    (0x3A020086, none, .modegetFlags 6),
    (0x3A040600, none, .clk 6),
    (0x3C000005, none, .call 5),
    (0x3F0A0000, none, .brx 133),
    (0x3F0A4000, none, .callx 133),
    (0x3E008000, none, .ret),
    (0x34002000, some 0x12345678, .braLong 0x12345678)] = true := by decide +kernel

theorem test_decode_branch2 : decodesAll [
    (0x350AA000, some 0xFFFFFFF0, .bruLong 0x85 2 0xFFFFFFF0),
    (0x3809A000, some 0x00000010, .brtLong 4 6 0x10),
    (0x3C002000, some 0x00000010, .callLong 0x10)] = true := by decide +kernel

theorem test_decode_integer : decodesAll [
    (0x410C1216, none, .vadd true 6 9 11 none),
    (0x430C1216, none, .vsub true 6 9 11 none),
    (0x450C1216, none, .vmul true 6 9 11 none),
    (0x470C1216, none, .vmulh true 6 9 11 none),
    (0x4B0C1216, none, .vand true 6 9 11 none),
    (0x4D0C1216, none, .vor true 6 9 11 none),
    (0x4F0C1216, none, .vxor true 6 9 11 none),
    (0x510C1216, none, .vshl true 6 9 11 none),
    (0x530C1216, none, .vshr true 6 9 11 none),
    (0x550C1216, none, .vsar true 6 9 11 none),
    (0x570C1216, none, .vmin true 6 9 11 none),
    (0x590C1216, none, .vmax true 6 9 11 none),
    (0x5B0C1200, none, .vnot true 6 9 none),
    (0x5B0C1204, none, .vneg true 6 9 none)] = true := by decide +kernel

theorem test_decode_integer2 : decodesAll [
    (0x5B0C1206, none, .vclz true 6 9 none),
    (0x5B0C1208, none, .vpopc true 6 9 none),
    (0x5B0C120A, none, .vbrev true 6 9 none),
    (0x650C1216, none, .vdiv true 6 9 11 none),
    (0x670C1216, none, .vrem true 6 9 11 none),
    (0x410C1217, some 0x00310000, .vaddsat true 6 9 11 ⟨0, .s16, 0, true, 0⟩),
    (0x430C1217, some 0x00410000, .vsubsat true 6 9 11 ⟨0, .z8, 0, true, 0⟩),
    (0x490C1217, some 0x0C100000, .vmad true 6 9 11 ⟨12, .s32, 0, false, 0⟩),
    (0x5B0C1203, some 0x00100000, .vabs true 6 9 (some ⟨0, .s32, 0, false, 0⟩)),
    (0x5D0C1217, some 0x00160000, .vcmp true 6 9 11 ⟨0, .s32, 3, false, 0⟩),
    (0x5F0C1217, some 0x0C600000, .vsel true 6 9 11 ⟨12, .z64, 0, false, 0⟩),
    (0x610C1217, some 0x0C100000, .vbfe true 6 9 11 ⟨12, .s32, 0, false, 0⟩),
    (0x630C1217, some 0xDE000508, .vbfi true 6 9 11 ⟨222, .z32, 0, false, 1288⟩)] = true := by decide +kernel

theorem test_decode_float : decodesAll [
    (0x690C1216, none, .fadd true 6 9 11 none),
    (0x6B0C1216, none, .fsub true 6 9 11 none),
    (0x6D0C1216, none, .fmul true 6 9 11 none),
    (0x710C1216, none, .fmin true 6 9 11 none),
    (0x730C1216, none, .fmax true 6 9 11 none),
    (0x750C1200, none, .fabs true 6 9 none),
    (0x750C1202, none, .fneg true 6 9 none),
    (0x750C1204, none, .fclass true 6 9 none),
    (0x750C1206, none, .frnd true 6 9 none),
    (0x750C1208, none, .frcp true 6 9 none),
    (0x750C120A, none, .frsq true 6 9 none),
    (0x750C120C, none, .fsqrt true 6 9 none),
    (0x750C120E, none, .flog2 true 6 9 none),
    (0x750C1210, none, .fsin true 6 9 none)] = true := by decide +kernel

theorem test_decode_float2 : decodesAll [
    (0x750C1212, none, .fcos true 6 9 none),
    (0x790C1216, none, .fscale true 6 9 11 none),
    (0x6F0C1217, some 0x0CF40000, .ffma true 6 9 11 ⟨12, .bf16x2, 2, false, 0⟩),
    (0x770C1217, some 0x009E0000, .fcmp true 6 9 11 ⟨0, .f64, 7, false, 0⟩),
    (0x7B0C1217, some 0x0C800000, .fexp2s true 6 9 11 ⟨12, .f32, 0, false, 0⟩),
    (0x7D0C1211, some 0x00C80000, .cvt true 6 9 .f32 ⟨0, .t8, 4, false, 0⟩),
    (0x7F0C1217, some 0x0CD00000, .vpack true 6 9 11 ⟨12, .t6, 0, false, 0⟩),
    (0x810C1217, some 0x00500000, .vunpk true 6 9 11 ⟨0, .s8, 0, false, 0⟩),
    (0x680C1217, some 0x00820000, .fadd false 6 9 11 (some ⟨0, .f32, 1, false, 0⟩))] = true := by decide +kernel

theorem test_decode_cross : decodesAll [
    (0x830C1216, none, .vshfl true 6 9 11 none),
    (0x850C1216, none, .vshfx true 6 9 11 none),
    (0x870C1216, none, .vshfup true 6 9 11 none),
    (0x890C1216, none, .vshfdn true 6 9 11 none),
    (0x8B0C1216, none, .vbcst true 6 9 11 none),
    (0x8D0C120A, none, .vred true 6 9 5 none),
    (0x8F0C120A, none, .vscan true 6 9 5 none),
    (0x910C1200, none, .vballot true 6 9),
    (0x930C1204, none, .vvote true 6 9 2),
    (0x950C1200, none, .rand true 6 9 none),
    (0x970C1216, none, .rebal true 6 9 11 none),
    (0x990C1217, some 0x89800000, .vtopk true 6 9 11 ⟨137, .f32, 0, false, 0⟩)] = true := by decide +kernel

theorem test_decode_memory : decodesAll [
    (0xA00C0F00, none, .ld32 6 7 128 none),
    (0xA20C0F00, none, .ld64 6 7 128 none),
    (0xA40C0F00, none, .st32 6 7 128 none),
    (0xA60C0F00, none, .st64 6 7 128 none),
    (0xA80C0F00, none, .ldf32 6 7 128 none),
    (0xAA0C0F00, none, .ldf64 6 7 128 none),
    (0xAC0C0F00, none, .stf32 6 7 128 none),
    (0xAE0C0F00, none, .stf64 6 7 128 none),
    (0xB006048B, none, .ldu 6 9 (.short 11)),
    (0xBBA20000, none, .fence true 2 4 1),
    (0xBC040005, none, .waitc 2 5),
    (0xBE000000, none, .drain),
    (0xC000048B, none, .push 9 (.short 11)),
    (0xC206048B, none, .pusht 6 9 (.short 11))] = true := by decide +kernel

theorem test_decode_memory2 : decodesAll [
    (0xC4060480, none, .pop 6 9),
    (0xC6060480, none, .popt 6 9),
    (0xC800048B, none, .reinOpen 9 (.short 11)),
    (0xCA000480, none, .reinClose 9),
    (0xCC000F00, none, .pref 7 128 none),
    (0xB30C0F01, some 0xFFF8A394, .atom true 6 7 0x80 ⟨32764, 2, 4, 7, 20⟩),
    (0xB4000F01, some 0x0010C894, .red 7 0x80 ⟨8, 3, 1, 1, 20⟩),
    (0xB60C0E0B, some 0x0010C014, .atomCas false 6 7 5 ⟨8, 3, 0, 0, 20⟩),
    (0xB80C0E0B, some 0x0010C014, .atomCas64 false 6 7 5 ⟨8, 3, 0, 0, 20⟩),
    (0xCE282811, some 0x0000003C, .sweep 20 20 8 60),
    (0xA00C0E0B, some 0xAAFFFFFC, .ld32 6 7 5 (some ⟨true, 1, 1, 2, 0xFFFFFC⟩))] = true := by decide +kernel

theorem test_decode_copy : decodesAll [
    (0xD0060482, none, .cpy 6 9 (.short 2)),
    (0xD2060482, none, .cpySb 6 9 (.short 2)),
    (0xD4060482, none, .cpy2d 6 9 (.short 2)),
    (0xD6060482, none, .cpy2dSb 6 9 (.short 2)),
    (0xD80C0F00, none, .gath 6 7 128 none),
    (0xDA0C0F00, none, .scat 6 7 128 none),
    (0xDC060482, none, .xcpy 6 9 (.short 2)),
    (0xDE1E107F, some 0x01247022, .xred 0x1E 0x20 ⟨36, 4, 7, 0, 34⟩)] = true := by decide +kernel

theorem test_decode_matrix : decodesAll [
    (0xE8C00E16, none, .tld 6 7 11 none),
    (0xEAC00E16, none, .tst 6 7 11 none),
    (0xECC00000, none, .tzero 6),
    (0xECC40002, none, .tmov 6 2),
    (0xECC00004, none, .twait 6),
    (0xEC001206, none, .tstat 9),
    (0xEC04280A, none, .msearch 2 20),
    (0xEE000E06, none, .resv 7 3),
    (0xEE200E00, none, .rels 7),
    (0xEE400E06, none, .rqry 7 3),
    (0xEE600E00, none, .gang 7),
    (0xE0220021, some 0x10800002, .mma 1 1 0 16 ⟨33, 0, false, false, false, 2⟩),
    (0xE200181B, some 0x00000600, .mmab 0 0 12 13 ⟨0, 0, true, true, false, 0⟩),
    (0xE444181B, some 0x00000600, .mmag 2 2 12 13 ⟨0, 0, true, true, false, 0⟩)] = true := by decide +kernel

theorem test_decode_matrix2 : decodesAll [
    (0xE622181B, some 0x00014600, .smma 1 1 12 13 ⟨0, 20, true, true, false, 0⟩),
    (0xEC880009, some 0x0000000B, .tcvt 4 4 ⟨0, 0, false, false, false, 11⟩),
    (0xE8600E0B, some 0x00000008, .tld 3 7 5 (some ⟨0, 0, false, false, false, 8⟩))] = true := by decide +kernel

theorem test_decode_system : decodesAll [
    (0xF0000607, none, .launch 6 7),
    (0xF0020602, none, .lwait 6 2),
    (0xF0040602, none, .lstat 6 2),
    (0xF2000600, none, .seamPos 6),
    (0xF2020000, none, .seamDone),
    (0xF2040685, none, .seamQry 6 133),
    (0xF4000415, none, .islLink 4 1 5),
    (0xF4020405, none, .islUnlink 4 5),
    (0xF4040600, none, .islStep 6),
    (0xF4060615, none, .islInfo 6 1 5),
    (0xF4080000, none, .islStill),
    (0xF40A0405, none, .islWake 4 5),
    (0xF6008500, none, .stampMix 133),
    (0xF6020400, none, .stampGet 4)] = true := by decide +kernel

theorem test_decode_system2 : decodesAll [
    (0xF8000702, none, .evtpost 7 2),
    (0xFA000685, none, .skvGet 6 133),
    (0xFA020685, none, .pctr 6 1 5),
    (0xFA040600, none, .feat 6),
    (0xFC000000, none, .halt)] = true := by decide +kernel

/-! ### Ill-formed instructions: each check of order 2 (R284) refuses a term -/

def refusesAll (l : List (Instr × Defect)) : Bool := l.all (fun r => decide (r.1.defect = some r.2) && !r.1.wf)

theorem test_illFormed_types : refusesAll [
    (.vabs false 6 1 none, .type), (.vadd false 6 1 2 (some ⟨0, .f32, 0, false, 0⟩), .type), (.fadd false 6 4 5 (some ⟨0, .t8, 0, false, 0⟩), .type),
    (.frcp false 6 4 (some ⟨0, .f16, 0, false, 0⟩), .type), (.cvt false 6 4 .f16x2 ⟨0, .f32, 0, false, 0⟩, .type),
    (.vred false 6 1 6 (some ⟨0, .z32, 0, false, 0⟩), .type), (.tld 3 1 0xD0 (some ⟨0, 0, false, false, false, 12⟩), .type),
    (.ldu 6 2 (.ext ⟨0, 6, 0, 0, 0⟩), .type)] = true := by decide
theorem test_illFormed_codes : refusesAll [
    (.fadd false 6 4 5 (some ⟨0, .f32, 5, false, 0⟩), .round), (.vadd false 6 1 2 (some ⟨0, .z32, 1, false, 0⟩), .round),
    (.vcmp false 6 1 2 ⟨0, .z32, 6, false, 0⟩, .condition), (.bru 3 7 5, .condition), (.brt 3 0 5, .condition),
    (.vaddsat false 6 1 2 ⟨0, .z32, 0, false, 0⟩, .saturate), (.ffma false 6 4 5 ⟨4, .f32, 0, true, 0⟩, .saturate),
    (.vvote false 6 1 3, .operation), (.vred false 6 1 9 none, .operation), (.atom false 5 5 0x80 ⟨0, 4, 0, 8, 2⟩, .operation),
    (.red 5 0x80 ⟨0, 4, 0, 6, 2⟩, .operation)] = true := by decide
theorem test_illFormed_fields : refusesAll [
    (.ffma false 6 4 5 ⟨4, .f32, 0, false, 7⟩, .unused), (.vadd false 6 1 2 (some ⟨3, .z32, 0, false, 0⟩), .unused),
    (.scmp 6 4 ⟨0, 0, 1, 0, 5⟩, .unused), (.ssel 6 4 ⟨0, 0, 0, 1, 5⟩, .unused), (.mma 2 1 8 24 ⟨0, 0, false, false, true, 0⟩, .unused),
    (.atomCas true 6 7 5 ⟨8, 3, 0, 0, 20⟩, .unused), (.mma 2 0 8 24 ⟨0, 1, false, false, false, 0⟩, .unused), (.ld64 6 7 5 (some ⟨false, 1, 0, 2, 0⟩), .size),
    (.ld32 6 7 5 (some ⟨true, 0, 0, 2, 0⟩), .size), (.st32 6 7 5 (some ⟨true, 1, 0, 2, 0⟩), .size), (.ld32 6 7 5 (some ⟨false, 0, 3, 2, 0⟩), .hint),
    (.ldf32 6 7 5 (some ⟨false, 0, 1, 2, 0⟩), .hint), (.sadd 6 4 (.short 127), .form), (.bra 0x2000, .form),
    (.mmab 2 0 8 24 ⟨0, 0, false, false, true, 0⟩, .form)] = true := by decide

/-- Words that decode to nothing: an unassigned slot, an unlisted sub-function, a nonzero unused field, an extension that is not there. -/
def rejectsAll (l : List (Word × Option Word × DecodeError)) : Bool := l.all (fun r => decide (decodeWords r.1 r.2.1 = .error r.2.2))
theorem test_rejects : rejectsAll [
    (0xFE000000, none, .unassigned 0x7F), (0x02080005, none, .subFunction 1), (0x00000001, none, .field 0),
    (0xFC000001, none, .field 0x7E)] = true := by decide

/-! ### Witnesses: control words, vector words, memory -/

theorem none_in {P : Flight → Prop} : ∀ f ∈ ([] : List Flight), P f := by simp

theorem uniform_issues : issuesNow demo bundle (.sadd 7 4 (.short 5)) = true := by decide +kernel
theorem witness_uniform : Issues demo bundle (.sadd 7 4 (.short 5)) ∧
    uniformValue (demo.group 5 0) (.sadd 7 4 (.short 5)) = some (7, BitVec.ofNat 32 (5 + 0xFFFFFFFE)) :=
  ⟨issues_of _ _ _ uniform_issues, rfl⟩

theorem pair_issues : issuesNow demo bundle (.sadd64 8 4 (.short 4)) = true := by decide +kernel
theorem witness_uniformPair : Issues demo bundle (.sadd64 8 4 (.short 4)) ∧
    (uniformPairValue demo bundle (.sadd64 8 4 (.short 4))).isSome = true := ⟨issues_of _ _ _ pair_issues, rfl⟩

theorem special_issue : issuesNow demo bundle (.sget 2 12) = true ∧ issuesNow demo bundle (.sset 18 4) = true ∧
    issuesNow demo bundle (.sset 18 2) = true ∧ issuesNow demo bundle (.modeget 6) = true := by decide +kernel
theorem witness_specials : Issues demo bundle (.sget 2 12) ∧
    (Issues demo bundle (.sset 18 4) ∧ ((demo.group 5 0).sGet 4).toNat < 256) ∧
    (Issues demo bundle (.sset 18 2) ∧ 256 ≤ ((demo.group 5 0).sGet 2).toNat) ∧ Issues demo bundle (.modeget 6) :=
  ⟨issues_of _ _ _ special_issue.1, ⟨issues_of _ _ _ special_issue.2.1, by decide +kernel⟩, ⟨issues_of _ _ _ special_issue.2.2.1, by decide +kernel⟩,
    issues_of _ _ _ special_issue.2.2.2⟩

/-- The last word of a clause of one word. -/
def lastHeader : Word := 0x1FE0008A
def closing : Bundle := { bundle with header := lastHeader }
/-- The clause that the bundle's branch targets: a header and one NOP at 0x1004. -/
def branchDemo (p : Lpb) (g : Group) (b : Bundle) (tn : Tenant) : State :=
  { machine p {} {} g b tn with hbm := Sparse.putList 0 tables 0x1000 (leBytes 4 0x1FE0008A ++ leBytes 4 0x1FE0008A ++ leBytes 4 0x1FE0008A) }
def closes : State := branchDemo lpb group closing {}

theorem closing_issues : issuesNow closes closing (.bra 0) = true ∧ issuesNow closes closing (.call 0) = true ∧
    issuesNow closes closing (.modeset 0x84) = true ∧ issuesNow closes closing .yield = true ∧ issuesNow closes closing .exit = true ∧
    issuesNow closes closing (.joinPark 1) = true ∧ issuesNow closes closing (.trap 3) = true := by decide +kernel

theorem branch_target : (closes.target 0 1 6 0x1004).1 = .ok () ∧ ((closes.target 0 1 6 0x1004).2.target 0 1 6 0x1004 (closes.noteLookup 0 1 0x1004 4 false [])).1 = .ok () := by decide +kernel

theorem witness_branch : Issues closes closing (.bra 0) ∧ Claims.branchOf closes closing (.bra 0) = some (fun _ => True, fun _ => fromBranch closing 0) ∧
    TargetsPass 0 1 6 (closing.members.map (fun _ => fromBranch closing 0)) closes [] :=
  ⟨issues_of _ _ _ closing_issues.1, rfl, branch_target.1, branch_target.2, trivial⟩

theorem witness_call : Issues closes closing (.call 0) ∧ callOf closes closing (.call 0) = some (fun _ => fromBranch closing 0) ∧
    (∀ m ∈ closing.members, (closes.thread 5 m.1 m.2).depth ≠ (closes.lpbOf 5).d) ∧
    TargetsPass 0 1 6 (closing.members.map (fun _ => fromBranch closing 0)) closes [] :=
  ⟨issues_of _ _ _ closing_issues.2.1, rfl, by decide +kernel, branch_target.1, branch_target.2, trivial⟩

def called : State := branchDemo lpb
  { group with threads := [(0, { thread 0 with depth := 1, frames := [(0, 0x1004)] }), (1, { thread 1 with depth := 1, frames := [(0, 0x1004)] })] }
  closing {}
theorem ret_issues : issuesNow called closing .ret = true ∧ (called.target 0 1 6 0x1004).1 = .ok () ∧
    ((called.target 0 1 6 0x1004).2.target 0 1 6 0x1004 (called.noteLookup 0 1 0x1004 4 false [])).1 = .ok () := by decide +kernel
theorem witness_ret : Issues called closing .ret ∧ (∀ m ∈ closing.members, (called.thread 5 m.1 m.2).depth ≠ 0) ∧
    TargetsPass 0 1 6 (closing.members.map (fun m => (called.thread 5 m.1 m.2).frames.get 0 ((called.thread 5 m.1 m.2).depth - 1))) called [] :=
  ⟨issues_of _ _ _ ret_issues.1, by decide +kernel, ret_issues.2.1, ret_issues.2.2, trivial⟩

/-- Each check of a target fails or passes somewhere: bits [63:52]; alignment; the fabric window; translation; a header that is none; a header. -/
theorem witness_targets :
    (BitVec.extractLsb' 52 12 (0x10000000000000#64) ≠ 0) ∧
    (BitVec.extractLsb' 52 12 (0x1002#64) = 0 ∧ (0x1002#64).toNat % 4 ≠ 0) ∧
    (closes.inWindow 1 0x40000000 = true) ∧ (closes.inWindow 1 0x1004 = false) ∧
    ((closes.globalLoc 0 1 0x80000000 .fetch true).1 = .error (.trap .pageFault)) ∧
    ((closes.globalLoc 0 1 0x1004 .fetch true).1 = .ok (.hbm 0x1004 false)) ∧
    headerOk (leWord (closes.memBytes (.hbm 0x1004 false) 4)) = true ∧ headerOk (leWord (closes.memBytes (.hbm 0x2000 false) 4)) = false := by
  decide +kernel

theorem witness_modeset : Issues closes closing (.modeset 0x84) ∧ ∀ m ∈ closing.members, (wordIn closes closing m 0x84).toNat < 8 :=
  ⟨issues_of _ _ _ closing_issues.2.2.1, by decide +kernel⟩
theorem witness_closingWords : Issues closes closing .yield ∧ Issues closes closing .exit ∧ Issues closes closing (.joinPark 1) ∧
    (Issues closes closing (.trap 3) ∧ (∀ m ∈ closing.members, (closes.thread 5 m.1 m.2).inTrap = false)) :=
  ⟨issues_of _ _ _ closing_issues.2.2.2.1, issues_of _ _ _ closing_issues.2.2.2.2.1, issues_of _ _ _ closing_issues.2.2.2.2.2.1,
    issues_of _ _ _ closing_issues.2.2.2.2.2.2, by decide +kernel⟩

theorem join_issue : issuesNow demo bundle (.joinEnrol 1) = true ∧ issuesNow demo bundle (.joinStrike 1) = true ∧
    issuesNow demo bundle .nop = true := by decide +kernel
theorem witness_joins : Issues demo bundle (.joinEnrol 1) ∧ Issues demo bundle (.joinStrike 1) ∧ Issues demo bundle .nop :=
  ⟨issues_of _ _ _ join_issue.1, issues_of _ _ _ join_issue.2.1, issues_of _ _ _ join_issue.2.2⟩

/-! Vector words -/

theorem vector_issue : issuesNow demo bundle (.vadd false 6 1 2 none) = true ∧ issuesNow demo bundle (.fadd false 6 4 5 none) = true ∧
    issuesNow demo bundle (.vred false 6 1 0 none) = true ∧ issuesNow demo bundle (.rand false 6 0x84 none) = true := by decide +kernel
theorem witness_integer : Issues demo bundle (.vadd false 6 1 2 none) ∧
    ∀ m ∈ bundle.members, (integerLane demo bundle m (.vadd false 6 1 2 none)).isSome = true := ⟨issues_of _ _ _ vector_issue.1, fun _ _ => rfl⟩
theorem witness_float : Issues demo bundle (.fadd false 6 4 5 none) ∧
    ∀ m ∈ bundle.members, (floatLane demo bundle m (.fadd false 6 4 5 none)).isSome = true := ⟨issues_of _ _ _ vector_issue.2.1, fun _ _ => rfl⟩
theorem witness_crossLane : Issues demo bundle (.vred false 6 1 0 none) ∧ Claims.Bundle.InOrder bundle ∧
    (∀ m ∈ bundle.members, m.2 < (demo.lpbOf 5).w) ∧ (crossLane demo bundle (.vred false 6 1 0 none)).isSome = true ∧
    lowestCode (.vred false 6 1 0 none) = none := by
  refine ⟨issues_of _ _ _ vector_issue.2.2.1, ?_, by decide +kernel, rfl, rfl⟩
  unfold Claims.Bundle.InOrder
  decide
/-- VTOPK from a full bundle, whose k and count are read in the lowest thread. -/
theorem topk_issues : issuesNow demo bundle (.vtopk false 6 1 4 ⟨0x84, .f32, 0, false, 0⟩) = true ∧ (∀ m ∈ bundle.members, ∀ l, l < (demo.lpbOf 5).w →
      (demo.thread 5 m.1 l).status = .exited ∨ (m.1, l) ∈ bundle.members) ∧ (∀ m ∈ bundle.members, m.2 = (partLanes demo bundle m.1).headD 0 → demo.oneCause 5 ⟨0x84, 32⟩ m = none) := by
  decide +kernel
theorem witness_topk : Issues demo bundle (.vtopk false 6 1 4 ⟨0x84, .f32, 0, false, 0⟩) ∧
    (crossLane demo bundle (.vtopk false 6 1 4 ⟨0x84, .f32, 0, false, 0⟩)).isSome = true ∧
    (∀ o, lowestCode (.vtopk false 6 1 4 ⟨0x84, .f32, 0, false, 0⟩) = some o → ∀ m ∈ bundle.members,
      m.2 = (partLanes demo bundle m.1).headD 0 → demo.oneCause 5 o m = none) ∧
    ∀ m ∈ bundle.members, ∀ l, l < (demo.lpbOf 5).w → (demo.thread 5 m.1 l).status = .exited ∨ (m.1, l) ∈ bundle.members :=
  ⟨issues_of _ _ _ topk_issues.1, rfl, fun o h => by cases h; exact topk_issues.2.2, topk_issues.2.1⟩
theorem witness_rand : Issues demo bundle (.rand false 6 0x84 none) := issues_of _ _ _ vector_issue.2.2.2

/-- 1.5 and −2.0 are finite, their sum and product are not 0; 0x7F800001 is a signalling NaN. -/
theorem witness_arithmetic : IsFormat fmtF32 ∧ (floatVal fmtF32 0x3FC00000).isSome = true ∧ (floatVal fmtF32 0xC0000000).isSome = true ∧
    (0x7F800001 / 2 ^ 23 % 2 ^ 8 = 2 ^ 8 - 1 ∧ 0x7F800001 % 2 ^ 23 ≠ 0) := by
  refine ⟨?_, rfl, rfl, by decide⟩
  simp [IsFormat]

/-! Loads and stores -/

theorem memory_issue : issuesNow demo bundle (.ld32 6 1 1 none) = true ∧ issuesNow demo bundle (.st32 2 1 1 none) = true ∧
    issuesNow demo bundle (.gath 6 1 1 none) = true ∧ issuesNow demo bundle (.ldu 6 2 (.short 4)) = true := by decide +kernel

def load1 : LaneAccess := ⟨6, 1, 1, 4, 0, false, true, false, false⟩
def store1 : LaneAccess := ⟨2, 1, 1, 4, 0, false, true, false, false⟩

theorem load_checked : (checked demo bundle (.ld32 6 1 1 none) load1 .read 1).traps = [] ∧
    (checked demo bundle (.ld32 6 1 1 none) load1 .read 1).walkPoison = false ∧
    (checked demo bundle (.ld32 6 1 1 none) load1 .read 1).accs =
      [⟨(0, 0), 0x201C, .mem (.hbm 0x201C false)⟩, ⟨(0, 1), 0x2020, .mem (.hbm 0x2020 false)⟩] := by decide +kernel
theorem witness_loads : Issues demo bundle (.ld32 6 1 1 none) ∧ loadOf (.ld32 6 1 1 none) = some load1 ∧ load1.counted = false ∧
    (checked demo bundle (.ld32 6 1 1 none) load1 .read 1).traps = [] ∧
    (checked demo bundle (.ld32 6 1 1 none) load1 .read 1).walkPoison = false ∧ (demo.lpbOf 5).det = false :=
  ⟨issues_of _ _ _ memory_issue.1, rfl, rfl, load_checked.1, load_checked.2.1, rfl⟩
theorem witness_gather : Issues demo bundle (.gath 6 1 1 none) ∧ (loadOf (.gath 6 1 1 none)).isSome = true ∧
    ∀ g ∈ groupsOf bundle, (demo.group 5 g).counters.get 0 1 < 63 := ⟨issues_of _ _ _ memory_issue.2.2.1, rfl, by decide +kernel⟩

theorem store_checked : (checked demo bundle (.st32 2 1 1 none) store1 .write 2).traps = [] ∧
    (checked demo bundle (.st32 2 1 1 none) store1 .write 2).walkPoison = false ∧
    (checked demo bundle (.st32 2 1 1 none) store1 .write 2).accs =
      [⟨(0, 0), 0x201C, .mem (.hbm 0x201C false)⟩, ⟨(0, 1), 0x2020, .mem (.hbm 0x2020 false)⟩] ∧ demo.stages 5 = false ∧
    demo.doneGuard 5 0 = false ∧ (demo.team 5).stgUsed ≤ (demo.lpbOf 5).stgBytes := by decide +kernel
theorem witness_stores : Issues demo bundle (.st32 2 1 1 none) ∧ storeOf (.st32 2 1 1 none) = some store1 ∧
    (∀ a ∈ (checked demo bundle (.st32 2 1 1 none) store1 .write 2).accs, ∃ l, a.place = .mem l ∧
      (l.isFabric ∨ demo.stages 5 = false ∧ demo.doneGuard 5 a.m.1 = false)) := by
  refine ⟨issues_of _ _ _ memory_issue.2.1, rfl, ?_⟩
  rw [store_checked.2.2.1]
  intro a h
  simp only [List.mem_cons, List.not_mem_nil, or_false] at h
  rcases h with rfl | rfl
  · exact ⟨_, rfl, .inr ⟨store_checked.2.2.2.1, store_checked.2.2.2.2.1⟩⟩
  · exact ⟨_, rfl, .inr ⟨store_checked.2.2.2.1, store_checked.2.2.2.2.1⟩⟩

/-- A team of a DET launch that does not hold the ticket. -/
def lpbDet : Lpb := { lpb with det := true }
def detDemo : State := machine lpbDet { ticket := 0 } { index := 1 } group bundle {}
theorem det_checked : issuesNow detDemo bundle (.st32 2 1 1 none) = true ∧
    (checked detDemo bundle (.st32 2 1 1 none) store1 .write 2).traps = [] ∧
    (checked detDemo bundle (.st32 2 1 1 none) store1 .write 2).accs =
      [⟨(0, 0), 0x201C, .mem (.hbm 0x201C false)⟩, ⟨(0, 1), 0x2020, .mem (.hbm 0x2020 false)⟩] ∧ detDemo.stages 5 = true ∧
    detDemo.doneGuard 5 0 = false ∧ (detDemo.team 5).stgUsed + (24 + 24) ≤ (detDemo.lpbOf 5).stgBytes := by decide +kernel
theorem witness_staged : Issues detDemo bundle (.st32 2 1 1 none) ∧ store1.counted = false ∧ detDemo.stages 5 = true ∧
    (∀ f ∈ detDemo.flights, f.team ≠ 5) ∧
    (detDemo.team 5).stgUsed + ((checked detDemo bundle (.st32 2 1 1 none) store1 .write 2).accs.map (fun _ => 16 + (4 + 7) / 8 * 8)).sum ≤
      (detDemo.lpbOf 5).stgBytes := by
  refine ⟨issues_of _ _ _ det_checked.1, rfl, det_checked.2.2.2.1, none_in, ?_⟩
  rw [det_checked.2.2.1]
  exact det_checked.2.2.2.2.2

/-- A thread in trap state stores to the word of v3 in its own image. -/
def handlerOf (x : Thread) : Thread := { x with status := .handler, trap := { cause := 3, trpc := 0x1004, tsave0 := 9, tsave1 := 10 } }
def one : Bundle := { bundle with members := [(0, 1)] }
def imageDemo (b : Bundle) : State := machine lpb {} {} { group with threads := [(0, thread 0), (1, handlerOf (thread 1))] } b {}
def imageWord : Nat := lpb.groupOff 0 + lpb.vecOff + 3 * 64 + 4
def imageExt : MExt := ⟨false, 0, 0, 0, BitVec.ofNat 24 imageWord⟩
def imageStore : LaneAccess := ⟨2, 3, 0, 4, imageWord, false, true, false, false⟩
theorem image_checked : issuesNow (imageDemo one) one (.st32 2 3 0 (some imageExt)) = true ∧
    (checked (imageDemo one) one (.st32 2 3 0 (some imageExt)) imageStore .write 2).traps = [] ∧
    (checked (imageDemo one) one (.st32 2 3 0 (some imageExt)) imageStore .write 2).walkPoison = false ∧
    (checked (imageDemo one) one (.st32 2 3 0 (some imageExt)) imageStore .write 2).accs =
      [⟨(0, 1), 0x40000000 + imageWord, .image imageWord⟩] ∧ imageWord % 4 = 0 ∧ lpb.place imageWord = some (0, .vector 1 3) := by
  decide +kernel
theorem witness_imageStore : Issues (imageDemo one) one (.st32 2 3 0 (some imageExt)) ∧ one.members = [(0, 1)] ∧
    (storeOf (.st32 2 3 0 (some imageExt))).map (fun w => (w.d, w.p, w.ix, w.size)) = some (2, 3, 0, 4) ∧
    (checked (imageDemo one) one (.st32 2 3 0 (some imageExt)) imageStore .write 2).accs = [⟨(0, 1), 0x40000000 + imageWord, .image imageWord⟩] ∧
    lpb.place imageWord = some (0, .vector 1 3) :=
  ⟨issues_of _ _ _ image_checked.1, rfl, rfl, image_checked.2.2.2.1, image_checked.2.2.2.2.2⟩

theorem ldu_place : ((demo.issued bundle).place (demo.ctx bundle (.ldu 6 2 (.short 4))) (0, 0) 0x2014 4 .read false true true).1 =
    .ok (.mem (.hbm 0x2014 false)) := by decide +kernel
theorem witness_ldu : Issues demo bundle (.ldu 6 2 (.short 4)) ∧ ((demo.group 5 0).sPair 2).toNat + ((demo.group 5 0).sGet 4).toNat * 4 = 0x2014 ∧
    ((demo.issued bundle).place (demo.ctx bundle (.ldu 6 2 (.short 4))) (0, 0) 0x2014 4 .read false true true).1 =
      .ok (.mem (.hbm 0x2014 false)) := ⟨issues_of _ _ _ memory_issue.2.2.2, by decide +kernel, ldu_place⟩

/-! Accesses in flight -/

def flightLoad : Flight := { id := 50, kind := .load, team := 5, group := 0, lane := 1, reg := 6, va := 0x2000, loc := .hbm 0x2000 false }
def flightStore : Flight := { flightLoad with id := 51, kind := .store, va := 0x3000, loc := .hbm 0x3000 false, data := [1, 2, 3, 4] }
def flightDone : Flight := { flightLoad with id := 52, kind := .result, performed := true, writes := [⟨6, 77, false⟩] }
def flying : State := { demo with flights := [flightLoad, flightStore, flightDone] }
theorem witness_flights :
    (flying.flight 51 = some flightStore ∧ flightStore.performed = false ∧ ∀ g ∈ flying.flights, g.before flightStore = false) ∧
    (flying.flight 50 = some flightLoad ∧ flightLoad.kind = .load ∧ flightLoad.size ∈ [1, 2, 4, 8] ∧
      ∀ g ∈ flying.flights, g.before flightLoad = false) ∧
    (flying.flight 52 = some flightDone ∧ flightDone.performed = true ∧ (flightDone.writes.map (·.reg)).Nodup) := by decide +kernel


/-! ### Witnesses: traps, atomics, fences, reins -/

theorem no_rendezvous (s : State) (h : (s.team 5).groups.all (fun e => e.2.rendezvous.isNone) = true) : noRendezvous s 5 := by
  intro g
  have get : ∀ (m : Sparse Group), m.all (fun e => e.2.rendezvous.isNone) = true → (Sparse.get {} m g).rendezvous = none := by
    intro m
    induction m with
    | nil => intro _; rfl
    | cons e r ih =>
      intro h
      simp only [List.all_cons, Bool.and_eq_true] at h
      simp only [Sparse.get]
      split
      · exact Option.isNone_iff_eq_none.1 h.1
      · exact ih h.2
  exact get _ h

/-- TZERO of a tile register at or above NT fails check 4. -/
def noTiles : State := machine { lpb with nt := 0 } {} {} group bundle {}
theorem noTiles_fails : FailsFirst noTiles bundle (.tzero 0) .illegalOperand := by unfold FailsFirst; decide +kernel
theorem noTiles_quiet : (Instr.tzero 0).isWord = true ∧ (∀ m ∈ bundle.members, noTiles.remoteWait 5 m = false) ∧
    (∀ m ∈ bundle.members, (noTiles.thread 5 m.1 m.2).inTrap = false) ∧
    (noTiles.team 5).groups.all (fun e => e.2.rendezvous.isNone) = true := by decide +kernel
theorem witness_failingCheck : (Instr.tzero 0).isWord = true ∧ (noTiles.core 0).bundle = some bundle ∧ bundle.members.Nodup ∧
    (∀ m ∈ bundle.members, noTiles.remoteWait 5 m = false) ∧ (∀ m ∈ bundle.members, (noTiles.thread 5 m.1 m.2).inTrap = false) ∧
    noRendezvous noTiles 5 ∧ FailsFirst noTiles bundle (.tzero 0) .illegalOperand :=
  ⟨noTiles_quiet.1, rfl, by decide, noTiles_quiet.2.1, noTiles_quiet.2.2.1, no_rendezvous _ noTiles_quiet.2.2.2, noTiles_fails⟩
/-- Each of the four checks comes first somewhere: a class that the header does not name, an ill-formed word, an absent feature, an operand. -/
theorem witness_checkOrder : FailsFirst noTiles { bundle with header := 0xFA20008A } (.tzero 0) .illegalClause ∧
    FailsFirst noTiles bundle (.vabs false 6 1 none) .illegalInstruction ∧
    FailsFirst { demo with cores := [(0, { bundle := some bundle, feat := 0 })] } bundle (.ffma false 6 4 5 ⟨4, .f64, 0, false, 0⟩) .featureAbsent := by
  unfold FailsFirst
  exact ⟨by decide +kernel, by decide +kernel, by decide +kernel⟩

/-- In lane 1, v1 is poisoned: it alone fails. -/
def poisoned : State := machine lpb {} {} { group with threads := [(0, thread 0), (1, { thread 1 with vPoison := [(1, true)] })] } bundle {}
theorem poisoned_passes (k : Cause) : ¬FailsFirst poisoned bundle (.vadd false 6 1 2 none) k := by
  cases k <;> (unfold FailsFirst; decide +kernel)
theorem poisoned_bad : poisoned.waits bundle (useOf 16 (.vadd false 6 1 2 none)) = false ∧
    (∀ m ∈ bundle.members, poisoned.remoteWait 5 m = false) ∧ (poisoned.team 5).groups.all (fun e => e.2.rendezvous.isNone) = true ∧
    bundle.members.filterMap (fun m => (poisoned.ownCause 5 (useOf 16 (.vadd false 6 1 2 none)) m).map (fun k => (⟨m, k, 0, 0⟩ : TrapAt))) =
      [⟨(0, 1), .poisonRead, 0, 0⟩] ∧
    (bundle.without [⟨(0, 1), .poisonRead, 0, 0⟩]).members = [(0, 0)] ∧
    poisoned.waits (bundle.without [⟨(0, 1), .poisonRead, 0, 0⟩]) (useOf 16 (.vadd false 6 1 2 none)) = false := by decide +kernel
theorem witness_ownFailure : (∀ k, ¬FailsFirst poisoned bundle (.vadd false 6 1 2 none) k) ∧
    poisoned.waits bundle (useOf 16 (.vadd false 6 1 2 none)) = false ∧ noRendezvous poisoned 5 ∧
    (bundle.without [⟨(0, 1), .poisonRead, 0, 0⟩]).members = [(0, 0)] :=
  ⟨poisoned_passes, poisoned_bad.1, no_rendezvous _ poisoned_bad.2.2.1, poisoned_bad.2.2.2.2.1⟩

/-- A word that names v6 while a load of v6 is on its way waits at issue. -/
def loading : State := { demo with flights := [flightLoad] }
theorem witness_waits : (∀ k, ¬FailsFirst loading bundle (.vadd false 6 1 2 none) k) ∧
    loading.waits bundle (useOf 16 (.vadd false 6 1 2 none)) = true :=
  ⟨fun k => by cases k <;> (unfold FailsFirst; decide +kernel), by decide +kernel⟩

/-- A word that decodes to nothing, in a clause whose rules it breaks (class Y, not the header's) or not (slot 0x7F, class Y). -/
theorem witness_undecodable : (demo.core 0).bundle = some bundle ∧ noRendezvous demo 5 ∧
    hdrClass bundle.header (classOf (opOf 0xFE000000)) = true ∧ hdrClass (0xFA00008A : Word) (classOf (opOf 0xFE000000)) = false :=
  ⟨rfl, no_rendezvous _ (by decide +kernel), by decide +kernel, by decide +kernel⟩

/-- Both threads in trap state, resuming at the header at 0x1004. -/
def trapped : State := branchDemo lpb { group with threads := [(0, handlerOf (thread 0)), (1, handlerOf (thread 1))] } closing {}
theorem trapped_issues : issuesNow trapped closing .tret = true ∧ issuesNow trapped closing (.trap 0) = true ∧
    (∀ m ∈ closing.members, (trapped.thread 5 m.1 m.2).inTrap = true) ∧ (trapped.target 0 1 6 0x1004).1 = .ok () ∧
    ((trapped.target 0 1 6 0x1004).2.target 0 1 6 0x1004 (trapped.noteLookup 0 1 0x1004 4 false [])).1 = .ok () ∧ (trapped.team 5).groups.all (fun e => e.2.rendezvous.isNone) = true ∧
    (closes.team 5).groups.all (fun e => e.2.rendezvous.isNone) = true := by decide +kernel
theorem witness_tret : Issues trapped closing .tret ∧ (∀ m ∈ closing.members, (trapped.thread 5 m.1 m.2).inTrap = true) ∧
    2 ≤ (trapped.lpbOf 5).nv ∧ TargetsPass 0 1 6 (closing.members.map (fun m => (trapped.thread 5 m.1 m.2).trap.trpc)) trapped [] :=
  ⟨issues_of _ _ _ trapped_issues.1, trapped_issues.2.2.1, by decide, trapped_issues.2.2.2.1, trapped_issues.2.2.2.2.1, trivial⟩
theorem witness_nested : Issues trapped closing (.trap 0) ∧ (∀ m ∈ closing.members, (trapped.thread 5 m.1 m.2).inTrap = true) ∧
    noRendezvous trapped 5 := ⟨issues_of _ _ _ trapped_issues.2.1, trapped_issues.2.2.1, no_rendezvous _ trapped_issues.2.2.2.2.2.1⟩
theorem witness_trap : Issues closes closing (.trap 3) ∧ noRendezvous closes 5 :=
  ⟨issues_of _ _ _ closing_issues.2.2.2.2.2.2, no_rendezvous _ trapped_issues.2.2.2.2.2.2⟩

/-! Atomics -/

def atomSpec1 : AtomSpec := ⟨false, false, false, 4, 0, 0, 6, 2, 0, 1, 1⟩
def atomWord : Instr := .atom false 6 1 1 ⟨0, 0, 0, 0, 2⟩
theorem atom_checked : issuesNow demo bundle atomWord = true ∧ (checkedAtom demo bundle atomWord atomSpec1).traps = [] ∧
    (checkedAtom demo bundle atomWord atomSpec1).walkPoison = false ∧ (∀ g ∈ groupsOf bundle, (demo.group 5 g).counters.get 0 2 < 63) ∧
    (checkedAtom demo bundle atomWord atomSpec1).accs.length = 2 ∧ (demo.team 5).stgUsed ≤ (demo.lpbOf 5).stgBytes := by decide +kernel
theorem witness_atomics : Issues demo bundle atomWord ∧ atomOf atomWord = some atomSpec1 ∧ numbersBelow demo ∧ bundle.awl = [] ∧
    (checkedAtom demo bundle atomWord atomSpec1).traps = [] ∧ (checkedAtom demo bundle atomWord atomSpec1).walkPoison = false :=
  ⟨issues_of _ _ _ atom_checked.1, rfl, ⟨by decide, by decide, by decide⟩, rfl, atom_checked.2.1, atom_checked.2.2.1⟩

def lane1 : AwlLane := ⟨0, 1, .hbm 0x2000 false, 0x2000, 0, 0, false, 4, 5, 0, []⟩
def request : AwlReq := ⟨60, 3, 0, 61, 5, some 6, [lane1], true, 0x1000, 0⟩
def asking : State := { demo with awl := [{ request with id := 62, granted := false }, request] }
theorem witness_owner : (asking.awl.filter (fun q => q.owner == 3 && q.granted)).length < 256 ∧
    asking.awl.filter (fun q => q.owner == 3 && !q.granted) ≠ [] := by decide +kernel
theorem witness_request : (queueOf { demo with awl := [request] } 3)[0]? = some request ∧ (∀ l ∈ request.lanes, l.size = 4 ∨ l.size = 8) ∧
    (∀ l ∈ request.lanes, l.operand.toNat < 2 ^ (8 * l.size) ∧ l.newVal.toNat < 2 ^ (8 * l.size) ∧
      (l.cas = false → (l.size = 8 ↔ l.atype = 2 ∨ l.atype = 3))) := by decide +kernel

/-! Fences and waits -/

theorem fence_issues : issuesNow demo bundle (.fence false 3 4 1) = true ∧ issuesNow demo bundle .drain = true ∧
    issuesNow demo bundle (.waitc 1 0) = true ∧ issuesNow demo bundle (.pref 1 1 none) = true ∧
    issuesNow { demo with ops := [] } { bundle with members := [(0, 0), (0, 1)] } .drain = true := by decide +kernel
theorem witness_fence : Issues demo bundle (.fence false 3 4 1) ∧ (∀ f ∈ demo.flights, ¬fenceAwaits bundle 3 1 f) ∧
    (demo.lpbOf 5).det = false := ⟨issues_of _ _ _ fence_issues.1, none_in, rfl⟩
/-- A counter above what the wait allows, and one that is not. -/
def counting : State := machine lpb {} {} { group with counters := [(1, 2)] } bundle {}
theorem witness_counters : Issues demo bundle .drain ∧ (demo.group 5 0).counters.get 0 1 ≤ 0 ∧ ¬(counting.group 5 0).counters.get 0 1 ≤ 0 ∧
    (∀ o ∈ counting.ops, o.rest = []) := ⟨issues_of _ _ _ fence_issues.2.1, by decide +kernel, by decide +kernel, by decide⟩
theorem witness_prefetch : Issues demo bundle (.pref 1 1 none) ∧ ∀ m ∈ bundle.members,
    0 ≤ addressOf demo bundle 1 1 1 0 m ∧ addressOf demo bundle 1 1 1 0 m < 2 ^ 52 :=
  ⟨issues_of _ _ _ fence_issues.2.2.2.1, by decide +kernel⟩

/-! Reins: an open rein of 8 slots and one port of allowance 4 at offset 0, with one handle, 77, in its ring -/

def reinCfg : Nat := 8 + 4 * 2 ^ 13
def reinBytes (state : Nat) : List Byte := leBytes 4 state ++ leBytes 4 reinCfg ++ leBytes 4 0 ++ leBytes 4 1 ++ leBytes 2 3
def reinGroup : Group := { group with s := [(1, 7), (2, 0x2000), (4, 5), (5, 0xFFFFFFFE), (6, 0x40000000), (7, 0xFFF00000), (8, BitVec.ofNat 32 reinCfg),
  (9, 0xFFF00010), (10, 0x00100000)] }
def reinDemo (state : Nat) (b : Bundle) : State :=
  { machine lpb {} { guard := [0], gangSize := 2 } reinGroup b {} with
    fab := Sparse.putList 0 (Sparse.putList 0 [] lpb.declOff (reinBytes state)) (lpb.declOff + 64) (leBytes 8 77) }
def reined : State := reinDemo 1 bundle
theorem rein_issues : issuesNow reined bundle (.push 7 (.short 4)) = true ∧ issuesNow reined bundle (.pusht 20 7 (.short 4)) = true ∧
    issuesNow reined bundle (.pop 20 7) = true ∧ issuesNow reined bundle (.popt 20 7) = true ∧
    issuesNow reined bundle (.reinOpen 9 (.short 8)) = true ∧ issuesNow reined bundle (.reinClose 7) = true := by decide +kernel
theorem rein_fields : reined.reinState 5 0 0 = .opened ∧ ports reined 5 0 = 1 ∧ allowance reined 5 0 0 = 3 ∧ handles reined 5 0 = 1 ∧
    entry reined 5 0 0 = 77 ∧ slots reined 5 0 = 8 ∧ (reinDemo 2 bundle).reinState 5 0 0 = .closed ∧ demo.reinState 5 0 0 = .pending := by
  decide +kernel
theorem rein_names : (named reined bundle 7).off = 0 ∧ (named reined bundle 7).port = 0 ∧ (named reined bundle 7).member = 0 ∧
    (named reined bundle 9).off = 0x400 ∧ (named reined bundle 10).member = 1 := by decide +kernel
theorem rein_first : isFirst reined bundle false (named reined bundle 7) ∧ isFirst reined bundle true (named reined bundle 7) := by
  unfold isFirst
  exact ⟨by decide +kernel, by decide +kernel⟩
theorem witness_push : Issues reined bundle (.push 7 (.short 4)) ∧ nameOk reined bundle 7 ∧ fenced reined bundle 1 ∧
    (named reined bundle 7).member = (reined.team 5).member ∧ reined.reinState 5 0 0 = .opened ∧ 0 < allowance reined 5 0 0 ∧
    isFirst reined bundle false (named reined bundle 7) ∧ Issues reined bundle (.pusht 20 7 (.short 4)) :=
  ⟨issues_of _ _ _ rein_issues.1, Or.inl (by decide +kernel), none_in, rein_names.2.2.1, rein_fields.1, by rw [rein_fields.2.2.1]; decide, rein_first.1,
    issues_of _ _ _ rein_issues.2.1⟩
theorem witness_pop : Issues reined bundle (.pop 20 7) ∧ reined.reinState 5 0 0 ≠ .pending ∧ 0 < handles reined 5 0 ∧
    isFirst reined bundle true (named reined bundle 7) ∧ Issues reined bundle (.popt 20 7) :=
  ⟨issues_of _ _ _ rein_issues.2.2.1, by rw [rein_fields.1]; decide, by rw [rein_fields.2.2.2.1]; decide, rein_first.2,
    issues_of _ _ _ rein_issues.2.2.2.1⟩
theorem witness_reinOpen : Issues reined bundle (.reinOpen 9 (.short 8)) ∧ ((reined.group 5 0).sGet 8).toNat = reinCfg ∧
    reinCfg % 2 ^ 9 = 8 ∧ reinCfg / 2 ^ 13 % 2 ^ 9 = 4 ∧ (named reined bundle 9).off + (64 + 8 * 8) ≤ (reined.lpbOf 5).fabric ∧
    (∀ o ∈ (reined.team 5).guard, o + (64 + 8 * slots reined 5 o) ≤ (named reined bundle 9).off) ∧ Issues reined bundle (.reinClose 7) :=
  ⟨issues_of _ _ _ rein_issues.2.2.2.2.1, by decide +kernel, by decide, by decide, by decide +kernel, by decide +kernel,
    issues_of _ _ _ rein_issues.2.2.2.2.2⟩

/-- A second team of the launch, member 1, with the same rein; the first team's bundle pushes to it. -/
def pushWords : Bundle := { bundle with words := [0xC0000504], asked := true }
def gangDemo (b : Bundle) : State :=
  { reinDemo 1 b with teams := [(5, { live := true, tenant := 1, launch := 6, groups := [(0, reinGroup)], region := lpb.region, started := true,
                                      gangSize := 2, base := 0x80000 }),
      (7, { live := true, tenant := 1, launch := 6, groups := [(0, group)], region := lpb.region, started := true, gangSize := 2, member := 1,
            guard := [0] })] }
def allowed : Bundle := { bundle with rein := some 0 }
theorem remotePush_parts : decodeWords 0xC0000504 none = .ok (.push 10 (.short 4)) ∧
    (gangDemo pushWords).memberTeam 5 1 = some 7 ∧ (gangDemo pushWords).reinState 5 1 0 = .opened ∧ ports (gangDemo pushWords) 7 0 = 1 ∧
    0 < allowance (gangDemo pushWords) 7 0 0 ∧ issuesNow (gangDemo allowed) allowed (.push 10 (.short 4)) = true ∧
    ((gangDemo allowed).group 5 0).counters.get 0 3 < 63 := by decide +kernel
theorem witness_remotePush : ((gangDemo pushWords).core 0).bundle = some pushWords ∧ pushWords.asked = true ∧ pushWords.rein = none ∧
    (gangDemo pushWords).reinState 5 1 0 = .opened ∧ (Issues (gangDemo allowed) allowed (.push 10 (.short 4)) ∧ allowed.rein = some 0) :=
  ⟨rfl, rfl, rfl, remotePush_parts.2.2.1, issues_of _ _ _ remotePush_parts.2.2.2.2.2.1, rfl⟩
def pushing : State := { gangDemo bundle with ops := [{ id := 70, team := 5, groups := [0], counter := 3, kind := .push 7 0 0 88 }] }
theorem witness_remoteWrite : (pushing.op 70).map (·.kind) = some (.push 7 0 0 88) ∧ (pushing.team 7).live = true ∧ 0 ∈ (pushing.team 7).guard := by
  decide +kernel


/-! ### Witnesses: copies, sweeps, matrices, reservations, launches -/

/-- CPY of 16 bytes from 0x2000 to 0x3000: registers s20, s21 destination, s2 source, s22 the count; s24.. a reservation record. -/
def copyGroup : Group := { group with s := [(1, 7), (2, 0x2000), (4, 5), (5, 0xFFFFFFFE), (6, 0x40000000), (20, 0x3000), (22, 16),
  (29, 4), (32, 1), (36, 0x40000001)] }
def copyDemo (b : Bundle) : State := machine lpb {} {} copyGroup b {}
def copying : State := copyDemo bundle
def copyArgs : CopyArgs := ⟨none, 0x3000, 0x2000, 16, 1, 0, 0, false, false⟩
theorem copy_checked : issuesNow copying bundle (.cpy 20 2 (.short 22)) = true ∧ copying.engineBusy 0 = false ∧
    (match ((copying.issued bundle).checkCopy (copying.ctx bundle (.cpy 20 2 (.short 22))) copyArgs 1).1 with
      | .rows rows => decide (rows = [[⟨0x2000, 0x3000, 16, .hbm 0x2000 false, .hbm 0x3000 false, none⟩]])
      | _ => false) = true ∧ issuesNow copying bundle (.cpy 20 2 (.short 30)) = true ∧
    (∀ g ∈ groupsOf bundle, (copying.group 5 g).counters.get 0 0 < 63) := by decide +kernel
theorem witness_copy : Issues copying bundle (.cpy 20 2 (.short 22)) ∧
    copyOf (copying.group 5 0) (.cpy 20 2 (.short 22)) = some copyArgs ∧ bundle.peer = none ∧ copying.engineBusy 0 = false ∧
    ∃ rows r, (copying.issued bundle).checkCopy (copying.ctx bundle (.cpy 20 2 (.short 22))) copyArgs 1 = (.rows rows, r) ∧ rows.flatten ≠ [] := by
  refine ⟨issues_of _ _ _ copy_checked.1, by decide +kernel, rfl, copy_checked.2.1, ?_⟩
  have h := copy_checked.2.2.1
  revert h
  generalize (copying.issued bundle).checkCopy (copying.ctx bundle (.cpy 20 2 (.short 22))) copyArgs 1 = x
  rcases x with ⟨c, r⟩
  cases c with
  | rows rows => exact fun h => ⟨rows, r, rfl, by rw [of_decide_eq_true h]; decide⟩
  | trap _ _ _ => exact fun h => absurd h (by simp)
  | walkPoison => exact fun h => absurd h (by simp)
theorem witness_emptyCopy : Issues copying bundle (.cpy 20 2 (.short 30)) ∧
    copyOf (copying.group 5 0) (.cpy 20 2 (.short 30)) = some ⟨none, 0x3000, 0x2000, 0, 1, 0, 0, false, false⟩ ∧ copying.ops = [] :=
  ⟨issues_of _ _ _ copy_checked.2.2.2.1, by decide +kernel, rfl⟩

/-- A page of peer module 3, routed where Config routes it: XCPY to it, which the peer has accepted. -/
theorem witness_transferShape : transferOf (copying.group 5 0) (.xcpy 20 2 (.short 22)) = some (copyArgs, 1, .xcpy) ∧
    issuesNow copying { bundle with peer := none } (.xcpy 20 2 (.short 22)) = true := ⟨by rfl, by decide +kernel⟩

def copyOp1 : Op := { id := 70, team := 5, groups := [0], counter := 0,
                      kind := .copy [⟨0x2000, 0x3000, 16, .hbm 0x2000 false, .hbm 0x3000 false, none⟩] none }
def lanesOp1 : Op := { id := 71, team := 5, groups := [0], counter := 1, kind := .lanes }
def xredOp1 : Op := { id := 72, team := 5, groups := [0], counter := 3, remote := true,
                      kind := .xred [⟨0x2000, 0x9000, 4, .hbm 0x2000 false, .peer 3 0x9000, none⟩] 0 0 0 }
def copyOps (o : Op) : State := { copying with ops := [o] }
theorem witness_copyMoves : (copyOps copyOp1).op 70 = some copyOp1 ∧ Alone (copyOps copyOp1) copyOp1 ∧ Apart copyOp1.kind.segs ∧
    (∀ g ∈ copyOp1.kind.segs, ∀ k, k < g.len → (copyOps copyOp1).memPoison (g.src.plus k) = false) := by
  refine ⟨by decide +kernel, ⟨⟨by decide, by decide, by decide⟩, by decide⟩, ⟨by decide, ?_⟩, by decide +kernel⟩
  intro g h
  simp only [copyOp1, OpKind.segs, List.mem_singleton] at h
  subst h
  exact ⟨trivial, trivial, fun _ => by decide⟩
theorem witness_lanesComplete : (copyOps lanesOp1).op 71 = some lanesOp1 ∧ OnlyOp (copyOps lanesOp1) lanesOp1 ∧
    (∀ f ∈ (copyOps lanesOp1).flights, f.op ≠ some 71) ∧ ∀ q ∈ (copyOps lanesOp1).awl, q.op ≠ 71 :=
  ⟨by decide +kernel, ⟨by decide, by decide, by decide⟩, none_in, by decide⟩
theorem witness_xredCompletes : (copyOps xredOp1).op 72 = some xredOp1 ∧ Alone (copyOps xredOp1) xredOp1 ∧
    newValue ⟨0, 0, .peer 3 0x9000, 0, 0, 0, false, 4, 0, 0, []⟩ 5 = some 5 :=
  ⟨by decide +kernel, ⟨⟨by decide, by decide, by decide⟩, by decide⟩, by decide⟩
theorem witness_peerReply : ((copyDemo { bundle with asked := true }).core 0).bundle = some { bundle with asked := true } := rfl

/-! SWEEP: a tree of one leaf node, the box [1, 2] in each axis, leaf 9, at fabric offset 0x80000; the query starts at the origin and ends at
(3, 3, 3) -/

def treeBytes : List Byte :=
  leBytes 8 2 ++ leBytes 4 0 ++ leBytes 4 1 ++ leBytes 4 0 ++ List.replicate 44 0 ++
    (([0x3F800000, 0x3F800000, 0x3F800000, 0x40000000, 0x40000000, 0x40000000, 0x80000009, 0] : List Nat).map (leBytes 4)).flatten
def queryWords : List Nat := [0, 0, 0, 0x40400000, 0x40400000, 0x40400000, 0, 0, 0]
def sweepFlight1 : Flight :=
  { id := 55, kind := .sweep, team := 5, group := 0, lane := 0, reg := 20, va := 0x40080000, data := wordBytes (queryWords ++ [4]) }
def sweeping : State := { machine lpb {} {} group bundle {} with fab := Sparse.putList 0 [] 0x80000 treeBytes, flights := [sweepFlight1] }
def treeWord (off : Nat) : Nat := leNat (sweeping.memBytes (.fabric 0 (0x80000 + off)) 4)
theorem sweep_parts : issuesNow copying bundle (.sweep 20 1 0x90 29) = true ∧ ((copying.group 5 0).sGet 29).toNat = 4 ∧
    ((copying.group 5 0).sPair 2).toNat % 64 = 0 := by decide +kernel
theorem witness_sweep : Issues copying bundle (.sweep 20 1 0x90 29) ∧ 1 ≤ ((copying.group 5 0).sGet 29).toNat ∧
    ((copying.group 5 0).sGet 29).toNat ≤ 65536 ∧ ((copying.group 5 0).sPair 2).toNat % 64 = 0 :=
  ⟨issues_of _ _ _ sweep_parts.1, by rw [sweep_parts.2.1]; decide, by rw [sweep_parts.2.1]; decide, sweep_parts.2.2⟩
theorem tree_words : treeWord 0 = 2 ∧ treeWord 8 = 0 ∧ treeWord 12 = 1 ∧ treeWord 0x58 = 0x80000009 ∧
    (List.range 3).map (fun k => treeWord (0x40 + 4 * k)) = [0x3F800000, 0x3F800000, 0x3F800000] ∧
    (List.range 3).map (fun k => treeWord (0x4C + 4 * k)) = [0x40000000, 0x40000000, 0x40000000] ∧
    sweeping.flight 55 = some sweepFlight1 := by decide +kernel
/-- Every word of the tree is placed where it stands in the fabric, without a change of state. -/
theorem tree_places : (List.range 25).all (fun k => decide (sweeping.place (sweeping.sweepCtx sweepFlight1) (0, 0)
      ((0x40080000 + 4 * k : Nat) : Int) 4 .read false false true = (.ok (.mem (.fabric 0 (0x80000 + 4 * k))), sweeping))) = true ∧
    sweeping.place (sweeping.sweepCtx sweepFlight1) (0, 0) 0x40080000 8 .read false false true = (.ok (.mem (.fabric 0 0x80000)), sweeping) := by
  decide +kernel
theorem box_rounds : (fmtF32.fsub .rdn false 0x3F800000 0).1 = 0x3F800000 ∧ (fmtF32.fadd .rup false 0x40000000 0).1 = 0x40000000 ∧
    floatVal fmtF32 0 = some 0 ∧ floatVal fmtF32 0x40400000 = some 3 ∧ floatVal fmtF32 0x3F800000 = some 1 ∧ floatVal fmtF32 0x40000000 = some 2 := by
  decide +kernel
theorem box_met : nodeOverlaps queryWords [0x3F800000, 0x3F800000, 0x3F800000] [0x40000000, 0x40000000, 0x40000000] := by
  obtain ⟨h1, h2, h3, h4, h5, h6⟩ := box_rounds
  refine Or.inr ⟨fun k hk => ?_, 1 / 2, by norm_num, by norm_num, fun k hk => ?_⟩
  · refine Or.inr (Or.inr ⟨1, 2, ?_, ?_, by norm_num⟩)
    · rcases (by omega : k = 0 ∨ k = 1 ∨ k = 2) with rfl | rfl | rfl <;> simp only [List.getD_cons_zero, List.getD_cons_succ, h5]
    · rcases (by omega : k = 0 ∨ k = 1 ∨ k = 2) with rfl | rfl | rfl <;> simp only [List.getD_cons_zero, List.getD_cons_succ, h6]
  · refine ⟨0, 3, ?_, ?_, Or.inr ⟨1, ?_, by norm_num⟩, Or.inr ⟨2, ?_, by norm_num⟩⟩
    · rcases (by omega : k = 0 ∨ k = 1 ∨ k = 2) with rfl | rfl | rfl <;> simp only [queryWords, List.getD_cons_zero, List.getD_cons_succ, h3]
    · rcases (by omega : k = 0 ∨ k = 1 ∨ k = 2) with rfl | rfl | rfl <;>
        simp only [queryWords, List.getD_cons_zero, List.getD_cons_succ, Nat.add_zero, Nat.reduceAdd, h4]
    · rcases (by omega : k = 0 ∨ k = 1 ∨ k = 2) with rfl | rfl | rfl <;>
        simp only [queryWords, List.getD_cons_zero, List.getD_cons_succ, Nat.add_zero, Nat.reduceAdd, h1, h5]
    · rcases (by omega : k = 0 ∨ k = 1 ∨ k = 2) with rfl | rfl | rfl <;>
        simp only [queryWords, List.getD_cons_zero, List.getD_cons_succ, Nat.add_zero, Nat.reduceAdd, h2, h6]
theorem witness_traversal : Traverses treeWord (treeWord 12) 4 queryWords [treeWord 8] 0 (1, 9) ∧ treeWord 0 % 2 = 0 ∧ ¬deadQuery queryWords := by
  obtain ⟨h0, h8, h12, h58, hlo, hhi, -⟩ := tree_words
  refine ⟨?_, by rw [h0], ?_⟩
  · rw [h8, h12]
    have h := Traverses.hit (W := treeWord) (nnode := 1) (budget := 4) (q := queryWords) 0 [] 0 (by decide) (by decide)
      (by simpa only [Nat.mul_zero, Nat.add_zero, hlo, hhi] using box_met) (by rw [Nat.mul_zero, Nat.add_zero, h58]; decide)
    rw [Nat.mul_zero, Nat.add_zero, h58] at h
    exact h
  · unfold deadQuery queryWords
    decide

/-! Matrices -/

/-- MMA.t8 of full shape from v8 and v24 into a1. -/
def mmaExt : XExt := ⟨0, 0, false, false, true, 0⟩
theorem mma_parts : issuesNow demo bundle (.mma 1 0 8 24 mmaExt) = true ∧ (demo.ctx bundle .nop).full demo = true ∧
    issuesNow demo bundle (.tzero 3) = true ∧ issuesNow demo bundle (.tmov 3 2) = true ∧ issuesNow demo bundle (.twait 3) = true ∧
    issuesNow demo bundle (.tcvt 3 2 ⟨0, 0, false, false, false, 11⟩) = true ∧ issuesNow demo bundle (.tstat 0x94) = true ∧
    issuesNow demo bundle (.msearch 3 20) = true := by decide +kernel
theorem full_demo : isFull demo bundle := by
  intro g hg l hl hs
  have : g = 0 := by simpa [groupsOf, bundle] using hg
  subst this
  have h : ∀ l, l < 16 → (demo.thread 5 0 l).status ≠ .exited → ((0, l) : Nat × Nat) ∈ bundle.members := by decide +kernel
  exact h l hl hs
theorem witness_mma : Issues demo bundle (.mma 1 0 8 24 mmaExt) ∧ productOf (.mma 1 0 8 24 mmaExt) = some (1, 0, ⟨8, 24, mmaExt, false⟩) ∧
    isFull demo bundle ∧ mmaExt.zi = true ∧ shapeOk (demo.group 5 0) mmaExt false := ⟨issues_of _ _ _ mma_parts.1, rfl, full_demo, rfl, rfl⟩
theorem mma_fetches : (match demo.fetchMat 5 (demo.group 5 0) ⟨8, 24, mmaExt, false⟩ [0] with
    | .ok (_, ys, blk, _) => decide (ys.length = 1 ∧ blk = 16)
    | .error _ => false) = true := by decide +kernel
/-- A shape register that holds 0 asks for nothing; an operand of an id without a reservation fails. -/
theorem witness_mmaShapes : shapeOk { group with s := [] } { mmaExt with dims := 20 } true ∧
    (match demo.fetchMat 5 (demo.group 5 0) ⟨4, 4, { mmaExt with asb := true, bsb := true }, false⟩ [0] with
      | .error k => decide (k = .access)
      | _ => false) = true := by
  refine ⟨?_, by decide +kernel⟩
  unfold shapeOk
  decide +kernel
theorem witness_tileWords : Issues demo bundle (.tzero 3) ∧ (Issues demo bundle (.tmov 3 2) ∧ tileClean (demo.tile 5 0 2)) ∧
    Issues demo bundle (.tcvt 3 2 ⟨0, 0, false, false, false, 11⟩) ∧ Issues demo bundle (.twait 3) ∧ Issues demo bundle (.tstat 0x94) ∧
    (Issues demo bundle (.msearch 3 20) ∧ isFull demo bundle) :=
  ⟨issues_of _ _ _ mma_parts.2.2.1, ⟨issues_of _ _ _ mma_parts.2.2.2.1, .inl (by decide +kernel)⟩, issues_of _ _ _ mma_parts.2.2.2.2.2.1,
    issues_of _ _ _ mma_parts.2.2.2.2.1, issues_of _ _ _ mma_parts.2.2.2.2.2.2.1, issues_of _ _ _ mma_parts.2.2.2.2.2.2.2, full_demo⟩
/-- An exchange happens where a sub-block's columns are uneven: equal magnitudes keep columns 0 and 1 of every row. -/
theorem witness_exchange : exchange (fun _ _ => 0) (List.replicate 32 0x33333333) 0 0 = some (0, 0, 2) := by decide +kernel
def tileLpb : Lpb := { lpb with fabric := 86016 }
/-- A tile's 4096 bytes in a team's declared fabric bytes. -/
def tileDemo : State := machine tileLpb {} {} { group with s := [(2, 0x40014000)] } bundle {}
def tileState : State := tileDemo.issued bundle
def tileCtx (i : Instr) : Ctx := tileDemo.ctx bundle i
theorem tile_places : (List.range 1024).all (fun n =>
    decide (tileState.place (tileCtx (.tld 3 1 0xD0 none)) (tileCtx (.tld 3 1 0xD0 none)).low
      (tileState.tileRow (tileCtx (.tld 3 1 0xD0 none)) 1 0xD0 4 (n / 32) + ((n % 32 * 4 : Nat) : Int)) 4 .read false true true =
        (.ok (.mem (.fabric 0 (81920 + 4 * n))), tileState) ∧
      tileState.looksUp 1 (tileState.tileRow (tileCtx (.tld 3 1 0xD0 none)) 1 0xD0 4 (n / 32) + ((n % 32 * 4 : Nat) : Int)) 4 false = false) &&
    decide (tileState.place (tileCtx (.tst 3 1 0xD0 none)) (tileCtx (.tst 3 1 0xD0 none)).low
      (tileState.tileRow (tileCtx (.tst 3 1 0xD0 none)) 1 0xD0 4 (n / 32) + ((n % 32 * 4 : Nat) : Int)) 4 .write false true true =
        (.ok (.mem (.fabric 0 (81920 + 4 * n))), tileState) ∧
      tileState.looksUp 1 (tileState.tileRow (tileCtx (.tst 3 1 0xD0 none)) 1 0xD0 4 (n / 32) + ((n % 32 * 4 : Nat) : Int)) 4 false = false)) = true := by
  decide +kernel
/-- Rows whose every element is placed without a change of state pass the checks. -/
theorem checkTile_places (s : State) (c : Ctx) (p x : BitVec 8) (size : Nat) (k : AccKind) (f : Nat → Place)
    (h : ∀ n, n < 1024 → s.place c c.low (s.tileRow c p x size (n / 32) + ((n % 32 * size : Nat) : Int)) size k false true true = (.ok (f n), s) ∧
      s.looksUp (s.team c.team).tenant (s.tileRow c p x size (n / 32) + ((n % 32 * size : Nat) : Int)) size false = false) :
    s.checkTile c p x size k =
      (.locs ((List.range 1024).map (fun n => ((s.tileRow c p x size (n / 32) + ((n % 32 * size : Nat) : Int)).toNat, f n))), s) := by
  have note : ∀ n, n < 1024 → s.noteLookup c.cluster (s.team c.team).tenant (s.tileRow c p x size (n / 32) + ((n % 32 * size : Nat) : Int)) size
      false [] = [] := fun n hn => by simp only [State.noteLookup, (h n hn).2, Bool.false_and, Bool.false_eq_true, if_false]
  have go : ∀ (l : List Nat) (ls : List (Nat × Place)), (∀ n ∈ l, n < 1024) →
      l.foldl (fun (r : TileCheck × State × Lookups) n =>
        match r.1 with
        | .locs ls =>
          let ea := r.2.1.tileRow c p x size (n / 32) + ((n % 32 * size : Nat) : Int)
          let seen := r.2.1.noteLookup c.cluster (s.team c.team).tenant ea size false r.2.2
          match r.2.1.place c c.low ea size k false true true r.2.2 with
          | (.ok q, s) => (.locs (ls ++ [(ea.toNat, q)]), s, seen)
          | (.error (.trap cause), s) => (.trap cause ea, s, seen)
          | (.error .walkPoison, s) => (.walkPoison, s, seen)
        | _ => r) (.locs ls, s, []) =
      (.locs (ls ++ l.map (fun n => ((s.tileRow c p x size (n / 32) + ((n % 32 * size : Nat) : Int)).toNat, f n))), s, []) := by
    intro l
    induction l with
    | nil => intro ls _; simp
    | cons a r ih =>
      intro ls hl
      have ha := hl a (List.mem_cons_self ..)
      simp only [List.foldl_cons, (h a ha).1, note a ha, List.map_cons]
      rw [ih _ (fun n hn => hl n (List.mem_cons_of_mem _ hn))]
      simp [List.append_assoc]
  unfold State.checkTile
  have bound : ∀ n ∈ List.range 1024, n < 1024 := fun n hn => List.mem_range.1 hn
  generalize List.range 1024 = l at bound ⊢
  have e := go l [] bound
  rw [List.nil_append] at e
  exact congrArg (fun r : TileCheck × State × Lookups => (r.1, r.2.1)) e
theorem tile_parts : issuesNow tileDemo bundle (.tld 3 1 0xD0 none) = true ∧ issuesNow tileDemo bundle (.tst 3 1 0xD0 none) = true := by
  decide +kernel
/-- A load and a store of a tile in the fabric: every row passes, nothing is in flight, and tile 3 is clean. -/
theorem witness_tileAccess : Issues tileDemo bundle (.tld 3 1 0xD0 none) ∧ Issues tileDemo bundle (.tst 3 1 0xD0 none) ∧
    tileClean (tileDemo.tile 5 0 3) ∧ tileDemo.lines = [] ∧ tileDemo.flights = [] ∧
    (∃ ls r, tileChecked tileDemo bundle (.tld 3 1 0xD0 none) 1 0xD0 none .read = (.locs ls, r) ∧
      ∀ l ∈ ls, ∃ q, l.2 = .mem q ∧ q.remote = false) ∧
    ∃ ls r, tileChecked tileDemo bundle (.tst 3 1 0xD0 none) 1 0xD0 none .write = (.locs ls, r) ∧
      ∀ l ∈ ls, ∃ q, l.2 = .mem q ∧ q.remote = false := by
  refine ⟨issues_of _ _ _ tile_parts.1, issues_of _ _ _ tile_parts.2, .inl (by decide +kernel), rfl, rfl, ⟨_, _,
    checkTile_places _ _ _ _ _ _ (fun n => .mem (.fabric 0 (81920 + 4 * n))) fun n hn => ?_, ?_⟩, ⟨_, _,
    checkTile_places _ _ _ _ _ _ (fun n => .mem (.fabric 0 (81920 + 4 * n))) fun n hn => ?_, ?_⟩⟩
  · exact of_decide_eq_true ((Bool.and_eq_true_iff).1 (List.all_eq_true.1 tile_places n (List.mem_range.2 hn))).1
  · intro l hl
    obtain ⟨n, -, rfl⟩ := List.mem_map.1 hl
    exact ⟨_, rfl, rfl⟩
  · exact of_decide_eq_true ((Bool.and_eq_true_iff).1 (List.all_eq_true.1 tile_places n (List.mem_range.2 hn))).2
  · intro l hl
    obtain ⟨n, -, rfl⟩ := List.mem_map.1 hl
    exact ⟨_, rfl, rfl⟩
def withTile (a : Tile) : State := machine lpb {} {} { group with tiles := [(3, a)] } bundle {}
theorem witness_tileResult : ((withTile { f := true, next := some {} }).tile 5 0 3).f = true := by decide +kernel

/-! Reservations and gangs -/

/-- A record: FMT 0, SIZE 4, in s24 to s27; an id in s28; a launch address and a gang value. -/
def resvGroup : Group := { group with s := [(24, 0), (25, 4), (28, 1), (30, 0x01000002), (40, 0x2000)] }
def resvDemo (x : Team) : State := machine lpb {} x resvGroup bundle {}
def oneResv : Team := { resv := [(1, { live := true, r1 := 4, unit := 0, grant := 9 })] }
theorem resv_issues : issuesNow (resvDemo {}) bundle (.resv 17 12) = true ∧ issuesNow (resvDemo oneResv) bundle (.rels 14) = true ∧
    issuesNow (resvDemo {}) bundle (.rqry 17 14) = true ∧ issuesNow (resvDemo {}) bundle (.gang 15) = true := by decide +kernel
theorem witness_resv : Issues (resvDemo {}) bundle (.resv 17 12) ∧ recordOk (fun k => ((resvDemo {}).group 5 0).sGet (2 * 12 + k)) ∧
    ¬shows ((resvDemo {}).team 5) 1 ∧ fits (resvDemo {}) bundle 4 0 := by
  refine ⟨issues_of _ _ _ resv_issues.1, ?_, ?_, ?_, ?_⟩
  · unfold recordOk; decide +kernel
  · unfold shows; decide +kernel
  · decide +kernel
  · intro k _ id h1 _ hl
    have : ∀ id, 1 ≤ id → (((resvDemo {}).team 5).resv.get {} id).live = false := fun _ _ => rfl
    rw [show bundle.team = 5 from rfl, this id h1] at hl
    cases hl
/-- Without room: the reservation is larger than the Saddlebag; units still held: a copy into the released grant. -/
theorem witness_resvRefused : (∀ u, ¬fits (resvDemo {}) bundle 17 u) ∧
    stillHeld { resvDemo { released := [⟨0, 4, 9⟩] } with ops := [{ id := 70, team := 5, groups := [0], counter := 0, kind := .copy [] (some 9) }] }
      bundle ⟨0, 4, 9⟩ := by
  refine ⟨?_, ⟨by decide +kernel, .inl ⟨_, List.mem_singleton.2 rfl, rfl, rfl, [], rfl⟩⟩⟩
  intro u h
  have := h.1
  have h16 : ((resvDemo {}).lpbOf bundle.team).sbb / 64 = 16 := by decide +kernel
  omega
theorem witness_rels : Issues (resvDemo oneResv) bundle (.rels 14) ∧ shows ((resvDemo oneResv).team 5) 1 ∧ ¬shows ((resvDemo {}).team 5) 1 ∧
    Issues (resvDemo {}) bundle (.rqry 17 14) :=
  ⟨issues_of _ _ _ resv_issues.2.1, by unfold shows; decide +kernel, by unfold shows; decide +kernel, issues_of _ _ _ resv_issues.2.2.1⟩

/-- Two groups of one team; g lists groups 0 and 1. -/
def gangValue : Dword := 0x010002
def lpb2 : Lpb := { lpb with t := 32 }
def mmagExt : XExt := ⟨0, 0, true, false, true, 0⟩
def mmagBundle : Bundle := { bundle with words := [0xE440181B, mmagExt.toWord] }
def groups2 (r : Option Rendezvous) : Sparse Group := [(0, { group with g := gangValue }), (1, { group with g := gangValue, rendezvous := r, core := 1 })]
def team2 (r : Option Rendezvous) : Team := { live := true, tenant := 1, launch := 6, region := lpb2.region, started := true, groups := groups2 r }
def gang2 (r : Option Rendezvous) : State := { machine lpb2 {} {} group mmagBundle {} with teams := [(5, team2 r)] }
def arrived1 : Rendezvous := ⟨gangValue, 0xE440181B, mmagExt.toWord, header⟩
theorem gang_parts : issuesNow (gang2 none) mmagBundle (.mmag 2 0 12 13 mmagExt) = true ∧
    issuesNow (gang2 (some arrived1)) mmagBundle (.mmag 2 0 12 13 mmagExt) = true ∧ listed gangValue = [0, 1] ∧
    decodeWords 0xE440181B (some mmagExt.toWord) = .ok (.mmag 2 0 12 13 mmagExt) ∧
    ((gang2 none).thread 5 1 0).status = .ready ∧ ((gang2 none).thread 5 1 1).status = .ready ∧
    (∀ l, l < 16 → ((gang2 none).thread 5 1 l).status ≠ .handler ∧ ((gang2 none).thread 5 1 l).status ≠ .stopped) ∧
    ((resvDemo {}).group 5 0).sPair 30 = 0x01000002 := by decide +kernel
theorem witness_gang : gangOk gangValue 2 0 ∧ ¬gangOk 0x01000002 1 0 ∧ Issues (resvDemo {}) bundle (.gang 15) := by
  refine ⟨by unfold gangOk; decide +kernel, by unfold gangOk; decide +kernel, issues_of _ _ _ resv_issues.2.2.2⟩
theorem witness_arrival : Issues (gang2 none) mmagBundle (.mmag 2 0 12 13 mmagExt) ∧ ((gang2 none).group 5 0).g.toNat % 16 ≠ 0 ∧
    ((gang2 none).group 5 1).rendezvous = none := ⟨issues_of _ _ _ gang_parts.1, by decide +kernel, by decide +kernel⟩
theorem witness_rendezvous : Issues (gang2 (some arrived1)) mmagBundle (.mmag 2 0 12 13 mmagExt) ∧
    ((gang2 (some arrived1)).group 5 1).rendezvous = some arrived1 ∧ gangOperands arrived1 2 0 12 13 mmagExt ∧
    ((gang2 (some arrived1)).group 5 0).rendezvous = none ∧ gangOk gangValue ((gang2 none).lpbOf 5).groups 0 :=
  ⟨issues_of _ _ _ gang_parts.2.1, by decide +kernel, gang_parts.2.2.2.1, by decide +kernel, by unfold gangOk; decide +kernel⟩

/-! Launches -/

theorem launch_parts : issuesNow (resvDemo {}) bundle (.launch 20 20) = true ∧
    (match ((resvDemo {}).issued bundle).place ((resvDemo {}).ctx bundle (.launch 20 20)) (0, 0) 0x2000 128 .read false false true with
      | (.ok (.mem q), _) => decide (q = .hbm 0x2000 false)
      | _ => false) = true ∧ (poolEntry (resvDemo {}) 0 0).live = false ∧ ((resvDemo {}).launchOf 5).depth + 1 ≤ 24 ∧
    (((resvDemo {}).group 5 0).sPair 40).toNat = 0x2000 := by decide +kernel
theorem witness_launch : Issues (resvDemo {}) bundle (.launch 20 20) ∧ (poolEntry (resvDemo {}) 0 0).live = false ∧
    ((resvDemo {}).launchOf 5).depth + 1 ≤ 24 ∧ fenced (resvDemo {}) bundle 1 :=
  ⟨issues_of _ _ _ launch_parts.1, launch_parts.2.2.1, launch_parts.2.2.2.1, none_in⟩
/-- At depth 24, LAUNCH is refused; so it is with a full pool. -/
theorem witness_launchRefused : 24 < ((machine lpb { depth := 24 } {} resvGroup bundle {}).launchOf 5).depth + 1 ∧
    ∀ e, e < 4096 → (Sparse.get ({} : PoolEntry) ((List.range 4096).map (fun e => (e, { live := true }))) e).live = true := by
  refine ⟨by decide +kernel, ?_⟩
  have get : ∀ (l : List Nat) (e : Nat), e ∈ l →
      (Sparse.get ({} : PoolEntry) (l.map (fun e => (e, { live := true }))) e).live = true := by
    intro l
    induction l with
    | nil => intro e h; cases h
    | cons a r ih =>
      intro e h
      simp only [List.map_cons, Sparse.get]
      split
      · rfl
      · rename_i hne
        exact ih e ((List.mem_cons.1 h).resolve_left (fun h => hne h.symm))
  exact fun e he => get _ e (List.mem_range.2 he)


/-! ### Witnesses: launch handles, status words, seams and islands -/

/-- s4 = 5 names an open handle of pool entry 3, whose child has the status st; s1 = 7 names none. -/
def handleDemo (st : Nat) : State :=
  { machine lpb {} { handles := [⟨5, 0, 3⟩] } group bundle {} with
    partitions := [(0, { tenant := 1, valid := true, pool := [(3, { live := true, status := st, teams := 4 })] })] }
theorem handle_issues : issuesNow (handleDemo 1) bundle (.lwait 20 4) = true ∧ issuesNow (handleDemo 0) bundle (.lwait 20 4) = true ∧
    issuesNow (handleDemo 1) bundle (.lwait 20 1) = true ∧ issuesNow (handleDemo 1) bundle (.lstat 20 4) = true := by decide +kernel
theorem handle_open (st : Nat) : openHandle (handleDemo st) bundle (((handleDemo st).group 5 0).sGet 4).toNat ⟨5, 0, 3⟩ := rfl
theorem witness_handles :
    (Issues (handleDemo 1) bundle (.lwait 20 4) ∧ (poolEntry (handleDemo 1) 0 3).status ≠ 0 ∧ fenced (handleDemo 1) bundle 0) ∧
    (Issues (handleDemo 0) bundle (.lwait 20 4) ∧ (poolEntry (handleDemo 0) 0 3).status = 0) ∧
    (Issues (handleDemo 1) bundle (.lwait 20 1) ∧ ∀ k, ¬openHandle (handleDemo 1) bundle (((handleDemo 1).group 5 0).sGet 1).toNat k) ∧
    Issues (handleDemo 1) bundle (.lstat 20 4) :=
  ⟨⟨issues_of _ _ _ handle_issues.1, by decide +kernel, none_in⟩, ⟨issues_of _ _ _ handle_issues.2.1, by decide +kernel⟩,
    ⟨issues_of _ _ _ handle_issues.2.2.1, fun k h => by cases h⟩, issues_of _ _ _ handle_issues.2.2.2⟩

def setDemo (x : IslSlot) : State := machine lpb {} {} group bundle { slots := [(2, x)] }
theorem status_issues : issuesNow demo bundle (.seamPos 20) = true ∧ issuesNow demo bundle (.skvGet 20 2) = true ∧
    issuesNow demo bundle (.feat 20) = true ∧ issuesNow demo bundle (.pctr 20 0 1) = true ∧ issuesNow demo bundle (.pctr 20 1 5) = true ∧
    issuesNow demo bundle (.stampGet 20) = true ∧ issuesNow (setDemo { active := true }) bundle (.islInfo 20 0 2) = true ∧
    issuesNow demo bundle (.seamQry 20 1) = true := by decide +kernel
theorem witness_status :
    (Issues demo bundle (.seamPos 20) ∧ statusPair demo bundle (.seamPos 20) = some (20, BitVec.allOnes 32, BitVec.allOnes 32)) ∧
    (Issues demo bundle (.skvGet 20 2) ∧ statusPair demo bundle (.skvGet 20 2) = some (20, 10, 0)) ∧
    (Issues demo bundle (.feat 20) ∧ statusPair demo bundle (.feat 20) = some (20, 0xFF, 0)) ∧
    (Issues demo bundle (.pctr 20 0 1) ∧ (statusPair demo bundle (.pctr 20 0 1)).isSome = true) ∧
    (Issues demo bundle (.pctr 20 1 5) ∧ (demo.lpbOf 5).det = false) ∧ Issues demo bundle (.stampGet 20) ∧
    (Issues (setDemo { active := true }) bundle (.islInfo 20 0 2) ∧ (setOf (setDemo { active := true }) 1 2).active = true) ∧
    (Issues demo bundle (.seamQry 20 1) ∧ statusPair demo bundle (.seamQry 20 1) = some (20, 0, 0)) :=
  ⟨⟨issues_of _ _ _ status_issues.1, rfl⟩, ⟨issues_of _ _ _ status_issues.2.1, rfl⟩, ⟨issues_of _ _ _ status_issues.2.2.1, rfl⟩,
    ⟨issues_of _ _ _ status_issues.2.2.2.1, rfl⟩, ⟨issues_of _ _ _ status_issues.2.2.2.2.1, rfl⟩, issues_of _ _ _ status_issues.2.2.2.2.2.1,
    ⟨issues_of _ _ _ status_issues.2.2.2.2.2.2.1, rfl⟩, ⟨issues_of _ _ _ status_issues.2.2.2.2.2.2.2, rfl⟩⟩

def fullNow (s : State) (b : Bundle) : Bool :=
  (groupsOf b).all (fun g => (List.range (s.lpbOf b.team).w).all (fun l =>
    decide ((s.thread b.team g l).status = .exited) || decide ((g, l) ∈ b.members)))
theorem full_of (s : State) (b : Bundle) (h : fullNow s b = true) : isFull s b := by
  intro g hg l hl hs
  have := List.all_eq_true.1 (List.all_eq_true.1 h g hg) l (List.mem_range.2 hl)
  simpa [hs] using this

/-- A point of a seam launch of four points: one group, or two of which the bundle holds the first. -/
def seamLpb (t : Nat) : Lpb := { lpb with seam := true, e0 := 4, t := t }
def seamLaunch : Launch := { seamUnit := { ndim := 1, runcap := 4, rstate := 1, running := [⟨0, false, 5, 0⟩] } }
def seamDemo (t : Nat) (g : Group) : State := machine (seamLpb t) seamLaunch {} g bundle {}
theorem seamDone_parts : issuesNow (seamDemo 16 group) bundle .seamDone = true ∧ issuesNow (seamDemo 32 group) bundle .seamDone = true ∧
    issuesNow demo bundle .seamDone = true ∧ issuesNow (seamDemo 16 { group with done := true }) bundle .seamDone = true ∧
    (∀ g, g < ((seamDemo 16 group).lpbOf 5).groups → g ∈ groupsOf bundle ∨ ((seamDemo 16 group).group 5 g).done = true) ∧
    ¬(∀ g, g < ((seamDemo 32 group).lpbOf 5).groups → g ∈ groupsOf bundle ∨ ((seamDemo 32 group).group 5 g).done = true) := by decide +kernel
theorem witness_seamDone :
    (Issues (seamDemo 16 group) bundle .seamDone ∧ isFull (seamDemo 16 group) bundle ∧ fenced (seamDemo 16 group) bundle 1 ∧
      (∃ g ∈ groupsOf bundle, ((seamDemo 16 group).group 5 g).done = false) ∧
      (∀ g, g < ((seamDemo 16 group).lpbOf 5).groups → g ∈ groupsOf bundle ∨ ((seamDemo 16 group).group 5 g).done = true) ∧
      ((seamDemo 16 group).team 5).pointDone = false ∧ ¬rowHas (((seamDemo 16 group).launchOf 5).seamUnit.rows.get {} 0) 0) ∧
    (Issues (seamDemo 32 group) bundle .seamDone ∧
      ¬∀ g, g < ((seamDemo 32 group).lpbOf 5).groups → g ∈ groupsOf bundle ∨ ((seamDemo 32 group).group 5 g).done = true) ∧
    (Issues demo bundle .seamDone ∧ (demo.lpbOf 5).seam = false) ∧
    (Issues (seamDemo 16 { group with done := true }) bundle .seamDone ∧
      ∀ g ∈ groupsOf bundle, ((seamDemo 16 { group with done := true }).group 5 g).done = true) :=
  ⟨⟨issues_of _ _ _ seamDone_parts.1, full_of _ _ (by decide +kernel), none_in, ⟨0, by decide +kernel, rfl⟩, seamDone_parts.2.2.2.2.1, rfl,
      by unfold rowHas; decide +kernel⟩,
    ⟨issues_of _ _ _ seamDone_parts.2.1, seamDone_parts.2.2.2.2.2⟩, ⟨issues_of _ _ _ seamDone_parts.2.2.1, rfl⟩,
    ⟨issues_of _ _ _ seamDone_parts.2.2.2.1, by decide +kernel⟩⟩

/-- Lane 0 links bodies 7 and 3, lane 1 bodies 8 and 3: 8 is one too many where there are 8 bodies. -/
def linkDemo (n : Nat) : State := machine lpb {} {} group bundle { slots := [(0, { en := true, active := true, desc := { nbody := n } })] }
theorem report_parts : issuesNow (linkDemo 9) bundle (.islLink 1 0 0) = true ∧ issuesNow (linkDemo 8) bundle (.islLink 1 0 0) = true ∧
    issuesNow (linkDemo 9) bundle (.islUnlink 1 0) = true ∧ issuesNow (linkDemo 9) bundle (.islWake 1 0) = true ∧
    (∀ m ∈ bundle.members, reportOf ((linkDemo 9).thread 5 m.1 m.2) (.islLink 1 0 0) = some (0, ⟨0, m.2 + 7, 3⟩)) := by decide +kernel
theorem witness_reports : Issues (linkDemo 9) bundle (.islLink 1 0 0) ∧ (setOf (linkDemo 9) 1 0).active = true ∧
    (∀ m ∈ bundle.members, reportOk (setOf (linkDemo 9) 1 0) ⟨0, m.2 + 7, 3⟩) ∧
    (Issues (linkDemo 8) bundle (.islLink 1 0 0) ∧ ¬reportOk (setOf (linkDemo 8) 1 0) ⟨0, 8, 3⟩) ∧
    Issues (linkDemo 9) bundle (.islUnlink 1 0) ∧ Issues (linkDemo 9) bundle (.islWake 1 0) := by
  refine ⟨issues_of _ _ _ report_parts.1, rfl, ?_, ⟨issues_of _ _ _ report_parts.2.1, ?_⟩, issues_of _ _ _ report_parts.2.2.1,
    issues_of _ _ _ report_parts.2.2.2.1⟩ <;> (unfold reportOk; decide +kernel)

def islandDemo (r : Option Nat) (x : IslSlot) : State :=
  machine lpb {} { island := some 0 } { group with result := r } bundle { slots := [(0, x)] }
def openSet : IslSlot := { en := true, active := true }
theorem step_parts : issuesNow (islandDemo (some 2) openSet) bundle (.islStep 20) = true ∧
    issuesNow (islandDemo none openSet) bundle (.islStep 20) = true ∧ issuesNow (islandDemo none {}) bundle (.islStep 20) = true ∧
    issuesNow (islandDemo none openSet) bundle .islStill = true := by decide +kernel
theorem witness_steps : (Issues (islandDemo (some 2) openSet) bundle (.islStep 20) ∧ isFull (islandDemo (some 2) openSet) bundle ∧
      ((islandDemo (some 2) openSet).team 5).island ≠ none ∧ ((islandDemo (some 2) openSet).group 5 0).result = some 2) ∧
    (Issues (islandDemo none openSet) bundle (.islStep 20) ∧ ((islandDemo none openSet).group 5 0).result = none ∧
      ¬stepRetires (islandDemo none openSet) bundle) ∧
    (Issues (islandDemo none {}) bundle (.islStep 20) ∧ stepRetires (islandDemo none {}) bundle) ∧
    Issues (islandDemo none openSet) bundle .islStill :=
  ⟨⟨issues_of _ _ _ step_parts.1, full_of _ _ (by decide +kernel), by decide +kernel, rfl⟩,
    ⟨issues_of _ _ _ step_parts.2.1, rfl, by unfold stepRetires; decide +kernel⟩,
    ⟨issues_of _ _ _ step_parts.2.2.1, .inl rfl⟩, issues_of _ _ _ step_parts.2.2.2⟩

/-- An event ring of two slots, empty or full. -/
def ringDemo (head : Nat) (en : Bool) : State := machine lpb {} {} group bundle { evEn := en, evLog := 1, evHead := head, evBase := 0x6000 }
theorem event_parts : issuesNow (ringDemo 0 true) bundle (.evtpost 2 3) = true ∧ issuesNow (ringDemo 1 true) bundle (.evtpost 2 3) = true ∧
    issuesNow (ringDemo 0 false) bundle (.evtpost 2 3) = true ∧ issuesNow demo bundle (.stampMix 1) = true ∧
    issuesNow closes closing .halt = true := by decide +kernel
theorem witness_events :
    (Issues (ringDemo 0 true) bundle (.evtpost 2 3) ∧ (((ringDemo 0 true).tenant 1).evTail + 1) % 2 ^ 1 ≠ ((ringDemo 0 true).tenant 1).evHead) ∧
    (Issues (ringDemo 1 true) bundle (.evtpost 2 3) ∧ (((ringDemo 1 true).tenant 1).evTail + 1) % 2 ^ 1 = ((ringDemo 1 true).tenant 1).evHead) ∧
    (Issues (ringDemo 0 false) bundle (.evtpost 2 3) ∧ ((ringDemo 0 false).tenant 1).evEn = false) ∧
    (∀ f ∈ (ringDemo 0 true).flights, f.team ≠ 5) ∧ Issues demo bundle (.stampMix 1) ∧
    (Issues closes closing .halt ∧ (∀ m ∈ closing.members, (closes.thread 5 m.1 m.2).inTrap = false) ∧ noRendezvous closes 5) :=
  ⟨⟨issues_of _ _ _ event_parts.1, by decide +kernel⟩, ⟨issues_of _ _ _ event_parts.2.1, by decide +kernel⟩,
    ⟨issues_of _ _ _ event_parts.2.2.1, rfl⟩, none_in, issues_of _ _ _ event_parts.2.2.2.1,
    ⟨issues_of _ _ _ event_parts.2.2.2.2, by decide +kernel, no_rendezvous _ (by decide +kernel)⟩⟩

/-! ### Witnesses: registers and translations -/

theorem witness_registers : showsTenant demo 1 1 ∧ ∀ tn, ¬showsTenant demo 2 tn := by
  refine ⟨⟨by decide, by decide, by decide +kernel, by decide +kernel, fun p hp => absurd hp (by omega)⟩, ?_⟩
  intro tn h
  exact absurd h.2.2.1 (by decide +kernel)
def idle : State := { State.reset with partitions := [(0, { tenant := 1, valid := true })], tlb := [⟨0, 1, 0x200000, 21, 15⟩, ⟨0, 1, 0, 12, 15⟩] }
theorem witness_partown : standsOn demo 0 ∧ ¬standsOn idle 0 ∧ ¬((idle.partition 0).tenant = 2 ∧ (idle.partition 0).valid = true) ∧
    ¬translationInUse idle 1 := by
  refine ⟨by unfold standsOn; decide +kernel, by unfold standsOn; decide +kernel, by decide +kernel, ?_⟩
  rintro (⟨f, h, -⟩ | ⟨q, h, -⟩ | ⟨o, h, -⟩) <;> cases h
def invalidating (v : Dword) : State := { idle with tenants := [(1, { tninv := v, invScope := v, invPend := true })] }
/-- A page's translation stands at its first and last byte, and not one byte further. -/
theorem witness_invalidation : ((invalidating 0).tenant 1).invPend = true ∧ (demo.tenant 1).invPend = false ∧
    ((0x8000000000200001 : Dword).getLsbD 63 = true ∧ (0x8000000000200001 : Dword).getLsbD 0 = true) ∧
    holdsAddress ⟨0, 1, 0x200000, 21, 15⟩ 1 0x200000 ∧ holdsAddress ⟨0, 1, 0x200000, 21, 15⟩ 1 0x3FFFFF ∧
    ¬holdsAddress ⟨0, 1, 0x200000, 21, 15⟩ 1 0x400000 := by
  refine ⟨rfl, rfl, by decide, ?_, ?_, ?_⟩ <;> (unfold holdsAddress; decide)
theorem witness_queues : (queueOfTenant (demo.tenant 1) 3).en = false ∧ ((0x90 : Word).getLsbD 7 = true ∧ (0x90 : Word).toNat % 32 = 16) ∧
    (0x91 : Word).toNat % 32 = 17 ∧ (0x80 : Word).toNat % 32 = 0 ∧ (demo.tenant 1).evEn = false ∧ (0x30 : Word).getLsbD 5 = true := by decide +kernel

/-! ### Witnesses: the picker -/

/-- Two ready threads at the clause at 0x1000; without its header, nothing is a clause there. -/
def picking (clk : Dword) (mem : List Byte) : State :=
  { machine lpb {} {} group bundle {} with cores := [(0, { clk := clk })], hbm := Sparse.putList 0 tables 0x1000 mem }
def clauseBytes : List Byte := leBytes 4 0x1FE0008A ++ leBytes 4 0x0A050000
def readyOf (u l : Nat) : Sys2Proof.Machine.Ready := ⟨5, (0, l), 0x1000, 0, false, u, false⟩
theorem picking_bundles : (picking 9 clauseBytes).candidates 0 = [[readyOf 0 0, readyOf 0 1]] ∧ firstBundles ((picking 9 clauseBytes).candidates 0) = [[readyOf 0 0, readyOf 0 1]] ∧
    (match (fetchFor (picking 9 clauseBytes) 0 (readyOf 0 0)).1 with
      | .ok ws => decide (ws = [0x1FE0008A, 0x0A050000]) && headerOk (ws.headD 0)
      | .error _ => false) = true ∧
    firstBundles ((picking 9 []).candidates 0) = [[readyOf 0 0, readyOf 0 1]] ∧
    (match (fetchFor (picking 9 []) 0 (readyOf 0 0)).1 with
      | .ok ws => !headerOk (ws.headD 0)
      | .error _ => false) = true := by decide +kernel
theorem witness_picker : (∀ c ∈ (picking 9 clauseBytes).candidates 0, c ≠ []) ∧ (picking 9 clauseBytes).candidates 0 ≠ [] := by
  rw [picking_bundles.1]; decide
theorem witness_clauseStart : (∃ x xs ws, ((picking 9 clauseBytes).core 0).bundle = none ∧ firstBundles ((picking 9 clauseBytes).candidates 0) = [x :: xs] ∧
      (fetchFor (picking 9 clauseBytes) 0 x).1 = .ok ws ∧ headerOk (ws.headD 0) = true) ∧
    ∃ x xs ws, firstBundles ((picking 9 []).candidates 0) = [x :: xs] ∧ (fetchFor (picking 9 []) 0 x).1 = .ok ws ∧ headerOk (ws.headD 0) = false := by
  obtain ⟨-, h1, h2, h3, h4⟩ := picking_bundles
  refine ⟨⟨readyOf 0 0, [readyOf 0 1], ?_⟩, ⟨readyOf 0 0, [readyOf 0 1], ?_⟩⟩
  · revert h2
    generalize (fetchFor (picking 9 clauseBytes) 0 (readyOf 0 0)).1 = x
    cases x with
    | ok ws => exact fun h => ⟨ws, rfl, h1, rfl, (Bool.and_eq_true_iff.1 h).2⟩
    | error _ => exact fun h => by cases h
  · revert h4
    generalize (fetchFor (picking 9 []) 0 (readyOf 0 0)).1 = x
    cases x with
    | ok ws => exact fun h => ⟨ws, h3, rfl, by simpa using h⟩
    | error _ => exact fun h => by cases h
/-- At cycle 1,024 the two threads' bundle has been ready long enough, at 1,023 it has not. -/
theorem witness_priority : (∃ c ∈ (picking 1024 clauseBytes).candidates 0, (∃ r ∈ c, r.since + 1024 ≤ ((picking 1024 clauseBytes).core 0).clk.toNat) ∧
      c.any (·.prio) = false) ∧
    ∀ c ∈ (picking 1023 clauseBytes).candidates 0, ¬∃ r ∈ c, r.since + 1024 ≤ ((picking 1023 clauseBytes).core 0).clk.toNat := by decide +kernel

/-! ### Witnesses: the distributor -/

def isError {α β : Type} : Except α β → Bool
  | .error _ => true
  | .ok _ => false
theorem error_of {α β : Type} {x : Except α β} (h : isError x = true) : ∃ e, x = .error e := by
  cases x with
  | error e => exact ⟨e, rfl⟩
  | ok _ => cases h
theorem ok_of {α β : Type} {x : Except α β} (h : isError x = false) : ∃ v, x = .ok v := by
  cases x with
  | error _ => cases h
  | ok v => exact ⟨v, rfl⟩

/-- The LPB of R189: entry 0x1000, T = 16, NV = 128, NU = 384, NT = 16, D = 8, FABRIC 2048, SBB 1024, GRID 1, 1, 1. -/
def lpbBytes : List Byte := leBytes 8 0x1000 ++ leBytes 4 0x40 ++ leBytes 4 0x30BFFF ++ leBytes 4 2048 ++ leBytes 4 1024 ++ leBytes 4 0 ++
  leBytes 4 0 ++ leBytes 8 0 ++ leBytes 8 0 ++ leBytes 4 1 ++ leBytes 4 1 ++ leBytes 4 1 ++ leBytes 4 0 ++ leBytes 64 0
def offered : Lpb := { lpb with entry := 0x1000 }
theorem test_parseLpb : lpbBytes.length = 128 ∧ parseLpb lpbBytes = offered := by decide +kernel
/-- A tenant with one partition, a clause at 0x1000 and a queue of two slots, the first holding the LPB. -/
def accepting (q : Queue) (bs : List Byte) : State :=
  { picking 9 clauseBytes with
    launches := [], teams := [], cores := []
    hbm := Sparse.putList 0 (Sparse.putList 0 tables 0x1000 clauseBytes) 0x7000 bs
    tenants := [(1, { tnptb := 0x10001, fwbase := 0x40000001, fwperm := [(0, 0xFFFFFFFF)], queues := [(3, q)] })] }
def ring : Queue := { base := 0x7000, log2n := 1, tail := 1, en := true }
def waitingLpb : State := accepting ring lpbBytes

def badDecidable (b : Lpb) : Decidable (badLpb b) := by unfold badLpb; infer_instance
def badNow (b : Lpb) : Bool := @decide (badLpb b) (badDecidable b)
theorem bad_of (b : Lpb) (h : badNow b = true) : badLpb b := @of_decide_eq_true _ (badDecidable b) h
theorem good_of (b : Lpb) (h : badNow b = false) : ¬badLpb b := @of_decide_eq_false _ (badDecidable b) h
/-- T of 2048 and 2^40 teams are the most there may be. -/
theorem witness_lpbBounds : badNow { offered with t := 2064 } = true ∧ badNow { offered with t := 2048 } = false ∧
    badNow { offered with e0 := 2 ^ 20, e1 := 2 ^ 20, e2 := 2 } = true ∧ badNow { offered with e0 := 2 ^ 20, e1 := 2 ^ 20 } = false := by decide
theorem accept_parts : waitingLpb.footprintBad 1 offered = false ∧ waitingLpb.footprintBad 1 { offered with t := 2048 } = true ∧
    waitingLpb.footprintBad 1 { offered with features := 0x100 } = false ∧
    waitingLpb.footprintBad 1 { offered with seam := true, desc := 4 } = false ∧
    (waitingLpb.readSeam 1 { offered with seam := true, desc := 4 }).1 = none ∧
    isError (waitingLpb.readArgs 1 { offered with argn := 1, argaddr := 0x80000000 }).1 = true ∧
    isError (waitingLpb.readArgs 1 offered).1 = false ∧
    (match ((waitingLpb.readArgs 1 offered).2.target (waitingLpb.engineCluster 1) 1 0 0x1000).1 with
      | .ok _ => true
      | .error _ => false) = true ∧
    isError ((waitingLpb.readArgs 1 offered).2.target (waitingLpb.engineCluster 1) 1 0 0x1004).1 = true := by decide +kernel
theorem lpb_covered : covered waitingLpb 1 offered ∧ ¬covered waitingLpb 1 { offered with features := 0x100 } := by
  unfold covered; decide +kernel
/-- Each row of R190's table comes first somewhere, and one LPB passes. -/
theorem witness_acceptance : badLpb { offered with t := 0 } ∧
    (¬badLpb { offered with det := true, gang := true } ∧ ({ offered with det := true, gang := true } : Lpb).det = true) ∧
    (¬badLpb { offered with t := 2048 } ∧ waitingLpb.footprintBad 1 { offered with t := 2048 } = true) ∧
    (¬badLpb offered ∧ waitingLpb.footprintBad 1 { offered with features := 0x100 } = false ∧ ¬covered waitingLpb 1 { offered with features := 0x100 }) ∧
    (waitingLpb.footprintBad 1 { offered with seam := true, desc := 4 } = false ∧ covered waitingLpb 1 offered ∧
      (waitingLpb.readSeam 1 { offered with seam := true, desc := 4 }).1 = none) ∧
    (∃ e, (waitingLpb.readArgs 1 { offered with argn := 1, argaddr := 0x80000000 }).1 = .error e) ∧
    (∃ a, (waitingLpb.readArgs 1 offered).1 = .ok a) ∧
    (∃ e, ((waitingLpb.readArgs 1 offered).2.target (waitingLpb.engineCluster 1) 1 0 0x1004).1 = .error e) := by
  obtain ⟨-, h2, h3, h4, h5, h6, h7, -, h9⟩ := accept_parts
  exact ⟨bad_of _ (by decide), ⟨good_of _ (by decide), rfl⟩, ⟨good_of _ (by decide), h2⟩, ⟨good_of _ (by decide), h3, lpb_covered.2⟩, ⟨h4, lpb_covered.1, h5⟩,
    error_of h6, ok_of h7, error_of h9⟩

theorem line_parts : waitingLpb.sourceLines 1 = [⟨0, 3, .queue 3⟩] ∧ waitingLpb.headBlocked 1 (.queue 3) offered = false ∧
    (match (waitingLpb.readVa (waitingLpb.engineCluster 1) 1 0x7000 128).1 with
      | .ok bs => decide (bs = lpbBytes)
      | .error _ => false) = true ∧
    isError ((accepting { ring with base := 0x80000000 } []).readVa 0 1 0x80000000 128).1 = true ∧
    (accepting { ring with base := 0x80000000 } []).sourceLines 1 = [⟨0, 3, .queue 3⟩] := by decide +kernel
theorem distributes_parts : distributes waitingLpb 1 := ⟨rfl, rfl, rfl, rfl, 0, by decide, rfl, rfl⟩
theorem witness_accept : distributes waitingLpb 1 ∧ (waitingLpb.tenant 1).retake = [] ∧ waitingLpb.sourceLines 1 = [⟨0, 3, .queue 3⟩] ∧
    (waitingLpb.readVa (waitingLpb.engineCluster 1) 1 0x7000 128).1 = .ok lpbBytes ∧ waitingLpb.headBlocked 1 (.queue 3) (parseLpb lpbBytes) = false ∧
    (parseLpb lpbBytes).event = 0 ∧ (∃ e, ((accepting { ring with base := 0x80000000 } []).readVa 0 1 0x80000000 128).1 = .error e) := by
  obtain ⟨h1, h2, h3, h4, -⟩ := line_parts
  refine ⟨distributes_parts, rfl, h1, ?_, by rw [test_parseLpb.2]; exact h2, by rw [test_parseLpb.2]; rfl, error_of h4⟩
  revert h3
  generalize (waitingLpb.readVa (waitingLpb.engineCluster 1) 1 0x7000 128).1 = x
  cases x with
  | ok bs => exact fun h => by rw [of_decide_eq_true h]
  | error _ => exact fun h => by cases h
/-- In the state that the acceptance checks, the LPB is accepted, and with T = 0 refused. -/
theorem witness_verdict : (match ((consumed (waitingLpb.readVa 0 1 0x7000 128).2 1 ⟨0, 3, .queue 3⟩ ⟨.queue 3, lpbBytes, 0, 0, none, none, false⟩).checkLpb 1
      (parseLpb lpbBytes) false).1 with
    | .accepted b args _ => decide (b = offered) && args.isEmpty
    | _ => false) = true := by decide +kernel

/-- A launch of one team to be placed. -/
def placing : State := { waitingLpb with launches := [(6, { live := true, tenant := 1, lpb := offered, total := 1, order := 6 })] }
theorem place_parts : placing.dispatchOrder 1 = [6] ∧ placing.openGangs 1 = [] ∧ placing.tenantTeams 1 = [] ∧
    placing.findSpot 1 6 none (fun c => (placing.partsOf 1).contains (partOf (clusterOf c))) = some ⟨0, 1, 0⟩ := by decide +kernel
theorem witness_placement : distributes placing 1 ∧ (placing.tenant 1).waiting = [] ∧ placing.openGangs 1 = [] ∧
    (∀ k ∈ placing.tenantTeams 1, (placing.team k).stopping = false ∧ (placing.team k).awaiting = false) ∧
    (∀ k ∈ placing.tenantLaunches 1, (placing.launch k).stranded = false) ∧ placing.dispatchOrder 1 = [6] ∧ plainLaunch (placing.launch 6) ∧
    placing.findSpot 1 6 none (fun c => (placing.partsOf 1).contains (partOf (clusterOf c))) = some ⟨0, 1, 0⟩ := by
  obtain ⟨h1, h2, h3, h4⟩ := place_parts
  exact ⟨⟨rfl, rfl, rfl, rfl, 0, by decide, rfl, rfl⟩, rfl, h2, by rw [h3]; simp, by decide +kernel, h1, ⟨rfl, rfl, rfl, rfl, fun k i h => by cases h⟩, h4⟩
theorem witness_coreTakes : coreTakes placing 6 0 := ⟨rfl, rfl, by decide +kernel, by decide +kernel, by decide +kernel⟩

/-- An exited team of a launch, DET or not, which holds the ticket. -/
def exitedTeam (det : Bool) (x : Team) : State :=
  { machine { lpb with det := det, t := 16 } {} { x with exited := true } group bundle {} with cores := [] }
def stagedWrite : Stage := ⟨0x2010, false, 0, 0, [1, 2, 3, 4], [], false, 0⟩
theorem retire_parts : (exitedTeam false {}).retirable 5 = true ∧ (exitedTeam true {}).retirable 5 = true ∧
    (exitedTeam true {}).holder 6 = some 5 ∧ (exitedTeam true {}).writesDone 5 = true ∧
    (exitedTeam true { staging := [stagedWrite] }).holder 6 = some 5 ∧
    (match ((exitedTeam true { staging := [stagedWrite] }).globalNow 0 1 0x2010 .write).1 with
      | .ok l => decide (l = .hbm 0x2010 false)
      | .error _ => false) = true := by decide +kernel
theorem witness_retire : ((exitedTeam false {}).retirable 5 = true ∧ distributes (exitedTeam false {}) 1 ∧
      ((exitedTeam false {}).launch 6).completed = false ∧ ((exitedTeam false {}).team 5).island = none ∧
      ((exitedTeam false {}).team 5).handles = [] ∧ ((exitedTeam false {}).lpbOf 5).seam = false) ∧
    ((exitedTeam true {}).holder 6 = some 5 ∧ ((exitedTeam true {}).launch 6).completed = false ∧ ((exitedTeam true {}).team 5).staging = [] ∧ ((exitedTeam true {}).team 5).exited = true ∧
      (exitedTeam true {}).writesDone 5 = true ∧
      ∀ e ∈ (exitedTeam true {}).teams, ((exitedTeam true {}).team e.1).launch = 6 →
        ((exitedTeam true {}).team e.1).index ≠ ((exitedTeam true {}).launch 6).ticket + 1) ∧
    ((exitedTeam true { staging := [stagedWrite] }).holder 6 = some 5 ∧ ((exitedTeam true { staging := [stagedWrite] }).team 5).staging = [stagedWrite] ∧
      ((exitedTeam true { staging := [stagedWrite] }).globalNow 0 1 0x2010 .write).1 = .ok (.hbm 0x2010 false)) := by
  obtain ⟨h1, -, h3, h4, h5, h6⟩ := retire_parts
  refine ⟨⟨h1, ⟨rfl, rfl, rfl, rfl, 0, by decide, rfl, rfl⟩, rfl, rfl, rfl, rfl⟩, ⟨h3, rfl, rfl, rfl, h4, by decide +kernel⟩, h5, rfl, ?_⟩
  revert h6
  generalize ((exitedTeam true { staging := [stagedWrite] }).globalNow 0 1 0x2010 .write).1 = x
  cases x with
  | ok bs => exact fun h => by rw [of_decide_eq_true h]
  | error _ => exact fun h => by cases h
def finished : State := { waitingLpb with launches := [(6, { live := true, tenant := 1, lpb := offered, total := 1, next := 1, retired := 1, source := .queue 3 })] }
theorem witness_completes : finished.completable 6 = true ∧ (finished.launch 6).lpb.det = false ∧ (finished.launch 6).source = .queue 3 ∧
    (finished.launch 6).lpb.event = 0 := ⟨by decide +kernel, rfl, rfl, rfl⟩

/-! ### Witnesses: the Seam unit and the Lacing engine -/

/-- A seam of four points in a row, each after its predecessor; the first point is complete. -/
def seamUnit1 : Seam := { ndim := 1, vecs := [(1, 0, 0)], runcap := 4, rstate := 1, rows := [(0, ⟨1, 0⟩)] }
def firing (u : Seam) : State :=
  { waitingLpb with launches := [(6, { live := true, tenant := 1, lpb := { offered with seam := true, e0 := 4 }, total := 4, seamUnit := u })] }
theorem witness_seamFire : seamRuns (firing seamUnit1) 6 ∧ seamUnit1.running.length < seamUnit1.runcap ∧
    pointReady seamUnit1 ((firing seamUnit1).launch 6).lpb 1 ∧ ∀ k, k < 1 → ¬pointReady seamUnit1 ((firing seamUnit1).launch 6).lpb k := by
  refine ⟨⟨rfl, rfl, rfl, rfl, rfl, rfl, rfl, 0, by decide, rfl, rfl⟩, by decide, ⟨by decide +kernel, by unfold rowHas; decide +kernel, by decide,
    by decide +kernel, ?_⟩, ?_⟩
  · intro d hd
    simp only [seamUnit1, List.mem_singleton] at hd
    subst hd
    exact .inl (by decide)
  · intro k hk h
    have : k = 0 := by omega
    subst this
    exact h.2.1 (.inl (by decide))

/-- The low face is linked; the record of the other launch, in the fabric, fits or not. -/
def linkedUnit (a : Nat) : Seam := { seamUnit1 with rows := [], faces := 1, bytes := List.replicate 0x30 0 ++ leBytes 8 a ++ leBytes 72 0 }
def seamRecord (shape rstate : Nat) : List Byte := leBytes 4 shape ++ leBytes 4 4 ++ leBytes 4 1 ++ leBytes 4 1 ++ leBytes 112 0 ++ leBytes 4 rstate ++
  leBytes 124 0 ++ leBytes 4 4 ++ leBytes 12 0
def rereading (a shape rstate : Nat) : State :=
  { firing (linkedUnit a) with fab := Sparse.putList 0 [] 0x80000 (seamRecord shape rstate) }
theorem reread_parts : ((linkedUnit 0x40080000).candidates ((firing (linkedUnit 0x40080000)).launch 6).lpb).any (fun n =>
      (linkedUnit 0x40080000).waitsOn ((firing (linkedUnit 0x40080000)).launch 6).lpb 0 n) = true ∧
    isError ((rereading 0x80000000 1 1).readVa ((rereading 0x80000000 1 1).engineCluster 1) 1 0x80000000 0x100).1 = true ∧
    (match ((rereading 0x40080000 1 1).readVa ((rereading 0x40080000 1 1).engineCluster 1) 1 0x40080000 0x100).1 with
      | .ok bs => decide (leNat ((bs.drop 0x80).take 4) = 1 ∧ leNat (bs.take 4) % 4 = 1 ∧ leNat ((bs.drop 8).take 4) = 1)
      | .error _ => false) = true ∧
    (match ((rereading 0x40080000 2 1).readVa ((rereading 0x40080000 2 1).engineCluster 1) 1 0x40080000 0x100).1 with
      | .ok bs => decide (leNat ((bs.drop 0x80).take 4) = 1 ∧ leNat (bs.take 4) % 4 = 2)
      | .error _ => false) = true ∧
    (match ((rereading 0x40080000 1 4).readVa ((rereading 0x40080000 1 4).engineCluster 1) 1 0x40080000 0x100).1 with
      | .ok bs => decide (leNat ((bs.drop 0x80).take 4) = 4)
      | .error _ => false) = true := by decide +kernel
theorem witness_reread : seamRuns (rereading 0x40080000 1 1) 6 ∧ (linkedUnit 0x40080000).faces.testBit 0 = true ∧
    (∃ n ∈ (linkedUnit 0x40080000).candidates ((firing (linkedUnit 0x40080000)).launch 6).lpb,
      (linkedUnit 0x40080000).waitsOn ((firing (linkedUnit 0x40080000)).launch 6).lpb 0 n = true) ∧
    leNat (((linkedUnit 0x40080000).bytes.drop 0x30).take 8) = 0x40080000 ∧
    ∃ e, ((rereading 0x80000000 1 1).readVa ((rereading 0x80000000 1 1).engineCluster 1) 1 0x80000000 0x100).1 = .error e :=
  ⟨⟨rfl, rfl, rfl, rfl, rfl, rfl, rfl, 0, by decide, rfl, rfl⟩, by decide, List.any_eq_true.1 reread_parts.1, by decide +kernel,
    error_of reread_parts.2.1⟩

/-- The island-set descriptor of R219 in the fabric: NBODY 8, RECSZ 64, BODYTAB 0x100000, LSTORE 0x200000, LMAX 16, RPTMAX 256, a GANG-less ISL LPB. -/
def islBytes : List Byte := leBytes 4 8 ++ leBytes 4 64 ++ leBytes 4 2 ++ leBytes 4 0 ++ leBytes 8 0x100000 ++ leBytes 8 0x200000 ++ leBytes 4 16 ++
  leBytes 4 4 ++ leBytes 4 256 ++ leBytes 4 0 ++ leBytes 8 0 ++ leBytes 72 0 ++ leBytes 8 0x1000 ++ leBytes 4 0x800040 ++ leBytes 4 0x30BFFF ++
  leBytes 4 2048 ++ leBytes 4 1024 ++ leBytes 104 0
def slotDemo (x : IslSlot) : State :=
  { waitingLpb with
    fab := Sparse.putList 0 [] 0x80000 islBytes
    tenants := [(1, { tnptb := 0x10001, fwbase := 0x40000001, fwperm := [(0, 0xFFFFFFFF)], slots := [(0, x)] })] }
theorem slot_parts : (match ((slotDemo { addr := 0x40080000 }).readVa ((slotDemo { addr := 0x40080000 }).engineCluster 1) 1 0x40080000 256) with
    | (.ok bs, s) => decide (bs = islBytes) && !(s.setBad 1 0 bs).1 && (parseIslDesc bs).nbody == 8
    | _ => false) = true ∧
    isError ((slotDemo { addr := 0x80000000 }).readVa ((slotDemo { addr := 0x80000000 }).engineCluster 1) 1 0x80000000 256).1 = true ∧
    (match ((slotDemo { addr := 0x40000000 }).readVa ((slotDemo { addr := 0x40000000 }).engineCluster 1) 1 0x40000000 256) with
    | (.ok bs, s) => (s.setBad 1 0 bs).1
    | _ => false) = true := by decide +kernel
theorem witness_sets : ((setOf (slotDemo { addr := 0x8000 }) 1 0).en = false ∧ (setOf (slotDemo { addr := 0x8000 }) 1 0).active = false ∧
      (3 : Word).getLsbD 0 = true ∧ (3 : Word).getLsbD 1 = true) ∧
    ((setOf (slotDemo { active := true }) 1 0).en = false ∧ (setOf (slotDemo { active := true }) 1 0).active = true) ∧
    ((setOf (slotDemo openSet) 1 0).en = true ∧ (setOf (slotDemo openSet) 1 0).reenable = false ∧ (2 : Word).getLsbD 0 = false) ∧
    (setOf (slotDemo openSet) 1 0).active = true := by decide +kernel
/-- A report for a set that is not held, one with room, one whose log is full. -/
def reporting (x : IslSlot) : State := { slotDemo x with sent := [⟨1, 0, ⟨0, 1, 2⟩, 0, 5⟩] }
theorem witness_reporting : (reporting {}).sent = ⟨1, 0, ⟨0, 1, 2⟩, 0, 5⟩ :: [] ∧ (setOf (reporting {}) 1 0).active = false ∧
    ((setOf (reporting openSet) 1 0).active = true ∧ (setOf (reporting openSet) 1 0).poisoned = false ∧
      (setOf (reporting openSet) 1 0).reports.length < (setOf (reporting openSet) 1 0).desc.rptmax) ∧
    (setOf (reporting { openSet with desc := { rptmax := 1 }, reports := [⟨3, 1, 0⟩] }) 1 0).desc.rptmax ≤
      (setOf (reporting { openSet with desc := { rptmax := 1 }, reports := [⟨3, 1, 0⟩] }) 1 0).reports.length := by decide +kernel
/-- A step to be ended: bodies 1 and 2 linked, an UNLINK of the pair and a LINK of 2 and 3 in the log. -/
def ending : State := slotDemo { openSet with desc := { nbody := 8, lmax := 3 }, links := [⟨1, 2, 0⟩], reports := [⟨2, 2, 1⟩, ⟨1, 3, 2⟩] }
theorem witness_boundary : (setOf ending 1 0).active = true ∧ (setOf ending 1 0).en = true ∧ (setOf ending 1 0).reenable = false ∧
    (setOf ending 1 0).poisoned = false ∧ (ending.tenant 1).susp = false ∧ ending.reportsOnTheWay 1 0 = false ∧
    (∀ i ∈ (setOf ending 1 0).islands, ending.gangDone i = true) ∧ (setOf ending 1 0).reports ≠ [] ∧
    unlinks (setOf ending 1 0) ⟨1, 2, 0⟩ ∧ links (setOf ending 1 0) ⟨2, 3, 1⟩ ∧ ⟨2, 3, 1⟩ ∉ (setOf ending 1 0).links ∧
    (setOf ending 1 0).links.length + (setOf ending 1 0).reports.length ≤ (setOf ending 1 0).desc.lmax := by
  unfold unlinks links; decide +kernel

/-! ### Witnesses: recovery -/

/-- A context with one team, whose bundle stands on core 0 or does not. -/
def context (x : Tenant) (b : Option Bundle) (t : Team) : State := { machine lpb {} t group bundle x with cores := [(0, { bundle := b })] }
theorem context_parts : (∀ k ∈ (context { ctxPend := true } none {}).tenantTeams 1, ((context { ctxPend := true } none {}).team k).retired = false →
      (context { ctxPend := true } none {}).teamQuiet k = true ∧ (context { ctxPend := true } none {}).offSlices k = true) ∧
    (context {} none {}).tenantTeams 1 = [5] ∧ 5 ∈ (context {} (some bundle) {}).tenantTeams 1 ∧
    (context {} (some bundle) {}).offSlices 5 = false := by decide +kernel
theorem witness_suspend : (((context {} none {}).tenant 1).susp = false ∧ ((context {} none {}).tenant 1).ctxPend = false ∧
      ((context {} none {}).tenant 1).dead = false ∧ toStop (context {} none {}) 1 5) ∧
    ((context { ctxPend := true } none {}).tenant 1).ctxPend = true ∧
    (((context { susp := true } none { suspended := true }).tenant 1).susp = true ∧
      ((context { susp := true } none { suspended := true }).tenant 1).ckPend = false ∧
      ((context { susp := true } none { suspended := true }).team 5).suspended = true) :=
  ⟨⟨rfl, rfl, rfl, by rw [context_parts.2.1]; simp, rfl, rfl, rfl, rfl⟩, rfl, rfl, rfl, rfl⟩
theorem witness_kill : ((context {} none {}).partition 0).valid = true ∧ ((context {} none {}).partition 0).tenant = 1 ∧
    ((context {} none {}).partition 1).valid = false := ⟨rfl, rfl, rfl⟩
/-- A log one byte below its mark: SIZEG 1 leaves 976 MiB. -/
def logged (n : Nat) : State :=
  { context { ckEn := true } none {} with
    partitions := [(0, { tenant := 1, valid := true, sizeg := 1, undo := List.replicate n ⟨0, [], false⟩ })] }
theorem witness_checkpoint : ((context {} none {}).tenant 1).ckEn = false ∧ ((context { ckEn := true } none {}).tenant 1).ckEn = true ∧
    ((logged 3).partition 0).valid = true ∧ ((logged 3).tenant 1).ckEn = true ∧ ((logged 3).tenant 1).ckPend = false ∧
    (1 * 2 ^ 30 - 48 * 2 ^ 20 - 72 * 13281963 < 64 * 2 ^ 20) ∧ ¬(1 * 2 ^ 30 - 48 * 2 ^ 20 - 72 * 13281962 < 64 * 2 ^ 20) :=
  ⟨rfl, rfl, rfl, rfl, rfl, by decide, by decide⟩
/-- One line logged since the checkpoint, whose team 5 stood. -/
def rolling (n : Nat) : State :=
  { context { ckEn := true, rolls := n } none {} with
    partitions := [(0, { tenant := 1, valid := true, undo := [⟨3, List.replicate 64 7, false⟩] })]
    ckpts := [(1, { live := true, teams := [(5, { live := true, tenant := 1, launch := 6, groups := [(0, group)] })] })] }
theorem rolling_undo : undoOf (rolling 0) 1 3 ⟨3, List.replicate 64 7, false⟩ := ⟨0, by decide +kernel, by decide +kernel, rfl⟩
theorem rolling_undos (l : Nat) (u : Undo) (h : undoOf (rolling 0) 1 l u) : u = ⟨3, List.replicate 64 7, false⟩ := by
  obtain ⟨p, hp, hu, -⟩ := h
  have : (rolling 0).partsOf 1 = [0] := by decide +kernel
  rw [this, List.mem_singleton] at hp
  subst hp
  exact List.mem_singleton.1 hu
theorem witness_rollback : ((rolling 0).tenant 1).ckEn = true ∧ ((rolling 0).tenant 1).dead = false ∧ ((rolling 0).tenant 1).rolls ≠ 2 ∧
    ((rolling 2).tenant 1).rolls = 2 ∧ ((context {} none {}).tenant 1).ckEn = false ∧
    Sparse.wf {} ((rolling 0).ckpts.get {} 1).teams = true ∧ (((rolling 0).ckpts.get {} 1).teams.get {} 5).live = true ∧
    (∀ e ∈ ((rolling 0).ckpts.get {} 1).launches, e.2.lpb.seam = false) ∧
    (∀ e ∈ (rolling 0).launches, e.2.tenant ≠ 1 → e.2.lpb.seam = false) ∧
    (∀ i, (((rolling 0).ckpts.get {} 1).slots.get {} i).active = false ∧ (setOf (rolling 0) 1 i).active = false) ∧
    ∀ l u v, undoOf (rolling 0) 1 l u → undoOf (rolling 0) 1 l v → u = v ∧ u.bytes.length = 64 := by
  refine ⟨rfl, rfl, by decide, rfl, rfl, by decide +kernel, rfl, by decide, by decide +kernel, fun i => ⟨rfl, rfl⟩, fun l u v hu hv => ?_⟩
  rw [rolling_undos l u hu, rolling_undos l v hv]
  exact ⟨rfl, by decide⟩
def idem (t : Team) : State := machine { lpb with idem := true, retry := 2 } {} t group bundle {}
theorem witness_faults : (((idem {}).team 5).live = true ∧ ((idem {}).lpbOf 5).idem = true ∧ ((idem {}).team 5).exposed = false ∧
      ((idem { relaunches := 1 }).team 5).relaunches < ((idem { relaunches := 1 }).lpbOf 5).retry ∧ ((idem {}).team 5).gangSize = 1 ∧
      ((idem {}).team 5).island = none) ∧
    ¬((idem { relaunches := 2 }).team 5).relaunches < ((idem { relaunches := 2 }).lpbOf 5).retry ∧
    ((idem {}).tenant 1).dead = false ∧ ((context { ckEn := true } none {}).tenant 1).ckEn = true ∧ ((context {} none {}).tenant 1).ckEn = false ∧
    NatSet.has ({ demo with flitFault := NatSet.set [] 0 true } : State).flitFault 0 = true ∧ (idem {}).working = [1] := by decide +kernel
/-- Every unit that an error can strike, at the ends of its range. -/
theorem witness_errors : 64 * 19999999999 < hbmTop ∧ ¬64 * 20000000000 < hbmTop ∧
    (8 * 335544319 < 320 * 2 ^ 23 ∧ demo.regionAt (8 * 335544319 / 2 ^ 23) (8 * 335544319 % 2 ^ 23) = none) ∧
    ((demo.group 5 0).live = true ∧ 15 < (demo.lpbOf 5).w ∧ 127 < (demo.lpbOf 5).nv ∧ 383 < (demo.lpbOf 5).nu ∧ 15 < (demo.lpbOf 5).nt) ∧
    (((resvDemo oneResv).team 5).live = true ∧ (((resvDemo oneResv).team 5).resv.get {} 1).live = true ∧
      8 * 0 < 64 * (((resvDemo oneResv).team 5).resv.get {} 1).size) := by decide +kernel
theorem witness_images : (((context {} none { suspended := true }).team 5).suspended = true ∧ ((context {} none { suspended := true }).team 5).complete = false) ∧
    ((context {} none { suspended := true }).team 5).live = true ∧ ((context {} none { suspended := true }).team 5).gangSize = 1 ∧
    ((context {} none { suspended := true }).team 5).moved = none ∧ ((context {} none { suspended := true }).team 5).swapped = none ∧
    ((context {} none { suspended := true }).launchOf 5).lpb.seam = false ∧
    ((context {} none { suspended := true }).pagesWritable 1 0x200000 ((context {} none { suspended := true }).team 5).region).1 = true := by decide +kernel

/-! ### Witnesses: margins, clocks and the debug port -/

def margin (x : Core) : State := { demo with cores := [(0, { x with bundle := some { bundle with header := 0xFFE0C08A } })] }
theorem witness_replays : ((margin {}).core 0).bundle = some { bundle with header := 0xFFE0C08A } ∧ (margin {}).accumulates 0 = false ∧
    ({ bundle with header := 0xFFE0C08A }).nonReplayable ((margin {}).lpbOf 5).w = false ∧ min (510 + 1) 511 = 511 ∧
    ((margin { wcount := 15 }).core 0).wcount + 1 ≤ ((margin { wcount := 15 }).core 0).limit ∧
    ((margin { wcount := 16, cstep := 9 }).core 0).limit < ((margin { wcount := 16, cstep := 9 }).core 0).wcount + 1 ∧
    ((margin { wcount := 16, cstep := 9 }).core 0).settling = false ∧ ((margin { wcount := 16, cstep := 9 }).core 0).cstep < 10 ∧
    10 ≤ ((margin { wcount := 16 }).core 0).cstep ∧
    (((margin { ceilAt := [0, 0] }).core 0).ceilAt.filter (fun n => decide (((margin {}).core 0).clk.toNat < n + 2 ^ 30))).length = 2 := by decide +kernel
theorem witness_margins : (min 10 (0x1F / 2 % 16) = 10) ∧ (({ demo with cores := [(0, { settling := true })] } : State).core 0).settling = true ∧
    ((margin {}).core 0).clk.toNat % 2 ^ ((margin {}).core 0).winlog = 0 ∧ hdrNR 0xFFE0C08A = true ∧
    (({ demo with cores := [(0, { quar := true })] } : State).core 0).quar = true ∧
    (∀ e ∈ demo.launches, (demo.launch e.1).stranded = false) := by decide +kernel
theorem witness_clocks : ((margin { cur := 12 }).core 0).cur ≠ ratioInForce (margin { cur := 12 }) 0 ∧ ratioInForce (margin {}) 0 = 16 ∧
    ((margin { pcap := 8 }).core 0).pcap < 9 ∧ ((margin {}).core 1919).quar = false ∧
    ((margin {}).core 1919).alarm = false ∧ unitsIdle (margin {}) 1919 = 3 ∧ unitsIdle (margin {}) 0 = 2 ∧ ((margin { alarm := true }).core 0).alarm = true ∧
    NatSet.has ({ demo with coresLeft := NatSet.set [] 0 true } : State).coresLeft 0 = true := by decide +kernel

/-- v3 of lane 1 in the image of team 5, stopped or not, with a load of it under way or not. -/
def debugged (st : Status) (fs : List Flight) (x : Tenant) : State :=
  { machine lpb {} {} { group with threads := [(0, thread 0), (1, { thread 1 with status := st })], tiles := [(3, { v := true })] } bundle
      { x with dbgData := 9 } with flights := fs }
def loadingV3 : Flight := { id := 40, kind := .load, team := 5, group := 0, lane := 1, reg := 3 }
theorem debug_parts : (debugged .stopped [] { dbgAddr := 0x80000000 }).dbgTarget 1 = none ∧
    (debugged .stopped [] { dbgAddr := BitVec.ofNat 64 (0x40000000 + imageWord) }).dbgTarget 1 = some (5, imageWord) ∧
    (debugged .ready [] { dbgAddr := BitVec.ofNat 64 (0x40000000 + imageWord) }).dbgTarget 1 = some (5, imageWord) ∧
    (lpb.place imageWord = some (0, .vector 1 3)) := by decide +kernel
theorem witness_debug : ((debugged .stopped [] { dbgPend := true }).tenant 1).dbgPend = true ∧
    (debugged .stopped [] { dbgAddr := 0x80000000 }).dbgTarget 1 = none ∧
    ((debugged .stopped [] {}).thread 5 0 1).status = .stopped ∧ ((debugged .ready [] {}).thread 5 0 1).status ≠ .stopped ∧
    vectorPending (debugged .stopped [loadingV3] {}) 5 0 1 3 ∧ ¬vectorPending (debugged .stopped [] {}) 5 0 1 3 ∧
    ((debugged .stopped [] {}).team 5).suspended = false ∧ ((debugged .stopped [] {}).team 5).moved = none :=
  ⟨rfl, debug_parts.1, rfl, by decide +kernel, by unfold vectorPending; decide +kernel, by unfold vectorPending; decide +kernel, rfl, rfl⟩
/-- Element 0 of tile 3: the write waits for F. -/
def tileImage : Nat := lpb.groupOff 0 + lpb.tileOff + 4096 * 3
def tileDebug : State := debugged .stopped [] { dbgPend := true, dbgAddr := BitVec.ofNat 64 (0x40000000 + tileImage) }
theorem witness_debugTile : (tileDebug.tenant 1).dbgPend = true ∧ tileDebug.dbgTarget 1 = some (5, tileImage) ∧
    (tileDebug.lpbOf 5).place tileImage = some (0, .tile 3 0) ∧ ((tileDebug.group 5 0).tiles.get {} 3).f = false ∧ (tileDebug.team 5).moved = none := by
  decide +kernel

/-! ### Witnesses: links, host, boot and management -/

/-- Window 1 admits atomics and stores of module 3 to GiB 2 and 3; window 0 is disabled. -/
def windowed (m : Inbound) (n : Nat) (buf : List Contribution) : State :=
  { demo with
    windows := [(1, { en := true, rd := true, wr := true, at_ := true, src := 3, base := 2, size := 2, xrn := 2, next := n, buffer := buf })]
    inbox := [m] }
def peerLoad (q a : Nat) : Inbound := .peer q .load a 8 [] 0 0
theorem windows_admit : firstAdmits (windowed (peerLoad 3 0x80000000) 0 []) 3 (fun w => needs w .load) 0x80000000 8 1 ∧
    firstAdmits (windowed (peerLoad 3 0x80000000) 0 []) 3 (fun w => needs w .store) 0xFFFFFFF8 8 1 ∧
    firstAdmits (windowed (peerLoad 3 0x80000000) 0 []) 3 (fun w => w.at_) 0xFFFFFFFC 4 1 ∧
    ∀ w, w < 16 → ¬admits (windowOf (windowed (peerLoad 3 0xFFFFFFFC) 0 []) w) 3 (needs (windowOf (windowed (peerLoad 3 0xFFFFFFFC) 0 []) w) .load)
      0xFFFFFFFC 8 := by
  refine ⟨?_, ?_, ?_, ?_⟩ <;> (try unfold firstAdmits) <;> (unfold admits) <;> decide +kernel
theorem witness_windows : (windowed (peerLoad 3 0x80000000) 0 []).inbox = .peer 3 .load 0x80000000 8 [] 0 0 :: [] ∧
    (windowed (.xred 3 0 0 0 [(0xFFFFFFFC, 4)] [1, 2, 3, 4]) 0 []).inbox = .xred 3 0 0 0 [(0xFFFFFFFC, 4)] [1, 2, 3, 4] :: [] ∧
    ((windowOf (windowed (peerLoad 3 0) 0 []) 1).xrn ≤ 2 ∧ 1 < (windowOf (windowed (peerLoad 3 0) 0 []) 1).xrn) ∧
    (0 = (windowOf (windowed (peerLoad 3 0) 0 []) 1).next ∧ (windowOf (windowed (peerLoad 3 0) 0 []) 1).buffer = []) ∧
    (0 ≠ (windowOf (windowed (peerLoad 3 0) 1 []) 1).next ∧ (windowOf (windowed (peerLoad 3 0) 1 []) 1).buffer.length < 64) := by decide +kernel
theorem witness_host : ({ demo with inbox := [.host 0 1279999999996 [1, 2, 3, 4]] } : State).inbox = .host 0 1279999999996 [1, 2, 3, 4] :: [] ∧
    1279999999996 + 4 ≤ 1280000000000 ∧ 1280000000000 < 1279999999997 + 4 ∧
    ((State.reset).tenants = []) ∧ ({ demo with inbox := [.redfish 1] } : State).inbox = .redfish 1 :: [] ∧
    ({ demo with inbox := [.spdm 0xE0 0xFF []] } : State).inbox = .spdm 0xE0 0xFF [] :: [] := by decide +kernel
theorem no_header : ¬imageAccepted [] := by
  intro h
  exact absurd h.1 (by decide +kernel)
theorem witness_boot : ({ demo with boot := {} } : State).boot.stage = 0 ∧
    (({ demo with boot := { stage := 1 } } : State).boot.stage = 1 ∧ ({ demo with boot := { stage := 1 } } : State).boot.recovery = false ∧
      ∀ m ∈ ({ demo with boot := { stage := 1 } } : State).inbox, ∀ p bs, m ≠ .image p bs) ∧
    ({ demo with boot := { stage := 1 }, inbox := [.image 0 []] } : State).inbox = .image 0 [] :: [] ∧ ¬imageAccepted [] ∧
    Sparse.wf {} demo.cores = true ∧ (∀ e ∈ ({ demo with tenants := [(1, { dead := true })] } : State).tenants, e.2.dead = true) ∧
    demo.boot.image = [] := by
  refine ⟨rfl, ⟨rfl, rfl, fun m hm => by cases hm⟩, rfl, no_header, by decide +kernel, by decide, rfl⟩

/-! ### Witnesses: steps -/

theorem walk_parts : (match demo.walk 1 0x2000 with
    | .leaf _ l => l == 30
    | _ => false) = true ∧ (match demo.walk 1 0x80000000 with
    | .fault => true
    | _ => false) = true ∧ (demo.tenant 1).tnptb.getLsbD 0 = true ∧ (demo.tenant 2).tnptb.getLsbD 0 = false := by decide +kernel
theorem witness_walk : (∀ e ∈ demo.tlb, e.cluster = 0 → ¬holdsAddress e 1 (2 * 4096)) ∧ (demo.tenant 1).tnptb.getLsbD 0 = true ∧
    (∃ pte, demo.walk 1 (2 * 4096) = .leaf pte 30) ∧ demo.walk 1 (0x80000 * 4096) = .fault ∧ (demo.tenant 2).tnptb.getLsbD 0 = false := by
  obtain ⟨h1, h2, h3, h4⟩ := walk_parts
  refine ⟨fun e he => by (cases he), h3, ?_, ?_, h4⟩
  · revert h1
    show _ → ∃ pte, demo.walk 1 0x2000 = .leaf pte 30
    generalize demo.walk 1 0x2000 = x
    cases x <;> simp
  · revert h2
    show _ → demo.walk 1 0x80000000 = .fault
    generalize demo.walk 1 0x80000000 = x
    cases x <;> simp
/-- A core's turn to issue: NOP, then a word that is none, then the end of the clause; and an event's turn. -/
def turning (p : Nat) : State :=
  { machine lpb {} {} group { bundle with header := 0x2FE0008A, words := [0x00000000, 0xFE000000], pos := p, ipos := p } {} with agenda := [⟨3, .issue 0⟩] }
theorem witness_step : (turning 0).agenda = ⟨3, .issue 0⟩ :: [] ∧ 0 < hdrCount 0x2FE0008A ∧ ¬2 < hdrCount 0x2FE0008A ∧
    (match decodeWords 0x00000000 (some 0xFE000000) with
      | .ok i => decide (i = .nop)
      | .error _ => false) = true ∧
    (match decodeWords 0xFE000000 none with
      | .ok _ => false
      | .error _ => true) = true ∧
    (Instr.powerLoss).isWord = false ∧ (∃ e ∈ demo.cores, e.1 = 0) := by decide +kernel
theorem witness_stepKeeps : memoryForm (turning 0) ∧ bundlesAndAgenda (turning 0) := by
  refine ⟨by unfold memoryForm; decide +kernel, fun c b h => ?_, fun x hx i hi => ?_⟩
  · by_cases hc : c = 0
    · subst hc
      have : (turning 0).core 0 = { bundle := some { bundle with header := 0x2FE0008A, words := [0x00000000, 0xFE000000], pos := 0, ipos := 0 } } := rfl
      rw [this] at h
      cases h
      decide
    · have : (turning 0).core c = {} := by
        simp only [turning, machine, State.core, Sparse.get]
        rw [if_neg (fun h => hc h.symm)]
      rw [this] at h
      cases h
  · simp only [turning, machine, List.mem_singleton] at hx
    subst hx
    cases hi
/-- A word with its every field at its greatest value, and one with the extension's. -/
theorem witness_encodes : (Instr.sadd 511 255 (.short 126)).isWord = true ∧ (Instr.sadd 511 255 (.short 126)).wf = true ∧
    (match decodeWords 0x36040C00 (some 0) with
      | .ok i => decide (i = .sget 2 12)
      | .error _ => false) = true := by decide +kernel

/-! ### Witnesses: transfers and matrix operands -/

/-- 0x80000000 is a page of module 3. Whether a route leads there is Config's to say (log 11), so the check of a transfer is shown for a part
where one does. -/
def peerTables : Sparse Byte := [(0x10000, 0x01), (0x10002, 0x02), (0x20000, 0x0F), (0x20010, 0x4F), (0x20016, 0x30)]
def peerLeaf : Dword := 0x003000000000004F
def transferGroup : Group := { copyGroup with s := [(2, 0x2000), (20, 0x80000000), (22, 16)] }
def answeredBundle : Bundle := { bundle with asked := true, peer := some (true, 0) }
def transferring : State := { machine lpb {} {} transferGroup answeredBundle {} with hbm := peerTables }
theorem transfer_parts : issuesNow transferring answeredBundle (.xcpy 20 2 (.short 22)) = true ∧ transferring.engineBusy 0 = false ∧
    (∀ g ∈ groupsOf answeredBundle, (transferring.group 5 g).counters.get 0 3 < 63) ∧
    (match transferring.walk 1 0x80000000 with
      | .leaf pte l => decide (pte = peerLeaf ∧ l = 30)
      | _ => false) = true := by decide +kernel
theorem witness_transfer (h : Config.routed 3 = true) : Issues transferring answeredBundle (.xcpy 20 2 (.short 22)) ∧
    answeredBundle.peer = some (true, 0) ∧ transferring.engineBusy 0 = false ∧
    transferOf (transferring.group 5 0) (.xcpy 20 2 (.short 22)) = some (⟨none, 0x80000000, 0x2000, 16, 1, 0, 0, false, false⟩, 1, .xcpy) ∧
    transferring.walk 1 0x80000000 = .leaf peerLeaf 30 ∧
    leafLoc 1 peerLeaf 30 0x80000000 .write true = .ok (.peer 3 0) := by
  refine ⟨issues_of _ _ _ transfer_parts.1, rfl, transfer_parts.2.1, rfl, ?_, ?_⟩
  · have hw := transfer_parts.2.2.2
    revert hw
    generalize transferring.walk 1 0x80000000 = x
    cases x with
    | leaf p l => exact fun hw => by obtain ⟨rfl, rfl⟩ := of_decide_eq_true hw; rfl
    | _ => exact fun hw => by cases hw
  · have hp : bitsOf peerLeaf.toNat 63 52 = 3 := by decide
    have ht : bitsOf peerLeaf.toNat 6 5 = 2 := by decide
    have hw : (AccKind.write.writes && !peerLeaf.getLsbD 2 || AccKind.write == AccKind.fetch && !peerLeaf.getLsbD 3) = false := by
      decide
    have hb : bitsOf peerLeaf.toNat 51 12 * 4096 + 0x80000000 % 2 ^ 30 = 0 := by decide
    simp only [leafLoc, hw, ht, hp, hb, h, Bool.false_eq_true, if_false, if_true]
/-- The last element of a T8 operand: row 31, column 63; a scaled reservation. -/
theorem witness_matrixOperands : mmaK 0 = 64 ∧ mmaK 1 = 128 ∧ mmaK 2 = 16 ∧ mmaK 3 = 16 ∧ (0x40 : Nat) % 2 ^ 12 ≠ 0 ∧
    (0x00000040 : Word).toNat / 2 ^ 4 % 4 ≤ 2 ∧ (0x00000040 : Word).getLsbD 6 = true := by decide

/-! ### Witnesses: waiting words, ownership, seams, checkpoints, faults -/

/-- Lane 1's read of host memory is not answered; lane 0's word does not wait. -/
def remoteRead : Flight := { id := 40, kind := .load, team := 5, group := 0, lane := 1, reg := 3, loc := .host 0 0x2000 }
def holding : State := { demo with flights := [remoteRead] }
theorem witness_held : (holding.core holding.cur).bundle = some bundle ∧ bundle.members.Nodup ∧
    (∃ m ∈ bundle.members, holding.remoteWait 5 m = false) ∧ (∃ m ∈ bundle.members, holding.remoteWait 5 m = true) ∧
    ∀ m ∈ bundle.members, holding.wordWait 5 m = false := by decide +kernel
/-- A sweep under way holds its bundle's next word. -/
theorem witness_wordWait : ({ demo with flights := [{ remoteRead with kind := .sweep }] } : State).wordWait 5 (0, 1) = true := by decide +kernel

/-- The tenant owns two partitions; a read of its team on the first is under way, or the second waits to be owned by another. -/
def owners (own : Option Word) (fs : List Flight) : State :=
  { demo with partitions := [(0, { tenant := 1, valid := true }), (1, { tenant := 1, valid := true, ownPend := own })], flights := fs }
def globalRead : Flight := { remoteRead with loc := .hbm 0x2000 false }
theorem witness_ownership : ¬standsOn (owners none [globalRead]) 1 ∧
    ¬(((owners none [globalRead]).partition 1).tenant = (0x42 : Word).toNat % 64 ∧ ((owners none [globalRead]).partition 1).valid = (0x42 : Word).getLsbD 6) ∧
    ((owners none [globalRead]).partition 1).valid = true ∧ translationInUse (owners none [globalRead]) 1 ∧
    (((owners none [globalRead]).partition 1).tenant = (0x41 : Word).toNat % 64 ∧ ((owners none [globalRead]).partition 1).valid = (0x41 : Word).getLsbD 6) ∧
    (∃ p, waitsToOwn (owners (some 0x42) []) 1 p) ∧ ¬translationInUse (owners (some 0x42) []) 1 ∧ (∀ p, ¬waitsToOwn (invalidating 0) 1 p) := by
  refine ⟨?_, by decide +kernel, rfl, .inl ⟨globalRead, List.mem_singleton.2 rfl, rfl, rfl, by decide, .inr rfl⟩, by decide +kernel,
    ⟨1, by decide, rfl, fun h => by cases h⟩, ?_, ?_⟩
  · unfold standsOn; decide +kernel
  · rintro (⟨f, h, -⟩ | ⟨q, h, -⟩ | ⟨o, h, -⟩) <;> cases h
  · rintro p ⟨-, -, h⟩
    refine h ?_
    simp only [invalidating, idle, State.partition, Sparse.get]
    split <;> rfl
/-- A host write waits before a TAIL write. -/
def hostFirst : State := { demo with inbox := [.host 0 0x2000 [1, 2, 3, 4]] }
theorem witness_hostFirst : (∃ p a d, Inbound.host p a d ∈ hostFirst.inbox) ∧ (∃ u, exec .inboundHostWrite hostFirst = .next u) ∧
    ∀ p a d, Inbound.host p a d ∉ demo.inbox := by
  refine ⟨⟨0, 0x2000, [1, 2, 3, 4], List.mem_singleton.2 rfl⟩, ?_, fun _ _ _ h => by cases h⟩
  have h : isNext .inboundHostWrite hostFirst = true := by decide +kernel
  unfold isNext at h
  split at h
  · exact ⟨_, rfl⟩
  · cases h

/-- R204's descriptor of four points in a row, its record at 0x8000. -/
def seamDesc : List Byte := leBytes 4 0x85 ++ leBytes 4 4 ++ leBytes 4 1 ++ leBytes 4 1 ++ leBytes 4 1 ++ leBytes 12 0 ++ leBytes 8 0x8000 ++ leBytes 4 4 ++
  leBytes 84 0
def seaming : State := { waitingLpb with hbm := Sparse.putList 0 waitingLpb.hbm 0x7100 seamDesc }
def seamOffer : Lpb := { offered with seam := true, desc := 0x7100 }
theorem seam_reads : (match (seaming.readSeam 1 seamOffer).1 with
    | some (u, b) => decide (b.e0 = 4 ∧ u.record = 0x8000 ∧ u.runcap = 4)
    | none => false) = true := by decide +kernel
theorem witness_seamRead : (∃ u b s', seamRead seaming 1 seamOffer u b s') ∧ seamRead waitingLpb 1 offered {} offered waitingLpb := by
  refine ⟨?_, .inl ⟨rfl, rfl, rfl, rfl⟩⟩
  have h := seam_reads
  generalize hx : seaming.readSeam 1 seamOffer = x at h
  rcases x with ⟨_ | ⟨u, b⟩, s'⟩
  · cases h
  · exact ⟨u, b, s', .inr ⟨rfl, hx⟩⟩
/-- T = 0 is refused with BAD_LPB, and the queue's message goes (EVENT 0). -/
theorem witness_refused : (match ((consumed (waitingLpb.readVa 0 1 0x7000 128).2 1 ⟨0, 3, .queue 3⟩ ⟨.queue 3, lpbBytes, 0, 0, none, none, false⟩).checkLpb 1
      { parseLpb lpbBytes with t := 0 } false).1 with
    | .refused st => decide (st = 2)
    | _ => false) = true := by decide +kernel

/-- A launch that completes: of a DET launch with its last team standing, and of a child with its entry in the pool. -/
def ended (x : Launch) (teams : Sparse Team) : State :=
  { waitingLpb with
    partitions := [(0, { tenant := 1, valid := true, pool := [(4, { live := true, taken := true, launch := 6 })] })]
    launches := [(6, { x with live := true, tenant := 1, total := 1, next := 1 })], teams := teams }
theorem witness_ends : (ended { lpb := { offered with det := true }, ticket := 1 } [(5, { live := true, tenant := 1, launch := 6 })]).completable 6 = true ∧
    (ended { lpb := offered, retired := 1, source := .pool 0 4 } []).completable 6 = true ∧
    (poolEntry (ended { lpb := offered, retired := 1, source := .pool 0 4 } []) 0 4).launch = 6 := by decide +kernel

/-- A checkpoint begins where nothing is under way, and where lane 1's read is. -/
def busyContext (x : Tenant) : State := { context x none {} with flights := [globalRead] }
theorem rest_parts : (context {} none {}).tenantTeams 1 = [5] ∧ (context {} none {}).teamQuiet 5 = true ∧ (context {} none {}).offSlices 5 = true ∧
    (context { ckEn := true } none {}).tenantTeams 1 = [5] ∧ (context { ckEn := true } none {}).teamQuiet 5 = true ∧
    (context { ckEn := true } none {}).offSlices 5 = true ∧ 5 ∈ (busyContext {}).tenantTeams 1 ∧ (busyContext {}).teamQuiet 5 = false := by decide +kernel
theorem witness_begins : (atRest (context {} none {}) 1 ∧ begins (context {} none {}) 1 (.checkpointEnable 1)) ∧
    (atRest (context { ckEn := true } none {}) 1 ∧ begins (context { ckEn := true } none {}) 1 (.checkpointTake 1)) ∧
    (underWay (busyContext {}) 1 ∧ begins (busyContext {}) 1 (.checkpointEnable 1)) := by
  obtain ⟨h1, h2, h3, h4, h5, h6, h7, h8⟩ := rest_parts
  refine ⟨⟨fun k hk _ => ?_, rfl, rfl, rfl⟩, ⟨fun k hk _ => ?_, rfl, rfl, rfl, rfl⟩, ⟨5, h7, rfl, h8⟩, rfl, rfl, rfl⟩
  · rw [h1, List.mem_singleton] at hk; subst hk; exact ⟨h2, h3⟩
  · rw [h4, List.mem_singleton] at hk; subst hk; exact ⟨h5, h6⟩
/-- With 13,281,963 entries a log of one GiB is below its mark. -/
theorem witness_mark (n : Nat) (h : 13281963 ≤ n) : begins (logged n) 1 (.undoLogMark 0) ∧ atRest (logged n) 1 := by
  have hl : ((logged n).partition 0).undo.length = n := List.length_replicate ..
  have ht : (logged n).tenantTeams 1 = (logged 0).tenantTeams 1 := rfl
  have hq : (logged n).teamQuiet 5 = (logged 0).teamQuiet 5 := rfl
  have ho : (logged n).offSlices 5 = (logged 0).offSlices 5 := rfl
  have h0 : (logged 0).tenantTeams 1 = [5] ∧ (logged 0).teamQuiet 5 = true ∧ (logged 0).offSlices 5 = true := by decide +kernel
  refine ⟨⟨rfl, rfl, rfl, rfl, ?_⟩, fun k hk _ => ?_⟩
  · rw [hl]
    have : ((logged n).partition 0).sizeg = 1 := rfl
    rw [this]
    omega
  · rw [ht, h0.1, List.mem_singleton] at hk; subst hk; exact ⟨hq.trans h0.2.1, ho.trans h0.2.2⟩
/-- A copy of 16 bytes whose seventh byte an error strikes. -/
def copyUnderWay : Op := { id := 9, team := 5, groups := [0], counter := 0, kind := .copy [⟨0x2000, 0x3000, 16, .hbm 0x2000 false, .hbm 0x3000 false, none⟩] none }
theorem witness_stagingByte : ({ demo with ops := [copyUnderWay] } : State).op 9 = some copyUnderWay ∧ copyUnderWay.finished = false ∧
    copyUnderWay.kind.isXred = false ∧ 15 < ((copyUnderWay.kind.segs ++ copyUnderWay.rest).map (·.len)).sum ∧
    ¬16 < ((copyUnderWay.kind.segs ++ copyUnderWay.rest).map (·.len)).sum := by decide +kernel

/-- The third ceiling escalation within 2^30 cycles. -/
theorem witness_third : let x := (margin { wcount := 16, cstep := 10, ceilAt := [0, 0] }).core 0
    x.limit < x.wcount + 1 ∧ x.settling = false ∧ 10 ≤ x.cstep ∧ 2 ≤ (x.ceilAt.filter (fun n => decide (x.clk.toNat < n + 2 ^ 30))).length := by
  decide +kernel
/-- Tile 3 is being loaded: a debug write of it waits. -/
def tileLoading : State :=
  { machine lpb {} {} { group with threads := [(1, { thread 1 with status := .stopped })], tiles := [(3, { v := true, f := true })] } bundle
      { dbgAddr := BitVec.ofNat 64 (0x40000000 + tileImage) } with cores := [] }
theorem witness_tileWaits : (tileLoading.tenant 1).dbgPend = false ∧ tileLoading.dbgTarget 1 = some (5, tileImage) ∧
    (tileLoading.lpbOf 5).place tileImage = some (0, .tile 3 0) ∧ ((tileLoading.group 5 0).tiles.get {} 3).f = true ∧
    (1 < (tileLoading.lpbOf 5).w ∧ (tileLoading.thread 5 0 1).status = .stopped) := by decide +kernel
/-- A unit that an inbound atomic touches is poisoned, or is not. -/
theorem witness_poisoned : Claims.poisoned { demo with hbmPoison := NatSet.set [] (0x80000000 / 64) true } 0x80000000 8 = true ∧
    Claims.poisoned demo 0x80000000 8 = false := by decide +kernel
/-- Tables whose last level holds a 64 KiB block at the first addresses. -/
def blockTables : Sparse Byte :=
  Sparse.putList 0 [(0x10000, 0x01), (0x10002, 0x02), (0x20000, 0x01), (0x20002, 0x03), (0x30000, 0x01), (0x30002, 0x04)] 0x40000
    ((List.range 16).map (fun i => leBytes 8 (0x1F + 0x1000 * i))).flatten
theorem witness_block : ∃ e f, ({ demo with hbm := blockTables } : State).walk 1 (2 * 4096) = .block e f := by
  have h : (match ({ demo with hbm := blockTables } : State).walk 1 (2 * 4096) with
    | .block e f => decide (e = 0x201F ∧ f = 0x1F)
    | _ => false) = true := by decide +kernel
  generalize ({ demo with hbm := blockTables } : State).walk 1 (2 * 4096) = x at h
  cases x <;> first | exact ⟨_, _, rfl⟩ | cases h

/-! ### Witnesses: accesses that arrive, waits, and what comes first -/

theorem no_ports (s : State) : s.deadPort [] = none := rfl
theorem witness_mayGo : mayGo flying flightStore ∧ mayGo flying flightLoad ∧ flying.flight 50 = some flightLoad ∧ flying.flight 51 = some flightStore := by
  have h : (∀ g ∈ flying.flights, g.before flightStore = false ∧ g.before flightLoad = false) ∧ flying.opBefore flightStore = [] ∧
      flying.opBefore flightLoad = [] ∧ modulesOf [flightStore.loc] = [] ∧ modulesOf [flightLoad.loc] = [] ∧ flying.flight 50 = some flightLoad ∧
      flying.flight 51 = some flightStore := by decide +kernel
  obtain ⟨h1, h2, h3, h4, h5, h6, h7⟩ := h
  exact ⟨⟨fun g hg => (h1 g hg).1, h2, by rw [h4]; rfl⟩, ⟨fun g hg => (h1 g hg).2, h3, by rw [h5]; rfl⟩, h6, h7⟩
/-- Two lanes' loads of one word in one line, both performed. -/
def here0 : Flight := { flightLoad with id := 60, lane := 0, word := 60, loc := .hbm 0x2000 false, performed := true, writes := [⟨6, 1, false⟩] }
def here1 : Flight := { here0 with id := 61, lane := 1, loc := .hbm 0x203C false, writes := [⟨6, 2, true⟩] }
def arriving : State := { demo with flights := [here0, here1] }
theorem witness_together : together here0 here1 ∧ here0 ∈ arriving.flights ∧ (arriving.flights.map (·.id)).Nodup ∧
    (∀ g ∈ arriving.flights, g.performed = true ∧ g.uniform = false ∧ g.cancel = [] ∧ (g.writes.map (·.reg)).Nodup) ∧
    (∀ g ∈ arriving.flights, ∀ h ∈ arriving.flights, (g.group, g.lane) = (h.group, h.lane) → g = h) ∧
    ¬together here0 { here1 with loc := .hbm 0x2040 false } :=
  ⟨⟨rfl, rfl, rfl, rfl, rfl, rfl, rfl⟩, by decide, by decide, by decide, by decide, fun h => absurd h.2.2.2.2.2.2 (by decide)⟩
/-- A DET team with a staged write of the bytes that its load reads, and of others. -/
def staging : State := { machine lpbDet {} { staging := [stagedWrite] } group bundle {} with flights := [{ flightLoad with loc := .hbm 0x2010 false, va := 0x2010 }] }
theorem witness_observed : (staging.lpbOf 5).det = true ∧ (staging.lpbOf 5).seam = false ∧
    covers staging 5 (.hbm 0x2013 false) stagedWrite 3 ∧ ∀ k, ¬covers staging 5 (.hbm 0x2014 false) stagedWrite k := by
  have h : staging.peek 0 1 0x2010 = some (.hbm 0x2010 false) := by decide +kernel
  refine ⟨rfl, rfl, ⟨.hbm 0x2010 false, h, rfl, rfl, by decide⟩, fun k hc => ?_⟩
  obtain ⟨x, h1, -, h3, h4⟩ := hc
  have : x = .hbm 0x2010 false := Option.some.inj (h1.symm.trans h)
  subst this
  simp only [cell, stagedWrite, List.length_cons, List.length_nil] at h3 h4
  omega
theorem witness_placed : ∀ a ∈ (checked demo bundle (.ld32 6 1 1 none) load1 .read 1).accs,
    (checked demo bundle (.ld32 6 1 1 none) load1 .read 1).s.placePending 5 a.place 4 = false := by decide +kernel

/-- A load of lane 1 under way: an acquire of global storage stalls; a release of fabric storage does not wait for it. -/
theorem witness_fenceWaits : Issues loading bundle (.fence false 1 4 0) ∧ (∃ f ∈ loading.flights, fenceAwaits bundle 1 0 f) ∧
    ∀ f ∈ loading.flights, ¬fenceAwaits bundle 0 1 f := by
  refine ⟨issues_of _ _ _ (by decide +kernel), ⟨flightLoad, List.mem_singleton.2 rfl, rfl, by decide, rfl, rfl, .inr ⟨.inr rfl, .inl rfl⟩⟩, ?_⟩
  intro f hf h
  simp only [loading, List.mem_singleton] at hf
  subst hf
  rcases h with ⟨-, -, -, -, h | ⟨h | h, -⟩⟩ <;> cases h

/-- A PUSH and a PUSHT to the other member ask, and PUSHT goes on with each answer. -/
def granted (v : Nat) : State := gangDemo { bundle with rein := some v }
theorem push_parts : issuesNow (gangDemo bundle) bundle (.push 10 (.short 4)) = true ∧ issuesNow (gangDemo bundle) bundle (.pusht 20 10 (.short 4)) = true ∧
    (gangDemo bundle).memberTeam 5 1 = some 7 ∧ (named (gangDemo bundle) bundle 10).off = 0 ∧ (named (gangDemo bundle) bundle 10).port = 0 ∧
    (named (gangDemo bundle) bundle 10).member = 1 ∧ (gangDemo bundle).reinState 5 1 0 = .opened ∧ ports (gangDemo bundle) 7 0 = 1 ∧
    0 < allowance (gangDemo bundle) 7 0 0 ∧ ((gangDemo bundle).group 5 0).counters.get 0 3 < 63 ∧
    (∀ v ∈ [0, 1, 2, 3], issuesNow (granted v) { bundle with rein := some v } (.pusht 20 10 (.short 4)) = true) ∧
    (match ((gangDemo bundle).tenant ((gangDemo bundle).team 7).tenant).fwperm.get 0 ((gangDemo bundle).clusterIndex 1 0 / 16) with
      | w => w.getLsbD (2 * ((gangDemo bundle).clusterIndex 1 0 % 16)) && w.getLsbD (2 * ((gangDemo bundle).clusterIndex 1 0 % 16) + 1)) = true := by
  decide +kernel
theorem witness_pushAsks : Issues (gangDemo bundle) bundle (.push 10 (.short 4)) ∧ Issues (gangDemo bundle) bundle (.pusht 20 10 (.short 4)) ∧
    fenced (gangDemo bundle) bundle 1 ∧ isFirst (gangDemo bundle) bundle false (named (gangDemo bundle) bundle 10) ∧
    (∀ v ∈ [0, 1, 2, 3], Issues (granted v) { bundle with rein := some v } (.pusht 20 10 (.short 4))) ∧ permitted (gangDemo bundle) bundle 1 true := by
  obtain ⟨h1, h2, h3, -, -, -, -, -, -, -, h4, h5⟩ := push_parts
  refine ⟨issues_of _ _ _ h1, issues_of _ _ _ h2, none_in, by unfold isFirst; decide +kernel, fun v hv => issues_of _ _ _ (h4 v hv), fun u hu => ?_⟩
  have : u = 7 := Option.some.inj (hu.symm.trans h3)
  subst this
  exact ⟨(Bool.and_eq_true_iff.1 h5).1, fun _ => (Bool.and_eq_true_iff.1 h5).2⟩

/-- XREDs of one window: indices 0, 1 and again 0; the second 0 is of the next round. -/
def xredAt (id i : Nat) : Op := { xredOp1 with id := id, kind := .xred [⟨0x2000, 0x9000, 4, .hbm 0x2000 false, .peer 3 0x9000, none⟩] 0 0 i }
def xreds : State := { copying with ops := [xredAt 72 0, xredAt 73 1, xredAt 74 0] }
theorem witness_comesFirst : xreds.op 72 = some (xredAt 72 0) ∧ comesFirst xreds (xredAt 72 0) ∧ ¬comesFirst xreds (xredAt 74 0) ∧
    comesFirst (copyOps xredOp1) xredOp1 ∧ ((copyOps xredOp1).lpbOf 5).det = false ∧ inRange (.peer 3 0x9000) 4 := by
  have key : ∀ x ∈ xreds.ops, x.id ≠ 72 → ∀ k w, x.kind.xredAt = some (k, w) →
      roundIn xreds (xredAt 72 0) 0 w < roundIn xreds x k w ∨ (roundIn xreds (xredAt 72 0) 0 w = roundIn xreds x k w ∧ 0 ≤ k) := by
    intro x hx hne k w hk
    simp only [xreds, List.mem_cons, List.mem_nil_iff, or_false] at hx
    rcases hx with rfl | rfl | rfl
    · exact absurd rfl hne
    · cases hk; exact .inr ⟨by simp [roundIn, xreds, xredAt, xredOp1, OpKind.xredAt, copying, copyDemo, machine, State.reset, Sparse.get], by decide⟩
    · cases hk; exact .inl (by simp [roundIn, xreds, xredAt, xredOp1, OpKind.xredAt, copying, copyDemo, machine, State.reset, Sparse.get])
  refine ⟨by decide +kernel, fun i w h x hx hne _ k hk => ?_, fun h => ?_, fun i w h x hx hne => ?_, rfl, by unfold inRange; decide⟩
  · cases h; exact key x hx hne k _ hk
  · have := h 0 _ rfl (xredAt 73 1) (by decide) (by decide) rfl 1 rfl
    simp [roundIn, xreds, xredAt, xredOp1, OpKind.xredAt, copying, copyDemo, machine, State.reset, Sparse.get] at this
  · simp only [copyOps, List.mem_singleton] at hx
    subst hx
    exact absurd rfl hne

/-- A tile whose load, or whose product, is under way. -/
theorem witness_arrivals : (({ f := true, byLoad := true } : Tile).f = true ∧ ({ f := true, byLoad := true } : Tile).byLoad = true) ∧
    ({ f := true } : Tile).byLoad = false := by decide

/-! ### Witnesses: floats -/

/-- 1.5 and −2 and the special patterns of binary32; an integer, a tapered code, and numbers that clamp. -/
theorem witness_floatFunctions : IsFormat fmtF32 ∧ floatVal fmtF32 0x3FC00000 = some (3 / 2) ∧ floatVal fmtF32 0xC0000000 = some (-2) ∧
    floatVal fmtF32 0 = some 0 ∧ floatVal fmtF32 0x40000000 = some 2 ∧ isNaN fmtF32 0x7F800001 ∧ ¬isNaN fmtF32 0x7F800000 ∧ signals fmtF32 0x7F800001 ∧
    ¬signals fmtF32 0x7FC00000 ∧ canonical fmtF32 = 0x7FC00000 ∧ infinity fmtF32 true = 0xFF800000 := by
  refine ⟨by unfold IsFormat; decide, by decide +kernel, by decide +kernel, by decide +kernel, by decide +kernel, ?_, ?_, ?_, ?_, by decide, by decide⟩ <;>
    (first | unfold signals isNaN | unfold isNaN) <;> decide
theorem witness_conversions : intVal .s8 0xFF = -1 ∧ taperedVal 7 0x40 = some 1 ∧ taperedVal 7 0x80 = none ∧ floatVal fmtF32 0x4F000000 = some 2147483648 ∧
    highest .s32 = 2147483647 := by decide +kernel

/-! ### Witnesses: poison -/

/-- Lane 1's v1 is poisoned: STAMP.MIX traps there, and adds its record in lane 0. -/
theorem witness_stampPoison : poisoned.ownCause 5 (useOf 16 (.stampMix 1)) (0, 1) = some .poisonRead ∧
    poisoned.ownCause 5 (useOf 16 (.stampMix 1)) (0, 0) = none ∧ (∀ k, ¬FailsFirst poisoned bundle (.stampMix 1) k) ∧
    poisoned.waits bundle (useOf 16 (.stampMix 1)) = false ∧ Unheld poisoned bundle ∧ noRendezvous poisoned 5 := by
  have h : poisoned.ownCause 5 (useOf 16 (.stampMix 1)) (0, 1) = some .poisonRead ∧ poisoned.ownCause 5 (useOf 16 (.stampMix 1)) (0, 0) = none ∧
      poisoned.waits bundle (useOf 16 (.stampMix 1)) = false ∧ (∀ m ∈ bundle.members, poisoned.remoteWait 5 m = false ∧ poisoned.wordWait 5 m = false) := by
    decide +kernel
  refine ⟨h.1, h.2.1, fun k => ?_, h.2.2.1, ?_, no_rendezvous _ (by decide +kernel)⟩
  · cases k <;> (unfold FailsFirst; decide +kernel)
  · unfold Unheld; exact h.2.2.2

/-- The page table's root entry is poisoned: the read of a ring is no ring fault but the tenant's fault. -/
def rootPoisoned (s : State) : State := { s with hbmPoison := NatSet.set [] (0x10000 / 64) true }
def isWalkPoison {α : Type} : Except (Bad × Nat) α → Bool
  | .error (.walkPoison, _) => true
  | _ => false
theorem walkPoison_of {α : Type} {x : Except (Bad × Nat) α} (h : isWalkPoison x = true) : ∃ a, x = .error (.walkPoison, a) := by
  unfold isWalkPoison at h
  split at h
  · exact ⟨_, rfl⟩
  · cases h
theorem witness_ringPoison : (∃ a, ((rootPoisoned waitingLpb).readVa ((rootPoisoned waitingLpb).engineCluster 1) 1 0x7000 128).1 = .error (.walkPoison, a)) ∧
    (rootPoisoned waitingLpb).sourceLines 1 = [⟨0, 3, .queue 3⟩] ∧ distributes (rootPoisoned waitingLpb) 1 ∧ (rootPoisoned waitingLpb).hbmPoison ≠ [] :=
  ⟨walkPoison_of (by decide +kernel), by decide +kernel, ⟨rfl, rfl, rfl, rfl, 0, by decide, rfl, rfl⟩, by decide⟩

/-! ### Witnesses: what is over -/

theorem witness_over : nothingLeft (exitedTeam false {}) 5 ∧ nothingLeft (exitedTeam true {}) 5 ∧ workDone (finished.launch 6) ∧
    workDone { live := true, lpb := { offered with det := true }, total := 2, ticket := 2, retired := 1 } ∧
    ¬workDone { live := true, lpb := { offered with det := true, seam := true }, total := 2, ticket := 2, retired := 1 } := by
  have h : ∀ det, ∀ g, g < ((exitedTeam det {}).lpbOf 5).groups → (∀ c, c < 4 → ((exitedTeam det {}).group 5 g).counters.get 0 c = 0) ∧
      ∀ a ∈ ((exitedTeam det {}).group 5 g).tiles, a.2.f = false := by intro det; cases det <;> decide +kernel
  refine ⟨⟨rfl, rfl, rfl, none_in, by decide, by decide, h false, by decide⟩, ⟨rfl, rfl, rfl, none_in, by decide, by decide, h true, by decide⟩,
    ⟨rfl, rfl, rfl, (fun x => absurd x (by decide)), fun _ => rfl⟩, ⟨rfl, rfl, rfl, fun _ => rfl, (fun x => by simp [offered, lpb] at x)⟩, fun x => ?_⟩
  exact absurd (x.2.2.2.2 (.inr rfl)) (by decide)

/-- An IDEM team of an island, and one that had retired. -/
def islandTeam (t : Team) : State :=
  machine { lpb with idem := true, retry := 2 } {} { t with island := some 0, islP := 2, bodies := [7] } group bundle
    { slots := [(0, { openSet with desc := { nbody := 9, recsz := 64 } })] }
theorem witness_relaunch : ((islandTeam {}).lpbOf 5).idem = true ∧ ((islandTeam {}).team 5).exposed = false ∧ ((islandTeam {}).team 5).gangSize = 1 ∧
    ((islandTeam {}).team 5).island = some 0 ∧ ((islandTeam {}).team 5).moved = none ∧ 8 ≤ (setOf (islandTeam {}) 1 0).desc.recsz ∧
    ((islandTeam {}).team 5).bodies.length ≤ ((islandTeam {}).team 5).islP ∧
    ((idem { retired := true, exited := true }).team 5).retired = true ∧ ((idem {}).team 5).moved = none := by decide +kernel
/-- A copy whose bytes stand staged: byte 3 lies there; its last byte still lies in a buffer. -/
def stagedCopy : State :=
  { machine lpbDet {} { staging := [{ stagedWrite with copy := true, op := 9 }] } group bundle {} with ops := [copyUnderWay] }
theorem witness_stagedByte : stagedCopy.op 9 = some copyUnderWay ∧ stagedBytes 9 (stagedCopy.team 5).staging = 4 ∧
    ¬19 < 4 ∧ 19 < 4 + ((copyUnderWay.kind.segs ++ copyUnderWay.rest).map (·.len)).sum := by decide +kernel
theorem witness_enableWaits : ((context { ckPend := true } none {}).tenant 1).ckEn = false ∧ ((context { ckPend := true } none {}).tenant 1).ckPend = true := by
  decide +kernel

/-! ### Witnesses: links, boot, the host -/

def transferIn (wr : Bool) (ps : List (Nat × Nat)) (d : List Byte) : State := windowed (.transfer 3 wr ps d) 0 []
def admitsDecidable (w : Window) (q : Nat) (r : Bool) (a n : Nat) : Decidable (admits w q r a n) := by unfold admits; infer_instance
def admitsNow (w : Window) (q : Nat) (r : Bool) (a n : Nat) : Bool := @decide _ (admitsDecidable w q r a n)
theorem admits_of {w : Window} {q : Nat} {r : Bool} {a n : Nat} (h : admitsNow w q r a n = true) : admits w q r a n := @of_decide_eq_true _ (admitsDecidable ..) h
theorem refuses_of {w : Window} {q : Nat} {r : Bool} {a n : Nat} (h : admitsNow w q r a n = false) : ¬admits w q r a n := @of_decide_eq_false _ (admitsDecidable ..) h
theorem ck_off (n : Nat) : ((transferIn true [] []).tenant n).ckEn = false := by
  simp only [transferIn, windowed, demo, machine, State.tenant, Sparse.get]
  split <;> rfl
/-- Bytes 0xFFFFFFFF and 0x100000000: the window's last is admitted, the next is the first that is not. -/
theorem witness_transferIn : placeBytes [(0xFFFFFFFE, 2), (0x100000000, 1)] = [0xFFFFFFFE, 0xFFFFFFFF] ++ 0x100000000 :: [] ∧
    (∀ x ∈ [0xFFFFFFFE, 0xFFFFFFFF], admitsByte (transferIn true [] []) 3 (·.wr) x) ∧ ¬admitsByte (transferIn true [] []) 3 (·.wr) 0x100000000 ∧
    (placeBytes [(0x80000000, 2), (0x80001000, 1)]).Nodup ∧ clearOfLogs (transferIn true [] []) [0x80000000, 0x80000001, 0x80001000] := by
  refine ⟨by decide, fun x hx => ⟨1, by decide, admits_of ?_⟩, fun ⟨w, hw, h⟩ => ?_, by decide, ?_⟩
  · have : ∀ x ∈ [0xFFFFFFFE, 0xFFFFFFFF], admitsNow (windowOf (transferIn true [] []) 1) 3 true x 1 = true := by decide +kernel
    exact this x hx
  · have : ∀ w, w < 16 → admitsNow (windowOf (transferIn true [] []) w) 3 (windowOf (transferIn true [] []) w).wr 0x100000000 1 = false := by decide +kernel
    exact refuses_of (this w hw) h
  · rintro a - ⟨p, -, h, -⟩
    exact absurd h (by
      have : ((transferIn true [] []).tenant ((transferIn true [] []).partition p).tenant).ckEn = false := ck_off _
      rw [this]; decide)
theorem witness_takes : takes (windowed (.xred 3 0 0 0 [(0x80000000, 4), (0xFFFFFFFC, 4)] []) 0 []) 3 [(0x80000000, 4), (0xFFFFFFFC, 4)] 1 ∧
    ∀ n, ¬takes (windowed (.xred 3 0 0 0 [(0x80000000, 4), (0x100000000, 4)] []) 0 []) 3 [(0x80000000, 4), (0x100000000, 4)] n := by
  refine ⟨⟨by decide, fun p hp => ?_, fun k hk h => ?_⟩, fun n ⟨hn, h, _⟩ => ?_⟩
  · have : ∀ p ∈ [(0x80000000, 4), (0xFFFFFFFC, 4)], admitsNow (windowOf (windowed (peerLoad 3 0) 0 []) 1) 3 true p.1 p.2 = true := by decide +kernel
    exact admits_of (this p hp)
  · have : k = 0 := by omega
    subst this
    exact absurd (h _ (List.mem_cons_self ..)).1 (by decide +kernel)
  · have : ∀ w, w < 16 → admitsNow (windowOf (windowed (peerLoad 3 0) 0 []) w) 3 (windowOf (windowed (peerLoad 3 0) 0 []) w).at_ 0x100000000 4 = false := by
      decide +kernel
    exact refuses_of (this n hn) (h (0x100000000, 4) (by decide))
/-- Port 2 is the only one to module 3, whose answer a team awaits. -/
def portTest : State := { demo with flights := [{ remoteRead with loc := .peer 3 0x2000 }], tenants := demo.tenants }
theorem witness_portDown (h : Config.portsTo 3 = [2]) : 3 ∈ portTest.peersOf 1 ∧ Config.portsTo 3 ≠ [] ∧
    (∀ q ∈ Config.portsTo 3, NatSet.has (NatSet.set portTest.portsDown 2 true) q = true) ∧ (portTest.tenant 1).ckEn = false := by
  refine ⟨by decide +kernel, by rw [h]; decide, by rw [h]; decide +kernel, rfl⟩
theorem witness_served : (∃ r ∈ [SpdmReply.version 1 2], (Instr.getVersion, 0x84, r) ∈ [(Instr.getVersion, 0x84, SpdmReply.version 1 2)]) ∧
    (0 < 2 ∧ 1 < 2 ∧ ¬2 < 2) := by decide

/-- Two offers of port 0 and one of port 1: after the first, port 1's is next, and then the other of port 0. -/
def trying (t : List Nat) (w : Option Nat) : Boot :=
  { stage := 1, asked := true, offers := [(0, [1]), (0, [2]), (1, [3])], tried := t, waiting := w }
theorem witness_tries : triesNext (trying [] none) 0 ∧ triesNext (trying [0] none) 2 ∧ triesNext (trying [0, 2] none) 1 ∧
    ∀ i, i < (trying [0, 2, 1] none).offers.length → i ∈ (trying [0, 2, 1] none).tried := by
  unfold triesNext trying
  refine ⟨⟨by decide, .inr ⟨?_, ?_⟩⟩, ⟨by decide, .inl ⟨0, rfl, by decide, ?_⟩⟩, ⟨by decide, .inr ⟨?_, ?_⟩⟩, by decide⟩
  · intro j hj; cases hj
  · intro k hk; omega
  · intro k hk _
    rcases (by omega : k = 0 ∨ k = 1) with rfl | rfl <;> decide
  · intro j hj; cases hj
  · intro k hk h
    have : k = 0 := by omega
    subst this
    exact absurd h.2 (by decide)
theorem witness_boots (bs : List Byte) : ({ demo with boot := trying [0] (some 0), inbox := [.image 0 bs] } : State).inbox = .image 0 bs :: [] ∧
    (trying [0] (some 0)).waiting = some 0 ∧ (∀ p url, p < 2 → Inbound.offer p url ∉ ({ demo with inbox := [.image 0 bs] } : State).inbox) ∧
    ({ demo with boot := trying [] none, inbox := [.offer 1 [3]] } : State).inbox = .offer 1 [3] :: [] ∧ (trying [] none).asked = true ∧
    ({ demo with boot := {} } : State).boot.failed = false ∧ ({ demo with boot := { stage := 6, image := [1] } } : State).boot.image ≠ [] ∧
    (demo.team 5).live = true := by
  refine ⟨rfl, rfl, fun p url _ h => ?_, rfl, rfl, rfl, by decide, rfl⟩
  rw [List.mem_singleton] at h
  cases h
theorem witness_hears : (fromHost .pfReset = true ∧ ({ demo with boot := { stage := 1 } } : State).boot.stage ≠ 6) ∧ fromHost .powerLoss = false := by decide

/-! ### Single words: expected results from the spec's worked cases and tables, or calculated by hand from its rules -/

/-- R294 to R299, with s4 = 5, s5 = −2: a wrap, a signed and an unsigned high half, a shift by 32 or more, the leading zeros of s0. -/
theorem test_uniform : uniformAfter (.sadd 7 4 (.short 5)) demo 7 = 3 ∧ uniformAfter (.smulh 7 5 (.short 4)) demo 7 = 4 ∧
    uniformAfter (.smulhS32 7 5 (.ext ⟨0, 1, 0, 0, 4⟩)) demo 7 = 0xFFFFFFFF ∧ uniformAfter (.sshl 7 4 (.short 5)) demo 7 = 0 ∧
    uniformAfter (.ssar 7 5 (.short 5)) demo 7 = 0xFFFFFFFF ∧ uniformAfter (.sclz 7 0) demo 7 = 32 := by decide +kernel
theorem test_uniform2 : uniformAfter (.smovh 4 0x1234) demo 4 = 0x12340005 ∧ uniformAfter (.saddi 4 0xFFFB) demo 4 = 0 ∧
    uniformAfter (.smin 7 4 (.short 5)) demo 7 = 0xFFFFFFFE ∧ uniformAfter (.sminz 7 4 (.short 5)) demo 7 = 5 ∧
    uniformAfter (.scmp 7 5 ⟨0, 0, 0, 2, 4⟩) demo 7 = 1 ∧ uniformAfter (.scmp 7 5 ⟨0, 0, 0, 6, 4⟩) demo 7 = 0 ∧
    uniformAfter (.sadd64 8 4 (.short 4)) demo 9 = 0xFFFFFFFC := by decide +kernel
/-- A write to s0 is discarded (R62). -/
theorem test_s0 : isNext (.sadd 0 4 (.short 4)) demo = true ∧ uniformAfter (.sadd 0 4 (.short 4)) demo 0 = 0 := by decide +kernel

/-- R314 to R318 in lane 1: v1 = 8, v2 = 3, v3 = −5. The bit field is R317's example, with v1 replaced by −1 (code 0xDF: the literal). -/
theorem test_integer : laneAfter (.vadd false 6 1 3 none) demo 1 6 = 3 ∧ laneAfter (.vsub false 6 2 1 none) demo 1 6 = 0xFFFFFFFB ∧
    laneAfter (.vmulh false 6 3 2 (some ⟨0, .s32, 0, false, 0⟩)) demo 1 6 = 0xFFFFFFFF ∧
    laneAfter (.vmulh false 6 3 2 none) demo 1 6 = 2 ∧ laneAfter (.vdiv false 6 3 2 (some ⟨0, .s32, 0, false, 0⟩)) demo 1 6 = 0xFFFFFFFF ∧
    laneAfter (.vrem false 6 3 2 (some ⟨0, .s32, 0, false, 0⟩)) demo 1 6 = 0xFFFFFFFE ∧
    laneAfter (.vdiv false 6 1 7 none) demo 1 6 = 0xFFFFFFFF ∧ laneAfter (.vrem false 6 1 7 none) demo 1 6 = 8 := by decide +kernel
theorem test_integer2 : laneAfter (.vabs false 6 3 (some ⟨0, .s32, 0, false, 0⟩)) demo 1 6 = 5 ∧
    laneAfter (.vclz false 6 1 none) demo 1 6 = 28 ∧ laneAfter (.vbrev false 6 2 none) demo 1 6 = 0xC0000000 ∧
    laneAfter (.vcmp false 6 3 2 ⟨0, .s32, 2, false, 0⟩) demo 1 6 = 1 ∧ laneAfter (.vcmp false 6 3 2 ⟨0, .z32, 2, false, 0⟩) demo 1 6 = 0 ∧
    laneAfter (.vmad false 6 1 3 ⟨2, .s32, 0, false, 0⟩) demo 1 6 = 0xFFFFFFDB ∧
    laneAfter (.vaddsat false 6 3 2 ⟨0, .z32, 0, true, 0⟩) demo 1 6 = 0xFFFFFFFE := by decide +kernel
theorem test_bitFields : vbfiVal 0xFFFFFFFF 0x12 0x0804 = 0xFFFFF12F := by decide +kernel
/-- The latch of the word's position takes the result, with NW too, which leaves the register (R268, R175). -/
theorem test_latch : ((after (.vadd true 6 1 3 none) demo).thread 5 0 1).y.val.get 0 0 = 3 ∧ laneAfter (.vadd true 6 1 3 none) demo 1 6 = 0 := by
  decide +kernel

/-- R319 to R323: v4 = 1.5, v5 = −2.0, s6 = 2.0. -/
theorem test_float : laneAfter (.fadd false 6 4 5 none) demo 1 6 = 0xBF000000 ∧ laneAfter (.fmul false 6 4 5 none) demo 1 6 = 0xC0400000 ∧
    laneAfter (.ffma false 6 4 5 ⟨4, .f32, 0, false, 0⟩) demo 1 6 = 0xBFC00000 ∧ laneAfter (.fmin false 6 4 5 none) demo 1 6 = 0xC0000000 ∧
    laneAfter (.frnd false 6 4 none) demo 1 6 = 0x40000000 ∧ laneAfter (.frcp false 6 5 none) demo 1 6 = 0xBF000000 ∧
    laneAfter (.fsqrt false 6 5 none) demo 1 6 = 0x7FC00000 ∧ laneAfter (.fclass false 6 5 none) demo 1 6 = 8 := by decide +kernel
theorem test_float2 : laneAfter (.fcmp false 6 5 4 ⟨0, .f32, 2, false, 0⟩) demo 1 6 = 1 ∧ laneAfter (.fscale false 6 4 2 none) demo 1 6 = 0x41400000 ∧
    laneAfter (.cvt false 6 5 .f32 ⟨0, .s32, 0, false, 0⟩) demo 1 6 = 0xFFFFFFFE ∧ laneAfter (.fneg false 6 4 none) demo 1 6 = 0xBFC00000 ∧
    laneAfter (.flog2 false 6 0x86 none) demo 1 6 = 0x3F800000 := by decide +kernel
/-- R251, R252: T8 0x9B is −0.171875; 0.3, −4,096 and 5,000 become 0x23, 0xFF and 0x7F, and 2,560, as far from 2^10 as from 2^12, 0x7E (log 22). -/
theorem test_t8 : widenF32 .t8 0x9B = 0xBE300000 ∧ narrow .t8 0x45200000 = 0x7E ∧ narrow .t8 0x3E99999A = 0x23 ∧
    narrow .t8 0xC5800000 = 0xFF ∧ narrow .t8 0x459C4000 = 0x7F := by decide +kernel
/-- R256: the block that cancels gives 1.0, and 2^-4 with the scales 130 and 120. R131: 1 + 2^-24 rounds to 1.0. -/
theorem test_block : blockT 0 [(mmaElem 0 0x7F, mmaElem 0 0x7F), (mmaElem 0 0x40, mmaElem 0 0x40), (mmaElem 0 0xFF, mmaElem 0 0x7F)] (some 0) = 0x3F800000 ∧
    blockT 0 [(mmaElem 0 0x7F, mmaElem 0 0x7F), (mmaElem 0 0x40, mmaElem 0 0x40), (mmaElem 0 0xFF, mmaElem 0 0x7F)] (some (-4)) = 0x3D800000 ∧
    awlFAdd 4 0x3F800000 0x33800000 = 0x3F800000 := by decide +kernel

/-- A full group of 16 lanes whose v1, v2 and v3 hold the lists. -/
def whole (a b c : List Word) : Group :=
  { live := true, s := [(9, 0x0608)],
    threads := (List.range 16).map (fun l => (l, { status := .ready, pc := 0x1000, v := [(1, a.getD l 0), (2, b.getD l 0), (3, c.getD l 0)] })) }
def wholeBundle : Bundle := { bundle with members := (List.range 16).map (fun l => (0, l)) }
def wholeDemo (a b c : List Word) : State := machine lpb {} {} (whole a b c) wholeBundle {}
def lanesAfter (i : Instr) (s : State) (n : Nat) : List Word := let t := after i s; (List.range 16).map (fun l => (t.thread 5 0 l).vGet n)
/-- R330's case: 1.0, 2^-24, 2^-24 and zeros sum to 1.0 in every lane. -/
theorem test_vred : lanesAfter (.vred false 6 3 6 (some ⟨0, .f32, 4, false, 0⟩)) (wholeDemo [] [] [0x3F800000, 0x33800000, 0x33800000]) 6 =
    List.replicate 16 0x3F800000 := by decide +kernel
/-- R328's case: lanes 0 and 1, 2 and 3 … exchange their values. -/
theorem test_vshfx : lanesAfter (.vshfx false 5 1 0xD1 none) (wholeDemo [10, 11, 12, 13, 14, 15, 16, 17, 18, 19, 20, 21, 22, 23, 24, 25] [] []) 5 =
    [11, 10, 13, 12, 15, 14, 17, 16, 19, 18, 21, 20, 23, 22, 25, 24] := by decide +kernel
/-- R333's case. -/
theorem test_rebal : (let s := wholeDemo [] [3, 0, 5, 1, 0, 0, 0, 0, 0, 2] []
      (lanesAfter (.rebal false 6 2 0xE0 none) s 6, lanesAfter (.rebal false 6 2 0xE0 none) s 7)) =
    ([0, 0, 0, 2, 2, 2, 2, 2, 3, 9, 9, 0xFFFFFFFF, 0xFFFFFFFF, 0xFFFFFFFF, 0xFFFFFFFF, 0xFFFFFFFF],
     [0, 1, 2, 0, 1, 2, 3, 4, 0, 0, 1, 0xFFFFFFFF, 0xFFFFFFFF, 0xFFFFFFFF, 0xFFFFFFFF, 0xFFFFFFFF]) := by decide +kernel
/-- R334's case. -/
theorem test_vtopk : (let s := wholeDemo [0x3F000000, 0, 0x40000000, 0x80000000, 0x40000000, 0] [100, 101, 102, 103, 104, 105] []
      (lanesAfter (.vtopk false 10 1 2 ⟨0x89, .f32, 0, false, 0⟩) s 10, lanesAfter (.vtopk false 10 1 2 ⟨0x89, .f32, 0, false, 0⟩) s 11)) =
    ([102, 104, 100, 101, 103, 105, 0xFFFFFFFF, 0xFFFFFFFF, 0, 0, 0, 0, 0, 0, 0, 0],
     [0x40000000, 0x40000000, 0x3F000000, 0, 0x80000000, 0, 0x7FC00000, 0x7FC00000, 0, 0, 0, 0, 0, 0, 0, 0]) := by decide +kernel
/-- R159: lane 1 draws Hash(5, 1, 0), computed from R332's text; DRAWS becomes 1. -/
theorem test_rand : laneAfter (.rand false 6 0x84 (some ⟨0, .z64, 0, false, 0⟩)) demo 1 6 = 0x7CA43553 ∧
    laneAfter (.rand false 6 0x84 (some ⟨0, .z64, 0, false, 0⟩)) demo 1 7 = 0xD184810E ∧
    ((after (.rand false 6 0x84 none) demo).thread 5 0 1).draws = 1 := by decide +kernel
/-- R386's record of 7 is 01 00 00 00 00 00 00 00 03 07 00 00 00; its CRC is computed from R161's text. Lane 0 holds v1 = 7. -/
theorem test_stampMix : recordBytes 1 0 (leBytes 4 7) = [1, 0, 0, 0, 0, 0, 0, 0, 3, 7, 0, 0, 0] ∧
    crc64 (recordBytes 1 0 (leBytes 4 7)) = 0xEEC6B1B12E46D75B ∧
    ((after (.stampMix 1) (machine { lpb with det := true } {} {} group bundle {})).thread 5 0 0).digest = 0xEEC6B1B12E46D75B := by decide +kernel
/-- R368's case: the mask of sub-block (0, 0). -/
def searchCase (i j : Nat) : Nat :=
  if i < 4 ∧ j < 4 then (([[9, 8, 1, 1], [9, 8, 1, 1], [9, 8, 2, 1], [1, 1, 9, 8]] : List (List Nat)).getD i []).getD j 0
  else if i % 4 < 2 then 4 - j % 4 else j % 4
theorem test_msearch : ((searchMask searchCase).take 4).map (· % 16) = [9, 3, 6, 12] ∧ unsatRows (searchMask searchCase) = 0 ∧
    unsatCols (searchMask searchCase) = 0 := by decide +kernel

/-- R3's, R24's and R123's cases: core 1,000; the fabric address 0x10_0560_1234 of tenant 9; the owner of PA 500,000,000,256. -/
def tenant9 : State :=
  { State.reset with
    partitions := [(12, { tenant := 9, valid := true }), (13, { tenant := 9, valid := true }), (40, { tenant := 9, valid := true })]
    tenants := [(9, { fwbase := 0x1000000001, fwperm := [(0, 0xFFFFFFFF)] })] }
theorem test_places : clusterOf 1000 = 166 ∧ partOf 166 = 33 ∧ tenant9.nclus 9 = 15 ∧ tenant9.ownerOf 9 (.hbm 500000000256 false) = 204 ∧
    (match (tenant9.access 200 9 0x1005601234 4 .read false true).1 with
      | .ok l => decide (l = .fabric 200 0x601234)
      | .error _ => false) = true ∧
    (match (tenant9.access 200 9 0x1007800000 4 .read false true).1 with
      | .ok _ => false
      | .error k => decide (k = .trap .access)) = true := by decide +kernel
/-- The image of spec 04's case: W = 32, NV = 16, NU = 32, NT = 2, D = 8. -/
def imageCase : Lpb := { wcode := 1, t := 32, nv := 16, nu := 32, nt := 2, d8 := 1 }
theorem test_image : imageCase.laneOff = 0x200 ∧ imageCase.latchOff = 0xA00 ∧ imageCase.mapOff = 0xC00 ∧ imageCase.vecOff = 0xE00 ∧
    imageCase.stackOff = 0x1600 ∧ imageCase.tileOff = 0x1E00 ∧ imageCase.gimgsz = 0x3E00 ∧
    imageCase.place (0x300 + 0x109C) = some (0, .vector 7 5) := by decide +kernel
/-- R440's case: source 1 in turn applies 2^-24 and then the buffered 2^-23 of source 2: 1 + 2^-23. -/
def roundCase : State :=
  { demo with
    hbm := Sparse.putList 0 tables 0x80000000 (leBytes 4 0x3F800000)
    windows := [(1, { en := true, at_ := true, src := 0xFFF, base := 2, size := 2, xrn := 3, next := 1,
                      buffer := [⟨2, 7, 4, [(0x80000000, 4)], leBytes 4 0x34000000⟩] })]
    inbox := [.xred 4 1 7 4 [(0x80000000, 4)] (leBytes 4 0x33800000)] }
theorem test_xred : leNat ((after .xredContribution roundCase).memBytes (.hbm 0x80000000 false) 4) = 0x3F800001 := by decide +kernel

/-- TRAP 3 enters no handler while there is none: the thread stops with the cause and the code of R397, R310. A call pushes the fall-through. -/
theorem test_trap : ((after (.trap 3) closes).thread 5 0 1).status = .stopped ∧ ((after (.trap 3) closes).thread 5 0 1).trap.cause = 15 ∧
    ((after (.trap 3) closes).thread 5 0 1).trap.code = 3 := by decide +kernel
theorem test_call : ((after (.call 0) closes).thread 5 0 0).frames.get 0 0 = 0x1008 ∧ ((after (.call 0) closes).thread 5 0 0).depth = 1 ∧
    ((after (.call 0) closes).thread 5 0 0).pc = 0x1004 := by decide +kernel
/-- A word that decodes to nothing traps its threads with ILLEGAL_INSTRUCTION at its position. -/
theorem test_illegal : ((after (.illegalInstruction 0xFE000000) demo).thread 5 0 0).trap.cause = 1 ∧
    ((after (.illegalInstruction 0xFE000000) demo).thread 5 0 1).pc = 0x1000 := by decide +kernel
/-- A load is sent at issue and performed later: the store below changes no byte until its performance (R13, R65). -/
theorem test_store : (after (.st32 2 1 1 none) demo).flights.length = 2 ∧
    (after (.st32 2 1 1 none) demo).memByte (.hbm 0x2007 false) = demo.memByte (.hbm 0x2007 false) := by decide +kernel

end Sys2Proof.Tests
end

/-! # The ordering tests (O60)

The axioms are computable, so an outcome that a table admits is shown by evaluating them on its finite execution. An outcome that a table forbids
is refused for the reason that its table gives: a cycle of happens-before and eco whose edges are written out (R96), a read without a source,
a cycle of dependences (R98), the order of the SC fences (R100), or cinch-order (R101). -/

namespace Sys2Proof.Machine.Ordering

/-! ### Relations as rows of bits -/

theorem testBit_foldl_or_pow (bs : List Nat) (m b : Nat) :
    (bs.foldl (fun m b => m ||| 2 ^ b) m).testBit b = (m.testBit b || bs.contains b) := by
  induction bs generalizing m with
  | nil => simp
  | cons c cs ih => simp [ih, Nat.testBit_two_pow, Bool.or_assoc, eq_comm]

theorem Rel.holds_of {n a b : Nat} (p : Nat → Nat → Bool) (ha : a < n) (hb : b < n) : (Rel.of n p).holds a b = p a b := by
  simp [Rel.holds, Rel.of, bitsOfList, testBit_foldl_or_pow, ha, hb]

/-- One round of `Rel.plus`: chains through k. -/
def Rel.through (r : Rel) (k : Nat) : Rel := r.map (fun x => if x.testBit k then x ||| r.getD k 0 else x)

theorem Rel.holds_through (r : Rel) (k a b : Nat) : (r.through k).holds a b = (r.holds a b || (r.holds a k && r.holds k b)) := by
  have row : (r.through k).getD a 0 = if (r.getD a 0).testBit k then r.getD a 0 ||| r.getD k 0 else r.getD a 0 := by
    simpa [Rel.through] using List.getD_map (l := r) (n := a) (d := 0) (fun x => if x.testBit k then x ||| r.getD k 0 else x)
  unfold Rel.holds
  rw [row]
  split <;> simp_all

theorem Rel.plus_succ (n : Nat) (r : Rel) : Rel.plus (n + 1) r = (Rel.plus n r).through n := by
  simp [Rel.plus, Rel.through, List.range_succ]

theorem Rel.holds_plus_of_holds {r : Rel} {a b : Nat} (n : Nat) (h : r.holds a b = true) : (Rel.plus n r).holds a b = true := by
  induction n with
  | zero => exact h
  | succ n ih => simp [Rel.plus_succ, Rel.holds_through, ih]

/-- Chains through the numbers below the bound compose: the invariant of Warshall's algorithm. -/
theorem Rel.holds_plus_trans {r : Rel} {n a b c : Nat} (hb : b < n) (h₁ : (Rel.plus n r).holds a b = true)
    (h₂ : (Rel.plus n r).holds b c = true) : (Rel.plus n r).holds a c = true := by
  induction n generalizing a b c with
  | zero => omega
  | succ n ih =>
    simp only [Rel.plus_succ, Rel.holds_through, Bool.or_eq_true, Bool.and_eq_true] at *
    rcases Nat.lt_succ_iff_lt_or_eq.mp hb with hlt | rfl
    · rcases h₁ with h₁ | ⟨han, hnb⟩ <;> rcases h₂ with h₂ | ⟨hbn, hnc⟩
      · exact .inl (ih hlt h₁ h₂)
      · exact .inr ⟨ih hlt h₁ hbn, hnc⟩
      · exact .inr ⟨han, ih hlt hnb h₂⟩
      · exact .inr ⟨han, hnc⟩
    · exact .inr ⟨h₁.elim id (·.1), h₂.elim id (·.2)⟩

theorem testBit_foldl_or_rows (s : Rel) (x : Nat) (bs : List Nat) (m c : Nat) :
    (bs.foldl (fun m b => if x.testBit b then m ||| s.getD b 0 else m) m).testBit c =
      (m.testBit c || bs.any (fun b => x.testBit b && s.holds b c)) := by
  induction bs generalizing m with
  | nil => simp
  | cons b bs ih =>
    rw [List.foldl_cons, ih]
    by_cases hb : x.testBit b = true <;> simp [hb, Rel.holds, Bool.or_assoc]

theorem Rel.holds_comp {n a b c : Nat} {r s : Rel} (hb : b < n) (hr : r.holds a b = true) (hs : s.holds b c = true) :
    (Rel.comp n r s).holds a c = true := by
  have ha : a < r.length := by
    by_contra hge
    rw [Rel.holds, List.getD_eq_default _ _ (Nat.le_of_not_lt hge)] at hr
    simp at hr
  have hrow : r.getD a 0 = r[a] := by simp [ha]
  have hbit : r[a].testBit b = true := hrow ▸ hr
  unfold Rel.holds Rel.comp
  rw [List.getD_eq_getElem _ _ (by simpa using ha), List.getElem_map, testBit_foldl_or_rows]
  simpa using ⟨b, hb, hbit, hs⟩

theorem Rel.irreflexive_eq_false {n a : Nat} {r : Rel} (ha : a < n) (h : r.holds a a = true) : Rel.irreflexive n r = false :=
  List.all_eq_false.mpr ⟨a, List.mem_range.mpr ha, by simp [h]⟩

/-! ### Paths with named edges -/

/-- The steps, each an edge and the event it leads to, form a path of events below n from a to z. -/
def leads {E : Type} (n : Nat) (edge : E → Nat → Nat → Bool) (z : Nat) : Nat → List (E × Nat) → Bool
  | _, [] => false
  | a, [(e, b)] => edge e a b && decide (a < n ∧ b < n) && b == z
  | a, (e, b) :: next :: rest => edge e a b && decide (a < n ∧ b < n) && leads n edge z b (next :: rest)

theorem holds_plus_of_leads {E : Type} {n z : Nat} {edge : E → Nat → Nat → Bool} {p : Nat → Nat → Bool}
    (hp : ∀ e a b, edge e a b = true → p a b = true) {a : Nat} {steps : List (E × Nat)} (h : leads n edge z a steps = true) :
    a < n ∧ (Rel.plus n (Rel.of n p)).holds a z = true := by
  have base {e a b} (he : edge e a b = true) (ha : a < n) (hb : b < n) : (Rel.plus n (Rel.of n p)).holds a b = true :=
    Rel.holds_plus_of_holds n ((Rel.holds_of p ha hb).trans (hp e a b he))
  induction a, steps using leads.induct with
  | case1 => simp [leads] at h
  | case2 a e b =>
    simp only [leads, Bool.and_eq_true, decide_eq_true_eq, beq_iff_eq] at h
    obtain ⟨⟨he, ha, hb⟩, rfl⟩ := h
    exact ⟨ha, base he ha hb⟩
  | case3 a e b next rest ih =>
    simp only [leads, Bool.and_eq_true, decide_eq_true_eq] at h
    obtain ⟨⟨he, ha, hb⟩, hrest⟩ := h
    exact ⟨ha, Rel.holds_plus_trans hb (base he ha hb) (ih hrest).2⟩

/-- The relations that hb is made of (R95). -/
inductive HbEdge where
  | poLoc | fo | sw | pro | eo | rein | seam | launch | sc

def View.hbEdge (v : View) : HbEdge → Nat → Nat → Bool
  | .poLoc, a, b => v.poLoc a b
  | .fo, a, b => v.fo a b
  | .sw, a, b => (v.ev a).isFence && (v.ev b).isFence && v.sw a b
  | .pro, a, b => (v.ev a).isFence && (v.ev b).isFence && v.pro a b
  | .eo, a, b => v.eo a b
  | .rein, a, b => v.rein a b
  | .seam, a, b => v.seam a b
  | .launch, a, b => v.launch a b
  | .sc, a, b => v.sc a b && v.x.incl (v.ev a) (v.ev b)

theorem View.hb_holds_of_leads {v : View} {a z : Nat} {steps : List (HbEdge × Nat)} (h : leads v.n v.hbEdge z a steps = true) :
    a < v.n ∧ v.hb.holds a z = true := by
  refine holds_plus_of_leads (fun e a b he => ?_) h
  cases e <;> simp_all [View.hbEdge]

/-- The relations that eco is made of (R96), without what R103 takes from racy reads. -/
inductive EcoEdge where
  | rf | co | fr

def View.ecoEdge (v : View) (k : Nat × Nat) : EcoEdge → Nat → Nat → Bool
  | .rf, a, b => v.rf k a b && !v.racy v.hb b
  | .co, a, b => v.co k a b
  | .fr, a, b => v.fr k a b && !v.racy v.hb a

/-- A path of hb from a to b that a path of eco at location k leads back from: what R96 forbids. -/
def View.cycle (v : View) (k : Nat × Nat) (a b : Nat) (hbSteps : List (HbEdge × Nat)) (ecoSteps : List (EcoEdge × Nat)) : Bool :=
  v.locs.any (fun l => l.1 == k) && leads v.n v.hbEdge b a hbSteps && leads v.n (v.ecoEdge k) a b ecoSteps

theorem View.coherent_eq_false_of_cycle {v : View} {k : Nat × Nat} {a b : Nat} {hbSteps : List (HbEdge × Nat)}
    {ecoSteps : List (EcoEdge × Nat)} (h : v.cycle k a b hbSteps ecoSteps = true) : v.coherent v.hb = false := by
  simp only [View.cycle, Bool.and_eq_true, List.any_eq_true, beq_iff_eq] at h
  obtain ⟨⟨⟨l, hl, rfl⟩, hhb⟩, heco⟩ := h
  obtain ⟨ha, hab⟩ := View.hb_holds_of_leads hhb
  have eco := holds_plus_of_leads (p := fun a b => v.co l.1 a b || (v.rf l.1 a b && !v.racy v.hb b) || (v.fr l.1 a b && !v.racy v.hb a))
    (fun e a b he => by cases e <;> simp_all [View.ecoEdge]) heco
  exact List.all_eq_false.mpr ⟨l, hl, by
    rw [Bool.not_eq_true]
    exact Rel.irreflexive_eq_false ha (Rel.holds_comp eco.1 hab eco.2)⟩

/-! ### What refuses an execution -/

theorem Execution.allowed_iff (x : Execution) : x.allowed = true ↔
    x.view.wellFormed = true ∧ x.view.noThinAir = true ∧ x.view.hbAcyclic x.view.hb = true ∧ x.view.scOrder x.view.hb = true ∧
      x.view.coherent x.view.hb = true ∧ x.view.atomic x.view.hb = true ∧ x.view.scFences = true ∧ x.view.detOrder = true ∧
      x.view.wholeReads x.view.hb = true := by
  simp [Execution.allowed, View.allowedBy, and_assoc]

/-- R89. -/
theorem Execution.not_allowed_of_readsOk {x : Execution} (h : x.view.readsOk = false) : x.allowed = false := by
  simp [← Bool.not_eq_true, Execution.allowed_iff, View.wellFormed, h]

/-- R96. -/
theorem Execution.not_allowed_of_cycle {x : Execution} (k : Nat × Nat) (a b : Nat) (hbSteps : List (HbEdge × Nat))
    (ecoSteps : List (EcoEdge × Nat)) (h : x.view.cycle k a b hbSteps ecoSteps = true) : x.allowed = false := by
  simp [← Bool.not_eq_true, Execution.allowed_iff, View.coherent_eq_false_of_cycle h]

/-- R98. -/
theorem Execution.not_allowed_of_thinAir {x : Execution} (h : x.view.noThinAir = false) : x.allowed = false := by
  simp [← Bool.not_eq_true, Execution.allowed_iff, h]

/-- R100. -/
theorem Execution.not_allowed_of_scFences {x : Execution} (h : x.view.scFences = false) : x.allowed = false := by
  simp [← Bool.not_eq_true, Execution.allowed_iff, h]

/-- R101. -/
theorem Execution.not_allowed_of_detOrder {x : Execution} (h : x.view.detOrder = false) : x.allowed = false := by
  simp [← Bool.not_eq_true, Execution.allowed_iff, h]

/-! ### Message passing: R110, R115, R116

Events: 0 P0's write of x, 1 its fence, 2 its write of y; 3 P1's read of y, 4 its fence, 5 its read of x. -/

/-- The first byte of x. -/
def xKey : Nat × Nat := (wordAt 2).key 0

theorem messagePassing_verdicts :
    Claims.passes {} 1 1 = true ∧ Claims.passes {} 1 0 = false ∧ Claims.passes {} 0 0 = true ∧ Claims.passes {} 0 1 = true ∧
      Claims.passes { fences := false } 1 0 = true := by
  refine ⟨?both, ?stale, ?neither, ?early, ?unfenced⟩
  case stale => exact Execution.not_allowed_of_cycle xKey 0 5 [(.fo, 1), (.sw, 4), (.fo, 5)] [(.fr, 0)] (by decide +kernel)
  all_goals decide +kernel

/-- Too narrow a scope passes nothing, except on one cluster, where sw holds, and in a DET launch (R87). -/
theorem narrowPassing_verdicts :
    let n := Claims.narrow
    Claims.passes n 1 0 = true ∧ Claims.passes n 1 1 = true ∧ Claims.passes n 0 0 = true ∧ Claims.passes n 0 1 = true ∧
      Claims.passes { n with c1 := 0 } 1 0 = false ∧ Claims.passes { n with det := true } 1 0 = false := by
  refine ⟨?stale, ?both, ?neither, ?early, ?oneCluster, ?det⟩
  case oneCluster => exact Execution.not_allowed_of_cycle xKey 0 5 [(.fo, 1), (.sw, 4), (.fo, 5)] [(.fr, 0)] (by decide +kernel)
  case det => exact Execution.not_allowed_of_cycle xKey 0 5 [(.fo, 1), (.sw, 4), (.fo, 5)] [(.fr, 0)] (by decide +kernel)
  all_goals decide +kernel

theorem promotedPassing_verdicts :
    let p := Claims.promoted
    Claims.passes p 1 1 = true ∧ Claims.passes p 1 0 = false ∧ Claims.passes p 0 0 = true ∧ Claims.passes p 0 1 = true ∧
      Claims.passes { p with remote := false } 1 0 = true ∧ Claims.passes { p with c0 := 0 } 1 0 = true := by
  refine ⟨?both, ?stale, ?neither, ?early, ?notRemote, ?notOwner⟩
  case stale => exact Execution.not_allowed_of_cycle xKey 0 5 [(.fo, 1), (.pro, 4), (.fo, 5)] [(.fr, 0)] (by decide +kernel)
  all_goals decide +kernel

/-! ### Store buffering, load buffering, independent reads, coherence: R111 to R114 -/

/-- Either order of the SC fences refuses (0, 0) by R100. -/
theorem storeBuffering_verdicts :
    let sb := Claims.buffers
    sb 3 1 1 = true ∧ sb 3 0 1 = true ∧ sb 3 1 0 = true ∧ sb 3 0 0 = false ∧ sb 2 0 0 = true := by
  refine ⟨?both, ?p0First, ?p1First, ?neither, ?notSc⟩
  case neither =>
    have refused : ∀ first, (storeBuffering 3 first 0 0).allowed = false :=
      fun first => Execution.not_allowed_of_scFences (by cases first <;> decide +kernel)
    simp [Claims.buffers, refused]
  all_goals decide +kernel

theorem loadBufferingAllowed_eq_false {deps : Bool} {v3 v4 : Nat} (h : ∀ fx fy, (loadBuffering deps v3 v4 fx fy).allowed = false) :
    loadBufferingAllowed deps v3 v4 = false := by
  simp [loadBufferingAllowed, some1, h]

/-- Each party stores what it loaded: a load of 1 then needs the other's store of 1, and two such loads need each other. -/
theorem dependentLoadBuffering_forbidden :
    loadBufferingAllowed true 0 1 = false ∧ loadBufferingAllowed true 1 0 = false ∧ loadBufferingAllowed true 1 1 = false := by
  refine ⟨loadBufferingAllowed_eq_false fun fx fy => Execution.not_allowed_of_readsOk ?yUnwritten,
    loadBufferingAllowed_eq_false fun fx fy => Execution.not_allowed_of_readsOk ?xUnwritten,
    loadBufferingAllowed_eq_false fun fx fy => ?fromEachOther⟩
  case yUnwritten => revert fx fy; decide +kernel
  case xUnwritten => revert fx fy; decide +kernel
  case fromEachOther =>
    by_cases both : fx = true ∧ fy = true
    · obtain ⟨rfl, rfl⟩ := both
      exact Execution.not_allowed_of_thinAir (by decide +kernel)
    · refine Execution.not_allowed_of_readsOk ?_
      revert fx fy
      decide +kernel

theorem loadBuffering_verdicts :
    let lb := loadBufferingAllowed
    lb false 0 0 = true ∧ lb false 0 1 = true ∧ lb false 1 0 = true ∧ lb false 1 1 = true ∧
      lb true 0 0 = true ∧ lb true 0 1 = false ∧ lb true 1 0 = false ∧ lb true 1 1 = false := by
  refine ⟨?_, ?_, ?_, ?_, ?_, dependentLoadBuffering_forbidden⟩
  all_goals decide +kernel

/-- P2's fence may come first unless P2 has seen x and P3 then misses it. -/
theorem independentReads_allowed : ∀ v ∈ [0, 1], ∀ w ∈ [0, 1], ∀ x ∈ [0, 1], ∀ y ∈ [0, 1], (v, w, x, y) ≠ (1, 0, 1, 0) →
    (independentReads 3 (decide ((v, y) ≠ (1, 0))) v w x y).allowed = true := by
  decide +kernel

theorem independentReads_verdicts :
    let iriw := Claims.readsApart
    iriw 3 1 0 1 0 = false ∧ iriw 0 1 0 1 0 = true ∧
      ∀ v ∈ [0, 1], ∀ w ∈ [0, 1], ∀ x ∈ [0, 1], ∀ y ∈ [0, 1], (v, w, x, y) ≠ (1, 0, 1, 0) → iriw 3 v w x y = true := by
  refine ⟨?opposite, ?notSc, fun v hv w hw x hx y hy hne => ?other⟩
  case opposite =>
    have refused : ∀ first, (independentReads 3 first 1 0 1 0).allowed = false :=
      fun first => Execution.not_allowed_of_scFences (by cases first <;> decide +kernel)
    simp [Claims.readsApart, refused]
  case notSc => decide +kernel
  case other =>
    have admitted := independentReads_allowed v hv w hw x hx y hy hne
    rw [Claims.readsApart, Bool.or_eq_true]
    by_cases missed : (v, y) = (1, 0)
    · simp only [missed, ne_eq, not_true, decide_false] at admitted
      exact .inr admitted
    · simp only [missed, ne_eq, not_false_eq_true, decide_true] at admitted
      exact .inl admitted

/-- Events 0 and 1 write 1 and 2; the reads 2 and 3 follow one another by po-loc, and the second is fr-before what the first observes. -/
theorem coherenceRR_verdicts :
    let rr := fun v3 v4 => (coherenceRR v3 v4).allowed
    rr 0 0 = true ∧ rr 0 1 = true ∧ rr 0 2 = true ∧ rr 1 1 = true ∧ rr 1 2 = true ∧ rr 2 2 = true ∧ rr 1 0 = false ∧ rr 2 0 = false ∧
      rr 2 1 = false := by
  refine ⟨?_, ?_, ?_, ?_, ?_, ?_, ?r10, ?r20, ?r21⟩
  case r10 => exact Execution.not_allowed_of_cycle xKey 2 3 [(.poLoc, 3)] [(.fr, 0), (.rf, 2)] (by decide +kernel)
  case r20 => exact Execution.not_allowed_of_cycle xKey 2 3 [(.poLoc, 3)] [(.fr, 1), (.rf, 2)] (by decide +kernel)
  case r21 => exact Execution.not_allowed_of_cycle xKey 2 3 [(.poLoc, 3)] [(.fr, 1), (.rf, 2)] (by decide +kernel)
  all_goals decide +kernel

/-! ### Copies and reins: R117, R118 -/

/-- Event 1 is the copy's write of x, 2 P0's fence, 5 P1's fence, 6 its read of x. -/
theorem copyMessage_verdicts :
    let cpy := fun w v3 v4 => (copyMessage w v3 v4).allowed
    cpy (some 0) 1 1 = true ∧ cpy (some 0) 0 0 = true ∧ cpy (some 0) 0 1 = true ∧ cpy (some 0) 1 0 = false ∧ cpy none 1 0 = true ∧
      cpy (some 1) 1 0 = true := by
  refine ⟨?both, ?neither, ?early, ?stale, ?unwaited, ?uncovered⟩
  case stale => exact Execution.not_allowed_of_cycle xKey 1 6 [(.eo, 2), (.sw, 5), (.fo, 6)] [(.fr, 1)] (by decide +kernel)
  all_goals decide +kernel

/-- The first byte of the fabric word. -/
def fabricKey : Nat × Nat := (Place.mem (.fabric 0 64)).key 0

/-- The implied fences of PUSH and POP stand at 1 and 2 after a store, at 2 and 3 after a copy. -/
theorem reinMessage_verdicts :
    let rein := fun c w v4 => (reinMessage c w v4).allowed
    rein false false 1 = true ∧ rein false false 0 = false ∧ rein true false 0 = true ∧ rein true true 0 = false := by
  refine ⟨?fresh, ?stale, ?unwaited, ?waited⟩
  case stale => exact Execution.not_allowed_of_cycle fabricKey 0 3 [(.fo, 1), (.rein, 2), (.fo, 3)] [(.fr, 0)] (by decide +kernel)
  case waited => exact Execution.not_allowed_of_cycle fabricKey 1 4 [(.eo, 2), (.rein, 3), (.fo, 4)] [(.fr, 1)] (by decide +kernel)
  all_goals decide +kernel

/-! ### Seam launches and DET launches: R119, R120 -/

/-- Event 1 is point 0's write of x, 2 its completion fence, 5 point 1's start fence, 6 its read of x. -/
theorem seamMessage_verdicts :
    let seam := fun v3 v4 => (seamMessage v3 v4).allowed
    seam 1 0 = true ∧ seam 1 1 = true ∧ seam 0 0 = false ∧ seam 0 1 = false := by
  refine ⟨?_, ?_, ?early, ?late⟩
  case early => exact Execution.not_allowed_of_cycle xKey 1 6 [(.fo, 2), (.seam, 5), (.fo, 6)] [(.fr, 1)] (by decide +kernel)
  case late => exact Execution.not_allowed_of_cycle xKey 1 6 [(.fo, 2), (.seam, 5), (.fo, 6)] [(.fr, 1)] (by decide +kernel)
  all_goals decide +kernel

theorem detCounter_verdicts : (detCounter 1).allowed = true ∧ (detCounter 0).allowed = false :=
  ⟨by decide +kernel, Execution.not_allowed_of_detOrder (by decide +kernel)⟩

/-! ### Saddlebag reservations: R121 -/

/-- P0's fence is event 8 and P1's 11; 0 reserves entry 1, 4 is the first copy's write, and MMAB reads entry 1 at 12 and the copied byte at 14. -/
theorem reservation_verdicts :
    let bag := fun v3 e b => (reservation v3 e b).allowed
    bag 1 true true = true ∧ bag 1 false false = false ∧ bag 1 true false = false ∧ bag 0 false false = true ∧
      bag 0 true false = true ∧ bag 0 true true = true := by
  refine ⟨?seen, ?noEntry, ?staleBytes, ?_, ?_, ?_⟩
  case noEntry =>
    exact Execution.not_allowed_of_cycle ((Place.entry 1 1).key 0) 0 12 [(.fo, 8), (.sw, 11), (.fo, 12)] [(.fr, 0)] (by decide +kernel)
  case staleBytes =>
    exact Execution.not_allowed_of_cycle ((Place.saddlebag 1 1).key 0) 4 14 [(.eo, 8), (.sw, 11), (.eo, 14)] [(.fr, 4)] (by decide +kernel)
  all_goals decide +kernel

/-- Settles O60: each table's verdicts, in the order of the rules. -/
theorem orderingTestsHaveTheirVerdicts : Obligations.OrderingTestsHaveTheirVerdicts :=
  ⟨messagePassing_verdicts, storeBuffering_verdicts, loadBuffering_verdicts, independentReads_verdicts, coherenceRR_verdicts,
    narrowPassing_verdicts, promotedPassing_verdicts, copyMessage_verdicts, reinMessage_verdicts, seamMessage_verdicts,
    detCounter_verdicts, reservation_verdicts⟩

end Sys2Proof.Machine.Ordering

/-! # Threads whose own check fails, and STAMP.MIX (O31)

A thread with a poisoned source traps alone (R81, R284, R400), and the word is that of the bundle without it: the laws of this part say so of any
word whose failing threads share one cause. STAMP.MIX is a word that changes only the threads of its bundle, each by the record of R386. -/

namespace Sys2Proof.Machine

open Sys2Proof.Claims

variable (s : State)

/-! ### A bundle that is put twice -/

theorem Sparse.del_ins {α : Type} (m : Sparse α) (n : Nat) (x : α) : (m.ins n x).del n = m.del n := by
  induction m with
  | nil => simp [Sparse.ins, Sparse.del]
  | cons e r ih =>
    obtain ⟨k, v⟩ := e
    simp only [Sparse.del] at ih
    simp only [Sparse.ins]
    split <;> simp [Sparse.del, List.filter_cons, ih]

theorem Sparse.del_put {α : Type} [DecidableEq α] (d : α) (m : Sparse α) (n : Nat) (x : α) : (m.put d n x).del n = m.del n := by
  have twice : (m.del n).del n = m.del n := by simp [Sparse.del]
  unfold Sparse.put
  split
  · exact twice
  · rw [Sparse.del_ins, twice]

theorem Sparse.put_put {α : Type} [DecidableEq α] (d : α) (m : Sparse α) (n : Nat) (x y : α) : (m.put d n x).put d n y = m.put d n y := by
  rw [Sparse.put, Sparse.del_put, ← Sparse.put]

theorem State.setBundle_setBundle (core : Nat) (b c : Option Bundle) : (s.setBundle core b).setBundle core c = s.setBundle core c := by
  have hc : (s.setBundle core b).core core = { s.core core with bundle := b } := by simp
  rw [State.setBundle, State.updCore, hc]
  simp only [State.setBundle, State.updCore, State.setCore, Sparse.put_put]

/-! ### The common checks -/

/-- Four conditions asked in turn name the cause of the first that holds. -/
theorem firstOfFour_eq_some_iff {clause encoding feature operand : Bool} {k₁ k₂ k₃ k₄ k : Cause} :
    (if clause then some k₁ else if encoding then some k₂ else if feature then some k₃ else if operand then some k₄ else none) = some k ↔
      (clause ∧ k = k₁) ∨ (¬clause ∧ encoding ∧ k = k₂) ∨ (¬clause ∧ ¬encoding ∧ feature ∧ k = k₃) ∨
        (¬clause ∧ ¬encoding ∧ ¬feature ∧ operand ∧ k = k₄) := by
  split_ifs <;> simp [*, eq_comm]

/-- The checks of order 1 to 4 of R284 as the statements write them are those that a word of a bundle makes. -/
theorem failsFirst_iff (b : Bundle) (i : Instr) (k : Cause) : FailsFirst s b i k ↔
    (useOf (s.lpbOf b.team).w i).cause b i.len (s.lpbOf b.team) (s.core s.cur).feat (s.anyTrapped b) i.wf = some k := by
  rw [Use.cause, firstOfFour_eq_some_iff]
  simp [FailsFirst, or_assoc]

theorem cause_eq_none_of_not_failsFirst {s} {b : Bundle} {i : Instr} (h : ∀ k, ¬FailsFirst s b i k) :
    (useOf (s.lpbOf b.team).w i).cause b i.len (s.lpbOf b.team) (s.core s.cur).feat (s.anyTrapped b) i.wf = none :=
  Option.eq_none_iff_forall_ne_some.mpr fun k hk => h k ((failsFirst_iff s b i k).mpr hk)

/-! ### Taking a trap -/

/-- Where no group waits at a rendezvous that a trap could break (R367), only the thread itself traps. -/
theorem State.takeTrap_eq_trapOne (t : Nat) (m : Member) (k : TrapInfo) (h : noRendezvous (s.trapOne t m k) t) :
    s.takeTrap t m k = s.trapOne t m k := by
  have hw : (s.trapOne t m k).waitingGroups t = [] := by
    rw [State.waitingGroups, List.filter_eq_nil_iff]; intro g _; simp [h g]
  simp [State.takeTrap, State.breakGangs, h m.1, hw]

/-- A thread outside trap state after it has taken a trap (R400). -/
def State.afterTrap (t : Nat) (m : Member) (k : TrapInfo) : Thread :=
  { (s.thread t m.1 m.2).enterTrap (s.lpbOf t).nv (s.tenant (s.team t).tenant) (s.laneOffset t m.1 m.2 / 4) k with
    readyAt := (s.core (s.group t m.1).core).clk.toNat, late := false, prio := false }

/-- Between s and r the threads of a list took one trap, and nothing else changed but the events posted. -/
structure TookTraps (s r : State) (t : Nat) (ms : List Member) (k : TrapInfo) : Prop where
  machine : r = { s with teams := r.teams, notices := r.notices }
  teams : ∀ n, (r.team n).bare = (s.team n).bare
  groups : ∀ g, (r.group t g).bare = (s.group t g).bare
  threads : ∀ g l, r.thread t g l = if (g, l) ∈ ms then s.afterTrap t (g, l) k else s.thread t g l

theorem State.trapOne_eq (t : Nat) (m : Member) (k : TrapInfo) (hk : k.cause ≠ .pageFault) (hin : (s.thread t m.1 m.2).inTrap = false) :
    ∃ ns, s.trapOne t m k = { s.updThread t m.1 m.2 (fun _ => s.afterTrap t m k) with notices := ns } := by
  have hp : (k.cause == .pageFault) = false := by simpa using hk
  simp only [State.trapOne, hp, hin, Bool.false_eq_true, if_false]
  split
  · exact ⟨_, rfl⟩
  · exact ⟨s.notices, rfl⟩

theorem State.trapOne_tookTraps (t : Nat) (m : Member) (k : TrapInfo) (hk : k.cause ≠ .pageFault)
    (hin : (s.thread t m.1 m.2).inTrap = false) : TookTraps s (s.trapOne t m k) t [m] k := by
  obtain ⟨ns, h⟩ := s.trapOne_eq t m k hk hin
  rw [h]
  refine ⟨rfl, fun n => ?_, fun g => ?_, fun g l => ?_⟩
  · exact s.team_foldl_updThread t [m] (fun _ _ => s.afterTrap t m k) n
  · exact s.group_foldl_updThread t [m] (fun _ _ => s.afterTrap t m k) t g
  · refine (s.thread_foldl_updThread t [m] (fun m _ => s.afterTrap t m k) (List.nodup_singleton m) t g l).trans ?_
    simp

namespace TookTraps

variable {s} {r : State} {t : Nat} {ms : List Member} {k : TrapInfo}

theorem cur (h : TookTraps s r t ms k) : r.cur = s.cur := by rw [h.machine]
theorem core (h : TookTraps s r t ms k) (n : Nat) : r.core n = s.core n := by rw [h.machine]; rfl
theorem tenant (h : TookTraps s r t ms k) (n : Nat) : r.tenant n = s.tenant n := by rw [h.machine]; rfl

theorem lpbOf (h : TookTraps s r t ms k) (n : Nat) : r.lpbOf n = s.lpbOf n := by
  have hl : (r.team n).launch = (s.team n).launch := (congrArg Team.launch (h.teams n) :)
  have hs : r.launches = s.launches := by rw [h.machine]
  simp only [State.lpbOf, State.launchOf, State.launch, hl, hs]

theorem noRendezvous (h : TookTraps s r t ms k) (hn : noRendezvous s t) : Claims.noRendezvous r t := fun g =>
  (congrArg Group.rendezvous (h.groups g)).trans (hn g)

/-- A thread that has not trapped would take a trap as it would have before. -/
theorem afterTrap (h : TookTraps s r t ms k) {m : Member} (hm : m ∉ ms) (k' : TrapInfo) : r.afterTrap t m k' = s.afterTrap t m k' := by
  have hth : r.thread t m.1 m.2 = s.thread t m.1 m.2 := by rw [h.threads, if_neg hm]
  have hten : (r.team t).tenant = (s.team t).tenant := (congrArg Team.tenant (h.teams t) :)
  have hclu : (r.team t).cluster = (s.team t).cluster := (congrArg Team.cluster (h.teams t) :)
  have hbase : (r.team t).base = (s.team t).base := (congrArg Team.base (h.teams t) :)
  have hcore : (r.group t m.1).core = (s.group t m.1).core := (congrArg Group.core (h.groups m.1) :)
  have hpart : r.partitions = s.partitions := by rw [h.machine]
  have hidx : ∀ tn c, r.clusterIndex tn c = s.clusterIndex tn c := fun tn c => by
    simp only [State.clusterIndex, State.partsOf, State.partition, hpart]
  simp only [State.afterTrap, State.laneOffset, State.fabricOffset, hth, hten, hclu, hbase, hcore, hidx, h.lpbOf, h.core, h.tenant]

theorem append {q : State} {m : Member} (h : TookTraps s q t [m] k) (h' : TookTraps q r t ms k) (hm : m ∉ ms) :
    TookTraps s r t (m :: ms) k where
  machine := by rw [h'.machine, h.machine]
  teams n := (h'.teams n).trans (h.teams n)
  groups g := (h'.groups g).trans (h.groups g)
  threads g l := by
    rw [h'.threads, h.threads]
    by_cases hgl : (g, l) = m
    · subst hgl; simp [hm]
    · simp only [List.mem_cons, hgl, List.not_mem_nil, false_or, or_false, if_false]
      split
      · rw [h.afterTrap (by simpa using hgl)]
      · rfl

end TookTraps

/-- A trap at the word where a bundle stands: PC at the header, POS at the word (R284). -/
def Bundle.trapHere (b : Bundle) (k : Cause) (code : Nat) (tva : Dword) : TrapInfo :=
  { cause := k, code := code, tva := tva, pc := b.pc, rpos := b.pos }

theorem State.takeAll_cons (b : Bundle) (m : Member) (k : Cause) (code : Nat) (tva : Dword) (ts : List TrapAt) :
    s.takeAll b (⟨m, k, code, tva⟩ :: ts) = (s.takeTrap b.team m (b.trapHere k code tva)).takeAll b ts := rfl

/-- Distinct threads outside trap state take one trap of their bundle's word. -/
theorem State.takeAll_tookTraps (b : Bundle) (ms : List Member) (k : Cause) (code : Nat) (tva : Dword) (hk : k ≠ .pageFault) (hnd : ms.Nodup)
    (hin : ∀ m ∈ ms, (s.thread b.team m.1 m.2).inTrap = false) (hn : noRendezvous s b.team) :
    TookTraps s (s.takeAll b (ms.map (fun m => ⟨m, k, code, tva⟩))) b.team ms (b.trapHere k code tva) := by
  induction ms generalizing s with
  | nil => exact ⟨rfl, fun _ => rfl, fun _ => rfl, fun _ _ => rfl⟩
  | cons m ms ih =>
    obtain ⟨hm, hnd⟩ := List.nodup_cons.mp hnd
    have first := s.trapOne_tookTraps b.team m (b.trapHere k code tva) hk (hin m (by simp))
    have hin' : ∀ n ∈ ms, ((s.trapOne b.team m (b.trapHere k code tva)).thread b.team n.1 n.2).inTrap = false := fun n hnms => by
      have hne : n ≠ m := fun h => hm (h ▸ hnms)
      rw [first.threads, if_neg (by simpa using hne)]
      exact hin n (by simp [hnms])
    have rest := ih _ hnd hin' (first.noRendezvous hn)
    rw [List.map_cons, State.takeAll_cons, s.takeTrap_eq_trapOne _ _ _ (first.noRendezvous hn)]
    exact first.append rest hm

/-! ### What a trap does to its thread (R398, R400) -/

theorem lvalOf_lt (x : Thread) (rpos : Nat) : lvalOf x rpos < 16 := by
  unfold lvalOf
  split
  · decide
  · have hbit : ∀ n, (if NatSet.has x.y.valid n then 2 ^ n else 0) ≤ 2 ^ n := fun n => by split <;> simp
    have := hbit 0; have := hbit 1; have := hbit 2; have := hbit 3
    simp only [List.range, List.range.loop, List.map_cons, List.map_nil, List.sum_cons, List.sum_nil]
    omega

theorem Thread.saveTrap_lval (x : Thread) (nv : Nat) (k : TrapInfo) : (x.saveTrap nv k).trap.lval = BitVec.ofNat 4 (lvalOf x k.rpos) := by
  by_cases h : k.rpos = 0 <;> simp [Thread.saveTrap, lvalOf, Latches.bits, h]

theorem stopsForDebugger_iff (ten : Tenant) (nv : Nat) (k : TrapInfo) : stopsForDebugger ten nv k.cause ↔
    (!ten.trapEnt.getLsbD 0 || decide (nv < 2) || ten.dbgAll || (k.cause == .breakpoint && ten.dbgBrk)) = true := by
  simp [stopsForDebugger, or_assoc]

theorem Thread.enterTrap_of_stops {ten : Tenant} {nv : Nat} {k : TrapInfo} (h : stopsForDebugger ten nv k.cause) (x : Thread) (lane : Nat) :
    x.enterTrap nv ten lane k = { x.saveTrap nv k with
      trap := { (x.saveTrap nv k).trap with dbg := true }, pc := k.header, pos := k.index, status := .stopped } := by
  rw [Thread.enterTrap, if_pos ((stopsForDebugger_iff ten nv k).mp h)]

theorem Thread.enterTrap_of_handles {ten : Tenant} {nv : Nat} {k : TrapInfo} (h : ¬stopsForDebugger ten nv k.cause) (x : Thread) (lane : Nat) :
    x.enterTrap nv ten lane k =
      { ((x.saveTrap nv k).vSet (nv - 2) (BitVec.ofNat 32 lane)).vSet (nv - 1) (x.saveTrap nv k).trap.tcause with
        pc := BitVec.ofNat 64 (bitsOf ten.trapEnt.toNat 51 2 * 4), pos := 0, status := .handler } := by
  rw [Thread.enterTrap, if_neg (fun hc => h ((stopsForDebugger_iff ten nv k).mpr hc))]

theorem Thread.saveTrap_tcause (x : Thread) (nv : Nat) (k : TrapInfo) :
    (x.saveTrap nv k).trap.tcause = tcauseWord k.cause k.rpos (lvalOf x k.rpos) k.code := by
  have hl : (BitVec.ofNat 4 (lvalOf x k.rpos)).toNat = lvalOf x k.rpos := by
    rw [BitVec.toNat_ofNat, Nat.mod_eq_of_lt (lvalOf_lt x k.rpos)]
  rw [TrapState.tcause, x.saveTrap_lval nv k, hl]
  simp [Thread.saveTrap, tcauseWord, Bool.bit]

/-- The handler's clause starts at bits 51 to 2 of TRAPENT. -/
theorem bitsOf_trapEnt (n : Nat) : bitsOf n 51 2 * 4 = n % 2 ^ 52 / 4 * 4 := by
  unfold bitsOf; omega

/-- Two registers written, and all others as they were. -/
theorem Thread.vSet_vSet (x : Thread) {p q : Nat} (h : p ≠ q) (u w : Word) :
    ((x.vSet p u).vSet q w).vGet p = u ∧ ((x.vSet p u).vSet q w).vGet q = w ∧
      NatSet.has ((x.vSet p u).vSet q w).vPoison p = false ∧ NatSet.has ((x.vSet p u).vSet q w).vPoison q = false ∧
      ∀ n, n ≠ p → n ≠ q → ((x.vSet p u).vSet q w).vGet n = x.vGet n ∧
        NatSet.has ((x.vSet p u).vSet q w).vPoison n = NatSet.has x.vPoison n := by
  refine ⟨by simp [h.symm], by simp, by simp [Thread.vSet], by simp [Thread.vSet], fun n hp hq => ?_⟩
  simp [hp.symm, hq.symm, Thread.vSet, Thread.vGet, Sparse.get_put]

/-- A thread that enters a trap has taken it as R400 says. -/
theorem Thread.enterTrap_trapTaken (x : Thread) (ten : Tenant) (nv lane : Nat) (k : TrapInfo) (clk : Nat) :
    TrapTaken x { x.enterTrap nv ten (lane / 4) k with readyAt := clk, late := false, prio := false } ten nv lane k.cause k.code k.tva k.pc
      k.rpos := by
  have hlval := x.saveTrap_lval nv k
  have hsave0 : 2 ≤ nv → x.tsave0 nv k = x.vGet (nv - 2) := fun h => by rw [Thread.tsave0, if_neg (by omega)]
  by_cases hs : stopsForDebugger ten nv k.cause
  · rw [Thread.enterTrap_of_stops hs]
    exact { cause := ⟨rfl, rfl, hlval, rfl, rfl, by simp [hs]⟩
            place := ⟨rfl, rfl, hsave0, rfl⟩
            stopped := fun _ => ⟨rfl, fun _ => rfl⟩
            handler := fun h => absurd hs h
            latches := ⟨rfl, by simp [Thread.saveTrap]⟩
            kept := rfl }
  · have hnv : 2 ≤ nv := Nat.le_of_not_lt fun hlt => hs (.inr (.inl hlt))
    rw [Thread.enterTrap_of_handles hs, Thread.saveTrap_tcause]
    obtain ⟨hlane, hcause, hclean0, hclean1, hothers⟩ := (x.saveTrap nv k).vSet_vSet (show nv - 2 ≠ nv - 1 by omega)
      (BitVec.ofNat 32 (lane / 4)) (tcauseWord k.cause k.rpos (lvalOf x k.rpos) k.code)
    exact { cause := ⟨rfl, rfl, hlval, rfl, rfl, by simp [hs, Thread.vSet, Thread.saveTrap]⟩
            place := ⟨rfl, rfl, hsave0, rfl⟩
            stopped := fun h => absurd h hs
            handler := fun _ => ⟨rfl, by rw [bitsOf_trapEnt], rfl, hlane, hcause, hclean0, hclean1, hothers⟩
            latches := ⟨rfl, by simp [Thread.vSet, Thread.saveTrap]⟩
            kept := rfl }

/-- A thread that stops stands at the word, where the word is not one that the trap resumes behind (log 56). -/
theorem Thread.enterTrap_stopped {x : Thread} {ten : Tenant} {nv lane : Nat} {k : TrapInfo} (hk : k.behind = false)
    (h : (x.enterTrap nv ten lane k).status = .stopped) : (x.enterTrap nv ten lane k).pc = k.pc ∧ (x.enterTrap nv ten lane k).pos = k.rpos := by
  by_cases hs : stopsForDebugger ten nv k.cause
  · rw [Thread.enterTrap_of_stops hs]
    simp [TrapInfo.header, TrapInfo.index, hk]
  · rw [Thread.enterTrap_of_handles hs] at h
    cases h

/-- A thread that took a trap of its bundle's word, as the statements say it. -/
theorem TookTraps.trappedAs {s r t : State} {b : Bundle} {ms : List Member} {k : Cause} {code : Nat} {tva : Dword} {m : Member}
    (h : TookTraps s r b.team ms (b.trapHere k code tva))
    (hk : k ≠ .software ∧ k ≠ .breakpoint) (hm : m ∈ ms) (ht : t.thread b.team m.1 m.2 = r.thread b.team m.1 m.2) :
    trappedAs s t b m k code tva b.pc b.pos := by
  have hth : t.thread b.team m.1 m.2 = s.afterTrap b.team m (b.trapHere k code tva) := by rw [ht, h.threads, if_pos hm]
  rw [Claims.trappedAs, hth]
  exact ⟨Thread.enterTrap_trapTaken _ _ _ _ _ _, Thread.enterTrap_stopped (by simp [Bundle.trapHere, TrapInfo.behind, hk])⟩

/-! ### Threads whose own check fails -/

/-- The traps of the threads that alone fail check 5 or 6 of R284. -/
def State.ownTraps (b : Bundle) (u : Use) : List TrapAt :=
  b.members.filterMap (fun m => (s.ownCause b.team u m).map (fun k => ⟨m, k, 0, 0⟩))

/-- A word whose common checks pass and that need not wait: its failing threads trap, then it is the word of the others (R284). -/
theorem runWord_ownTraps {b c : Bundle} {i : Instr} {ts : List TrapAt} (body : Ctx → State → Res) (hb : (s.core s.cur).bundle = some b)
    (hne : b.members ≠ []) (hr : Unheld s b) (hc : ∀ k, ¬FailsFirst s b i k) (hw : s.waits b (useOf (s.lpbOf b.team).w i) = false)
    (hts : s.ownTraps b (useOf (s.lpbOf b.team).w i) = ts) (hrest : b.without ts = c) :
    runWord i s body = .next (if c.members.isEmpty then (s.takeAll b ts).freeSlice s.cur
      else settle s.cur i.len c (body ⟨s.cur, c.team, c, s.lpbOf b.team, i.len⟩
        ((s.takeAll b ts).setBundle s.cur (some { c with stalled := false })))) := by
  subst hts hrest
  have hnone := cause_eq_none_of_not_failsFirst hc
  simp only [State.anyTrapped] at hnone
  rw [runWord, hb]
  simp only [s.runIn_free s.cur b i body hne hr, State.runFree, hnone, hw, Bool.false_eq_true, if_false]
  rfl

section

variable {s} {b : Bundle} {u : Use} {i : Instr} {k : Cause}

/-- The threads of a bundle that fail with a cause, and the bundle of those that do not. -/
def State.failing (s : State) (b : Bundle) (u : Use) (k : Cause) : List Member :=
  b.members.filter (fun m => s.ownCause b.team u m == some k)

def State.sparing (s : State) (b : Bundle) (u : Use) (k : Cause) : Bundle :=
  { b with members := b.members.filter (fun m => decide (¬s.ownCause b.team u m = some k)) }

theorem State.mem_failing {m : Member} : m ∈ s.failing b u k ↔ m ∈ b.members ∧ s.ownCause b.team u m = some k := by
  simp [State.failing]

theorem State.mem_sparing {m : Member} : m ∈ (s.sparing b u k).members ↔ m ∈ b.members ∧ m ∉ s.failing b u k := by
  simp +contextual [State.sparing, State.failing]

/-- Where one cause is all that fails, the traps are those of the threads that fail with it. -/
theorem State.ownTraps_eq_map (h : ∀ m ∈ b.members, s.ownCause b.team u m = some k ∨ s.ownCause b.team u m = none) :
    s.ownTraps b u = (s.failing b u k).map (fun m => ⟨m, k, 0, 0⟩) := by
  rw [State.ownTraps, State.failing, ← List.filterMap_eq_map, List.filterMap_filter]
  refine List.filterMap_congr fun m hm => ?_
  rcases h m hm with h | h <;> simp [h]

theorem State.without_failing : b.without ((s.failing b u k).map (fun m => ⟨m, k, 0, 0⟩)) = s.sparing b u k := by
  rw [Bundle.without, State.sparing]
  congr 1
  refine List.filter_congr fun m hm => ?_
  have hmem : (List.map (fun m => (⟨m, k, 0, 0⟩ : TrapAt)) (s.failing b u k)).any (fun x => x.m == m) = true ↔
      s.ownCause b.team u m = some k := by
    simp only [List.any_map, List.any_eq_true, Function.comp_apply, beq_iff_eq, exists_eq_right, State.mem_failing, hm, true_and]
  simp only [← hmem, decide_not, Bool.decide_eq_true]

/-- Checks 5 and 6 of a thread that has not trapped are as they were. -/
theorem TookTraps.ownCause {r : State} {t : Nat} {ms : List Member} {k : TrapInfo} (h : TookTraps s r t ms k) {m : Member} (hm : m ∉ ms) (u : Use) :
    r.ownCause t u m = s.ownCause t u m := by
  have hth : r.thread t m.1 m.2 = s.thread t m.1 m.2 := by rw [h.threads, if_neg hm]
  have hpoison : u.poisonBad (r.group t m.1) = u.poisonBad (s.group t m.1) := (congrArg u.poisonBad (h.groups m.1) :)
  simp only [State.thread] at hth
  simp only [State.ownCause, hth, hpoison]

/-- The wait at issue does not depend on threads. -/
theorem TookTraps.waits {r : State} {t : Nat} {ms : List Member} {k : TrapInfo} (h : TookTraps s r t ms k) (c : Bundle) (hc : c.team = t) (u : Use) :
    r.waits c u = s.waits c u := by
  have hf : r.flights = s.flights := by rw [h.machine]
  have ha : r.awl = s.awl := by rw [h.machine]
  have ht : (r.group t c.group).tiles = (s.group t c.group).tiles := (congrArg Group.tiles (h.groups c.group) :)
  simp only [State.waits, State.isPending, State.pendingRegs, hc, hf, ha, ht]

/-- A word of a bundle comes to its threads' own checks, the checks 5 and 6 of R284: the common checks pass, no thread awaits an answer or is in
trap state, no group waits at a rendezvous, no register has a write pending, and k is the only cause that a thread fails with. -/
structure MeetsOwnChecks (s : State) (b : Bundle) (i : Instr) (k : Cause) : Prop where
  bundle : (s.core s.cur).bundle = some b
  some : b.members ≠ []
  distinct : b.members.Nodup
  answered : Unheld s b
  checks : ∀ k, ¬FailsFirst s b i k
  free : s.waits b (useOf (s.lpbOf b.team).w i) = false
  spared : s.waits (s.sparing b (useOf (s.lpbOf b.team).w i) k) (useOf (s.lpbOf b.team).w i) = false
  own : ∀ m ∈ b.members, s.ownCause b.team (useOf (s.lpbOf b.team).w i) m = .some k ∨ s.ownCause b.team (useOf (s.lpbOf b.team).w i) m = none
  untrapped : ∀ m ∈ b.members, (s.thread b.team m.1 m.2).inTrap = false
  alone : noRendezvous s b.team

theorem anyTrapped_eq_false {c : Bundle} (h : ∀ m ∈ c.members, (s.thread c.team m.1 m.2).inTrap = false) : s.anyTrapped c = false := by
  rw [State.anyTrapped, List.any_eq_false]
  exact fun m hm => by simp [h m hm]

/-- After the failing threads of a bundle have trapped, the word issues in the others. -/
theorem MeetsOwnChecks.issues_sparing (h : MeetsOwnChecks s b i k) {r : State} {info : TrapInfo}
    (hne : (s.sparing b (useOf (s.lpbOf b.team).w i) k).members ≠ [])
    (took : TookTraps s r b.team (s.failing b (useOf (s.lpbOf b.team).w i) k) info) :
    Issues (r.setBundle s.cur (Option.some (s.sparing b (useOf (s.lpbOf b.team).w i) k))) (s.sparing b (useOf (s.lpbOf b.team).w i) k) i := by
  obtain ⟨c, hc⟩ : ∃ c, c = s.sparing b (useOf (s.lpbOf b.team).w i) k := ⟨_, rfl⟩
  rw [← hc] at hne ⊢
  have hteam : c.team = b.team := by rw [hc]; rfl
  have hsub : ∀ m ∈ c.members, m ∈ b.members := fun m hm => (State.mem_sparing.mp (hc ▸ hm)).1
  have hms : ∀ m ∈ c.members, m ∉ s.failing b (useOf (s.lpbOf b.team).w i) k := fun m hm => (State.mem_sparing.mp (hc ▸ hm)).2
  have hlpb : (r.setBundle s.cur (Option.some c)).lpbOf c.team = s.lpbOf b.team := by rw [hteam]; exact took.lpbOf b.team
  have hcause := cause_eq_none_of_not_failsFirst h.checks
  rw [anyTrapped_eq_false h.untrapped] at hcause
  have huntrapped : (r.setBundle s.cur (Option.some c)).anyTrapped c = false := anyTrapped_eq_false fun m hm => by
    rw [State.thread_setBundle, hteam, took.threads, if_neg (hms m hm)]
    exact h.untrapped m (hsub m hm)
  have hfeat : ((r.setBundle s.cur (Option.some c)).core (r.setBundle s.cur (Option.some c)).cur).feat = (s.core s.cur).feat := by
    simp [took.cur, took.core]
  refine ⟨by simp [took.cur], hne, by rw [hc]; exact h.distinct.filter _, fun m hm => ?_, ?_, ?_, fun m hm => ?_⟩
  · obtain ⟨hremote, hword⟩ := State.remoteWait_congr s (r.setBundle s.cur (Option.some c)) c.team m (by rw [took.machine]; rfl)
      (by rw [took.machine]; rfl) (by rw [hlpb, hteam])
    rw [hremote, hword, hteam]
    exact h.answered m (hsub m hm)
  · rw [hlpb, huntrapped, hfeat, hc]
    exact hcause
  · rw [hlpb]
    exact ((took.waits c hteam _).trans (by rw [hc]; exact h.spared))
  · rw [hlpb, hteam]
    exact (took.ownCause (hms m hm) _).trans ((h.own m (hsub m hm)).resolve_left
      fun hbad => hms m hm (State.mem_failing.mpr ⟨hsub m hm, hbad⟩))

/-- A word that issues in a bundle just put on the core. -/
theorem runWord_issues_setBundle {r : State} {n : Nat} {c : Bundle} (body : Ctx → State → Res) (hn : r.cur = n)
    (h : Issues (r.setBundle n (Option.some c)) c i) : runWord i (r.setBundle n (Option.some c)) body =
      .next (settle n i.len c (body ⟨n, c.team, c, r.lpbOf c.team, i.len⟩ (r.setBundle n (Option.some { c with stalled := false })))) := by
  subst hn
  rw [runWord_issues _ _ _ _ h, State.issued, State.setBundle_cur, State.setBundle_setBundle]
  rfl

/-- Each thread that fails traps, whatever the word does in the others, if it leaves alone the threads outside its bundle. -/
theorem MeetsOwnChecks.traps (h : MeetsOwnChecks s b i k) (hk : k ≠ .pageFault ∧ k ≠ .software ∧ k ≠ .breakpoint) (body : Ctx → State → Res)
    (keeps : ∀ r c, Issues r c i → ∃ t, runWord i r body = .next t ∧ ∀ g l, (g, l) ∉ c.members → t.thread c.team g l = r.thread c.team g l) :
    ∃ t, runWord i s body = .next t ∧
      ∀ m ∈ s.failing b (useOf (s.lpbOf b.team).w i) k, trappedAs s t b m k 0 0 b.pc b.pos := by
  obtain ⟨hpage, hbehind⟩ := hk
  have hrun := runWord_ownTraps s body h.bundle h.some h.answered h.checks h.free (State.ownTraps_eq_map h.own) State.without_failing
  have took := s.takeAll_tookTraps b (s.failing b (useOf (s.lpbOf b.team).w i) k) k 0 0 hpage (h.distinct.filter _)
    (fun m hm => h.untrapped m (State.mem_failing.mp hm).1) h.alone
  by_cases hne : (s.sparing b (useOf (s.lpbOf b.team).w i) k).members = []
  · rw [hne, List.isEmpty_nil, if_pos rfl] at hrun
    exact ⟨_, hrun, fun m hm => took.trappedAs hbehind hm rfl⟩
  · have issues := h.issues_sparing hne took
    obtain ⟨t, ht, hkeeps⟩ := keeps _ _ issues
    rw [runWord_issues_setBundle body took.cur issues] at ht
    rw [if_neg (by simpa using hne)] at hrun
    refine ⟨t, ?_, fun m hm => took.trappedAs hbehind hm (hkeeps m.1 m.2 (fun hc => (State.mem_sparing.mp hc).2 hm))⟩
    rw [hrun, ← ht, took.lpbOf]
    rfl

end

/-! ### STAMP.MIX (R386) -/

/-- An operand is read from the uniform registers of its group, and the registers and latches of its thread. -/
theorem readSrc_congr {g g' : Group} {x x' : Thread} (hs : g'.s = g.s) (hv : x'.v = x.v) (hy : x'.y = x.y) (e : Env)
    (imm : Option (BitVec 16)) (code : BitVec 8) (width : Nat) : readSrc g' x' e imm code width = readSrc g x e imm code width := by
  simp [readSrc, Thread.vPair, Thread.vGet, Group.sPair, Group.sGet, hs, hv, hy]

theorem State.env_updThread (t g l : Nat) (f : Thread → Thread) (u h k : Nat) : (s.updThread t g l f).env u h k = s.env u h k := by
  simp only [State.env, State.team_updThread]
  split <;> rfl

/-- The operands of a thread do not depend on the records of any thread. -/
theorem State.src32_addRecord (c : Ctx) (a : BitVec 8) (m n : Member) (kind va : Nat) (data : List Byte) :
    (s.updThread c.team n.1 n.2 (fun x => x.addRecord kind va data)).src32 c a m = s.src32 c a m := by
  rw [State.src32, State.src32, State.env_updThread]
  refine congrArg (BitVec.ofNat 32) (readSrc_congr ?_ ?_ ?_ _ _ _ _)
  · rw [State.group_updThread]; split <;> rfl
  · rw [State.thread_updThread]; split <;> rfl
  · rw [State.thread_updThread]; split <;> rfl

/-- Each thread of a list adds the record of its own operand as it stands before any of them has. -/
theorem State.foldl_addRecord_src32 (c : Ctx) (a : BitVec 8) (ms : List Member) (v : Member → Word) (hv : ∀ m, s.src32 c a m = v m) :
    ms.foldl (fun r m => r.updThread c.team m.1 m.2 (fun x => x.addRecord 1 0 (leBytes 4 (r.src32 c a m).toNat))) s =
      ms.foldl (fun r m => r.updThread c.team m.1 m.2 (fun x => x.addRecord 1 0 (leBytes 4 (v m).toNat))) s := by
  induction ms generalizing s with
  | nil => rw [List.foldl_nil, List.foldl_nil]
  | cons m ms ih =>
    simp only [List.foldl_cons, hv m]
    exact ih _ fun n => by rw [State.src32_addRecord, hv n]

/-- The record of R386: 01, seven 0, 03 and the value. -/
theorem recordBytes_stampMix (n : Nat) : recordBytes 1 0 (leBytes 4 n) = [1, 0, 0, 0, 0, 0, 0, 0, 3] ++ leBytes 4 n := rfl

/-- STAMP.MIX adds a record in each thread of a DET launch, and else goes on without an effect. -/
theorem stampMix_spec (b : Bundle) (a : BitVec 8) (h : Issues s b (.stampMix a)) :
    ∃ t, exec (.stampMix a) s = .next t ∧ WordFrame s t b 1 ∧ SameUniform s t b.team ∧
      ∀ m ∈ b.members, t.thread b.team m.1 m.2 = (if (s.lpbOf b.team).det then
          (s.thread b.team m.1 m.2).addRecord 1 0 (leBytes 4 (Claims.wordIn s b m a).toNat)
        else s.thread b.team m.1 m.2).afterWord b 1 (clockOf s) := by
  rw [exec_stampMix, execStampMix, runWord_issues s b _ _ h]
  cases hdet : (s.lpbOf b.team).det with
  | false =>
    obtain ⟨t, ht, hframe, hthreads, hregs⟩ := word_frame s b _ (s.issued b) h rfl (fun _ _ => rfl) rfl (fun _ => rfl) (fun _ _ _ => rfl)
    refine ⟨t, ?_, hframe, hregs, hthreads⟩
    simp only [State.ctx, hdet]
    rw [← ht]
    rfl
  | true =>
    obtain ⟨t, ht, hframe, hregs, hthreads⟩ := threadWord_spec s b _ h
      (fun m x => x.addRecord 1 0 (leBytes 4 (Claims.wordIn s b m a).toNat))
    refine ⟨t, ?_, hframe, hregs, hthreads⟩
    rw [← ht]
    simp only [State.ctx, hdet, Ctx.mems]
    exact congrArg (fun r => Host.Outcome.next (settle s.cur _ b (done r)))
      ((s.issued b).foldl_addRecord_src32 (s.ctx b (.stampMix a)) a b.members (fun m => Claims.wordIn s b m a) fun _ => rfl)

/-- Settles O31: STAMP.MIX changes only the digests of its threads, and the threads whose source is poisoned trap alone. -/
theorem stampMixAddsARecord : Obligations.StampMixAddsARecord := by
  refine ⟨fun s b a h => ?_, ?_⟩
  · have := stampMix_spec s b a h
    simp only [Thread.addRecord, recordBytes_stampMix] at this
    exact this
  intro s b a hb hne hnd hr i u bad hown hc hw hspared hin hn
  have meets : MeetsOwnChecks s b i .poisonRead := ⟨hb, hne, hnd, hr, hc, hw, hspared, hown, hin, hn⟩
  obtain ⟨t, ht, htraps⟩ := meets.traps (by decide) _ (fun r c issues => by
    obtain ⟨t, ht, hframe, -⟩ := stampMix_spec r c a issues
    exact ⟨t, ht, hframe.threads⟩)
  exact ⟨t, ht, fun m hm hbad => htraps m (State.mem_failing.mpr ⟨hm, hbad⟩)⟩

end Sys2Proof.Machine
